-- ==== Sys2Proof/Word.lean ====
section
/-! DEFINITION. The word types and their plainest arithmetic (00 R2, R3; 06 R96). -/
namespace Sys2Proof

/-- A 64-bit scalar register value (06 R96). -/
abbrev Word := BitVec 64

/-- One byte of storage. -/
abbrev Byte := BitVec 8

/-- A 16-bit parcel (03 R28). -/
abbrev Parcel := BitVec 16

/-- A scalar register number s0 to s31 (00 R6). -/
abbrev SReg := BitVec 5

/-- `x` sign-extended to a word. -/
abbrev sx {n : Nat} (x : BitVec n) : Word := x.signExtend 64

/-- `x` zero-extended to a word. -/
abbrev zx {n : Nat} (x : BitVec n) : Word := x.zeroExtend 64

end Sys2Proof
end

