-- ==== Sys2Proof/Syntax.lean ====
section
/-! DEFINITION. The syntax of the Yiloskad: operand shapes of 03 R30 to R42 and one constructor of `Instr` for each
row of spec/opcode_table.json, instructions and device events alike (95_what_each_step_holds.md). -/
namespace Sys2Proof

/-- fn3 of the MEM format, 111 left out (01 R11, 03 R44). -/
inductive MemSize where
  | b | h | w | d | bs | hs | ws
  deriving DecidableEq, Repr

/-- Fields of an M8 atomic (03 R42): size (false word, true double), ordering, scope, registers. -/
structure AtOps where
  dbl : Bool
  ord : BitVec 2
  scope : BitVec 2
  a : SReg
  b : SReg
  c : SReg
  deriving DecidableEq, Repr

/-- Fields of an M9 scalar floating instruction (03 R42, 06 R106): format, rounding, registers. -/
structure FOps where
  fmt : BitVec 2
  rm : BitVec 3
  a : SReg
  b : SReg
  c : SReg
  deriving DecidableEq, Repr

/-- Fields of the VM format (03 R32, R34). -/
structure VmOps where
  a : BitVec 5
  b : SReg
  c : BitVec 5
  x : Bool
  mode : BitVec 2
  vm : Bool
  eew : BitVec 3
  deriving DecidableEq, Repr

/-- Fields of the V format (03 R32, R33): chain b, chain c, form, vm, format word s24 + n. -/
structure VOps where
  a : BitVec 5
  b : BitVec 5
  c : BitVec 5
  x : Bool
  cb : Bool
  form : BitVec 2
  vm : Bool
  n : BitVec 3
  deriving DecidableEq, Repr

/-- Fields of the G format (03 R32, R35): declared mask `d`, projection. -/
structure GOps where
  a : BitVec 5
  b : BitVec 5
  c : BitVec 5
  x : Bool
  cb : Bool
  d : BitVec 5
  proj : Bool
  deriving DecidableEq, Repr

/-- Fields of the IV format (03 R32, R36). -/
structure IvOps where
  a : BitVec 5
  b : BitVec 5
  c : BitVec 5
  x : Bool
  cb : Bool
  vm : Bool
  p : Bool
  deriving DecidableEq, Repr

/-- Fields of an outer product: TILE prefix and M58 body (03 R39). -/
structure OpOps where
  tile : BitVec 3
  pb : BitVec 5
  pc : BitVec 5
  b : BitVec 5
  c : BitVec 5
  x : Bool
  cb : Bool
  vm : Bool
  n : BitVec 3
  deriving DecidableEq, Repr

/-- Fields of a slice move: TILE prefix and M59 body (03 R39); `v` is the vector in a or c. -/
structure SliceOps where
  tile : BitVec 3
  idx : SReg
  v : BitVec 5
  cb : Bool
  vm : Bool
  n : BitVec 3
  deriving DecidableEq, Repr

/-- Fields of a tile transfer: TILE prefix and M60 body (03 R39); `strided` is mode 01. -/
structure TileOps where
  tile : BitVec 3
  n : BitVec 3
  b : SReg
  c : SReg
  strided : Bool
  vm : Bool
  deriving DecidableEq, Repr

/-- Fields of MCVT: TILE prefix and M60 body (03 R39). -/
structure McvtOps where
  tile : BitVec 3
  idx : SReg
  n : BitVec 3
  a : BitVec 5
  vm : Bool
  deriving DecidableEq, Repr

/-- The name of a hart: the launch id of its crew and its member index (07 R122). -/
structure HKey where
  lid : BitVec 32
  member : BitVec 16
  deriving DecidableEq, Repr

/-- The 8-byte word that an error strikes (08 R165): of physical memory, or of a core's register memory. -/
inductive ErrPlace where
  | mem (pa : Nat)
  | reg (stop lane off : Nat)
  deriving DecidableEq, Repr

/-- One constructor for each row of spec/opcode_table.json. -/
inductive Instr where
  /-- ADD, R99: Writes the 64-bit sum of two scalar registers. -/
  | add (a b c : SReg)
  /-- ADDW, R99: Writes the 32-bit sum, sign-extended to 64 bits. -/
  | addw (a b c : SReg)
  /-- SUB, R99: Writes the 64-bit difference of two scalar registers. -/
  | sub (a b c : SReg)
  /-- SUBW, R99: Writes the 32-bit difference, sign-extended to 64 bits. -/
  | subw (a b c : SReg)
  /-- AND, R99: Writes the bitwise AND of two scalar registers. -/
  | and (a b c : SReg)
  /-- IOR, R99: Writes the bitwise OR of two scalar registers. -/
  | ior (a b c : SReg)
  /-- XOR, R99: Writes the bitwise XOR of two scalar registers. -/
  | xor (a b c : SReg)
  /-- LSL, R99: Shifts left by s[c][5:0]. -/
  | lsl (a b c : SReg)
  /-- LSLW, R99: Shifts 32 bits left by s[c][4:0] and sign-extends the result. -/
  | lslw (a b c : SReg)
  /-- LSR, R99: Shifts right logically by s[c][5:0]. -/
  | lsr (a b c : SReg)
  /-- LSRW, R99: Shifts 32 bits right logically and sign-extends the result. -/
  | lsrw (a b c : SReg)
  /-- ASR, R99: Shifts right arithmetically by s[c][5:0]. -/
  | asr (a b c : SReg)
  /-- ASRW, R99: Shifts 32 bits right arithmetically and sign-extends the result. -/
  | asrw (a b c : SReg)
  /-- MUL, R99: Writes the low 64 bits of the product. -/
  | mul (a b c : SReg)
  /-- MULW, R99: Writes the 32-bit product, sign-extended. -/
  | mulw (a b c : SReg)
  /-- MULHS, R99: Writes the high 64 bits of the signed product. -/
  | mulhs (a b c : SReg)
  /-- MULHN, R99: Writes the high 64 bits of the natural product. -/
  | mulhn (a b c : SReg)
  /-- DIVS, R100: Writes the signed quotient, saturating instead of trapping. -/
  | divs (a b c : SReg)
  /-- DIVSW, R100: Writes the 32-bit signed quotient, sign-extended. -/
  | divsw (a b c : SReg)
  /-- DIVN, R100: Writes the natural quotient, saturating on a zero divisor. -/
  | divn (a b c : SReg)
  /-- DIVNW, R100: Writes the 32-bit natural quotient, sign-extended. -/
  | divnw (a b c : SReg)
  /-- REMS, R100: Writes the signed remainder, with the sign of the dividend. -/
  | rems (a b c : SReg)
  /-- REMSW, R100: Writes the 32-bit signed remainder, sign-extended. -/
  | remsw (a b c : SReg)
  /-- REMN, R100: Writes the natural remainder. -/
  | remn (a b c : SReg)
  /-- REMNW, R100: Writes the 32-bit natural remainder, sign-extended. -/
  | remnw (a b c : SReg)
  /-- SLT, R99: Writes 1 if s[b] is less than s[c] as signed values, else 0. -/
  | slt (a b c : SReg)
  /-- SLTN, R99: Writes 1 if s[b] is less than s[c] as natural values, else 0. -/
  | sltn (a b c : SReg)
  /-- MINS, R99: Writes the signed smaller of two registers. -/
  | mins (a b c : SReg)
  /-- MAXS, R99: Writes the signed larger of two registers. -/
  | maxs (a b c : SReg)
  /-- MINN, R99: Writes the natural smaller of two registers. -/
  | minn (a b c : SReg)
  /-- MAXN, R99: Writes the natural larger of two registers. -/
  | maxn (a b c : SReg)
  /-- CLZ, R99: Counts the leading zero bits of s[b]. -/
  | clz (a b : SReg)
  /-- CTZ, R99: Counts the trailing zero bits of s[b]. -/
  | ctz (a b : SReg)
  /-- POPC, R99: Counts the one bits of s[b]. -/
  | popc (a b : SReg)
  /-- BSWP, R99: Reverses the eight bytes of s[b]. -/
  | bswp (a b : SReg)
  /-- ADDI, R101: Adds a sign-extended 12-bit immediate. -/
  | addi (a b : SReg) (imm : BitVec 12)
  /-- ANDI, R101: ANDs s[b] with a sign-extended 12-bit immediate. -/
  | andi (a b : SReg) (imm : BitVec 12)
  /-- IORI, R101: ORs s[b] with a sign-extended 12-bit immediate. -/
  | iori (a b : SReg) (imm : BitVec 12)
  /-- XORI, R101: XORs s[b] with a sign-extended 12-bit immediate. -/
  | xori (a b : SReg) (imm : BitVec 12)
  /-- SLTI, R101: Writes 1 if s[b] is less than the immediate as signed values, else 0. -/
  | slti (a b : SReg) (imm : BitVec 12)
  /-- LSLI, R101: Shifts left by an immediate count from 0 to 63. -/
  | lsli (a b : SReg) (n : BitVec 6)
  /-- LSRI, R101: Shifts right logically by an immediate count. -/
  | lsri (a b : SReg) (n : BitVec 6)
  /-- ASRI, R101: Shifts right arithmetically by an immediate count. -/
  | asri (a b : SReg) (n : BitVec 6)
  /-- LIH, R102: Loads imm20 shifted left by 12, sign-extended from bit 31. -/
  | lih (a : SReg) (imm : BitVec 20)
  /-- ADDPC, R102: Writes pc plus imm20 times 4,096. -/
  | addpc (a : SReg) (imm : BitVec 20)
  /-- LD, R103: Loads 1, 2, 4 or 8 bytes and extends them into s[a], possibly from the read buffer. -/
  | ld (sz : MemSize) (a b : SReg) (imm : BitVec 12)
  /-- LDA, R103: Loads with acquire at ORDSCOPE and closes the strip. -/
  | lda (sz : MemSize) (a b : SReg) (imm : BitVec 12)
  /-- ST, R103: Stores the low bytes of s[a]. -/
  | st (sz : MemSize) (a b : SReg) (imm : BitVec 12)
  /-- STL, R103: Stores with release at ORDSCOPE and closes the strip. -/
  | stl (sz : MemSize) (a b : SReg) (imm : BitVec 12)
  /-- AADD, R104: Atomically adds s[c] to memory and returns the old value. -/
  | aadd (o : AtOps)
  /-- AAND, R104: Atomically ANDs s[c] into memory and returns the old value. -/
  | aand (o : AtOps)
  /-- AIOR, R104: Atomically ORs s[c] into memory and returns the old value. -/
  | aior (o : AtOps)
  /-- AXOR, R104: Atomically XORs s[c] into memory and returns the old value. -/
  | axor (o : AtOps)
  /-- AMINS, R104: Atomic signed minimum with s[c]. -/
  | amins (o : AtOps)
  /-- AMAXS, R104: Atomic signed maximum with s[c]. -/
  | amaxs (o : AtOps)
  /-- AMINN, R104: Atomic natural minimum with s[c]. -/
  | aminn (o : AtOps)
  /-- AMAXN, R104: Atomic natural maximum with s[c]. -/
  | amaxn (o : AtOps)
  /-- ASWP, R104: Atomically swaps s[c] with memory. -/
  | aswp (o : AtOps)
  /-- ACAS, R104: Atomic compare-and-swap against s[a]; the write is made either way. -/
  | acas (o : AtOps)
  /-- FADD, R107: Scalar floating add, rounded once. -/
  | fadd (o : FOps)
  /-- FSUB, R107: Scalar floating subtract. -/
  | fsub (o : FOps)
  /-- FMUL, R107: Scalar floating multiply. -/
  | fmul (o : FOps)
  /-- FDIV, R107: Scalar floating divide. -/
  | fdiv (o : FOps)
  /-- FSQRT, R107: Scalar correctly rounded square root. -/
  | fsqrt (o : FOps)
  /-- FMIN, R107: Scalar floating minimum with the NaN and signed-zero rules. -/
  | fmin (o : FOps)
  /-- FMAX, R107: Scalar floating maximum with the NaN and signed-zero rules. -/
  | fmax (o : FOps)
  /-- FMAC, R107: Scalar fused multiply-add into s[a]. -/
  | fmac (o : FOps)
  /-- FEQ, R107: Writes 1 when the operands are equal, else 0. -/
  | feq (o : FOps)
  /-- FLT, R107: Writes 1 when b is less than c, else 0. -/
  | flt (o : FOps)
  /-- FLE, R107: Writes 1 when b is less than or equal to c, else 0. -/
  | fle (o : FOps)
  /-- FCLASS, R108: Writes the one-hot class mask of the operand. -/
  | fclass (o : FOps)
  /-- FCVTI, R107: Converts a float to a signed 64-bit integer. -/
  | fcvti (o : FOps)
  /-- FCVTF, R107: Converts a signed 64-bit integer to a float. -/
  | fcvtf (o : FOps)
  /-- FCVT, R107: Converts between floating formats. -/
  | fcvt (o : FOps)
  /-- FSGN, R107: Takes the magnitude of b with the sign of c. -/
  | fsgn (o : FOps)
  /-- FSGNN, R107: Takes the magnitude of b with the opposite of c's sign. -/
  | fsgnn (o : FOps)
  /-- FSGNX, R107: Takes the magnitude of b with sign(b) xor sign(c). -/
  | fsgnx (o : FOps)
  /-- BEQ, R110: Branches when the two registers are equal. -/
  | beq (a b : SReg) (imm : BitVec 15)
  /-- BNE, R110: Branches when the two registers differ. -/
  | bne (a b : SReg) (imm : BitVec 15)
  /-- BLT, R110: Branches when s[a] is less than s[b] as signed values. -/
  | blt (a b : SReg) (imm : BitVec 15)
  /-- BGE, R110: Branches when s[a] is greater than or equal to s[b] as signed values. -/
  | bge (a b : SReg) (imm : BitVec 15)
  /-- BLTN, R110: Branches when s[a] is less than s[b] as natural values. -/
  | bltn (a b : SReg) (imm : BitVec 15)
  /-- BGEN, R110: Branches when s[a] is greater than or equal to s[b] as natural values. -/
  | bgen (a b : SReg) (imm : BitVec 15)
  /-- JAL, R110: Links pc + 4 and jumps by imm20 parcels. -/
  | jal (a : SReg) (imm : BitVec 20)
  /-- PTB, R111: Prepares branch target b[n] as pc-relative. -/
  | ptb (n : BitVec 3) (imm : BitVec 20)
  /-- JR, R111: Jumps to s[b] + imm12 and links. -/
  | jr (a b : SReg) (imm : BitVec 12)
  /-- PTBR, R111: Prepares branch target b[n] from a register plus offset. -/
  | ptbr (n : BitVec 3) (b : SReg) (imm : BitVec 12)
  /-- BRT, R111: Jumps to the prepared target b[n]. -/
  | brt (n : BitVec 3)
  /-- BRTNZ, R111: Jumps to b[n] when s[b] is nonzero. -/
  | brtnz (n : BitVec 3) (b : SReg)
  /-- BRTZ, R111: Jumps to b[n] when s[b] is zero. -/
  | brtz (n : BitVec 3) (b : SReg)
  /-- CALLT, R111: Links s1 and jumps to b[n]. -/
  | callt (n : BitVec 3)
  /-- CRD, R113: Reads a control register into s[a]. -/
  | crd (a : SReg) (cr : BitVec 12)
  /-- CWR, R113: Swaps s[b] into a control register and returns the old value. -/
  | cwr (a b : SReg) (cr : BitVec 12)
  /-- CSET, R113: Sets the bits of s[b] in a control register and returns the old value. -/
  | cset (a b : SReg) (cr : BitVec 12)
  /-- CCLR, R113: Clears the bits of s[b] in a control register and returns the old value. -/
  | cclr (a b : SReg) (cr : BitVec 12)
  /-- TRAP, R113: Raises cause 15 with its immediate in TRAPVAL. -/
  | trap (n : BitVec 12)
  /-- RESUME, R153: Returns from the trap handler, restoring level, TAN and STEP, with a full fence. -/
  | resume
  /-- IDLE, R116: Blocks the hart until a lamp is delivered. -/
  | idle
  /-- HALT, R167: Enters debug halt, at supervisor level. -/
  | halt
  /-- CR_WRITE, R115: Write to a control register that has no behaviour of its own, effective before the next dispatch. -/
  | crWrite (cr : BitVec 12) (v : Word)
  /-- LAMPCAUSE_OVF_CLEAR, R157: User CCLR of LAMPCAUSE clears OVF and ignores every other bit. -/
  | lampcauseOvfClear
  /-- FENCE, R90: Orders accesses at a scope as full, acquire or release, and closes the strip. -/
  | fence (kind : BitVec 2) (scope : BitVec 3)
  /-- FENCE_S, R90: Only closes the strip. -/
  | fenceS
  /-- FENCE_I, R118: Makes the hart's later fetches reflect the stores ordered before it. -/
  | fenceI
  /-- MARM, R119: Arms the hart's monitor on a 128-byte line. -/
  | marm (b : SReg)
  /-- MWAIT, R119: Blocks until the monitor fires, is lost or a lamp is pending, then writes a code. -/
  | mwait (a : SReg)
  /-- MONITOR_WAKE, R119: A write by another observer, or a monitor loss, ends a waiting MWAIT. -/
  | monitorWake (k : HKey) (lost : Bool)
  /-- VMFLUSH, R120: Invalidates matching translations in every TLB and waits for their users. -/
  | vmflush (b c : SReg)
  /-- ASSAY, R350: Closes the current Assay interval and closes the strip. -/
  | assay
  /-- LAUNCH, R126: Reads a launch record into a free launch table entry and returns the launch id or -1. -/
  | launch (a b : SReg)
  /-- LAUNCHI, R127: LAUNCH whose crew size is read from a count word when the entry becomes READY. -/
  | launchi (a b : SReg)
  /-- RETIRE, R129: Closes the strip and waits for the hart's transfers, accesses and accepted pushes to finish. -/
  | retire
  /-- YIELD, R142: Surrenders the pre-emption slot in a cause-19 handler, or moves the hart to the back of round-robin. -/
  | yield
  /-- FARM, R132: Declares a strip farm homed on the executing core. -/
  | farm (b : SReg)
  /-- FSTRIP, R133: Requests the next strip index from the farm's home over the Shaft ring. -/
  | fstrip (a b : SReg)
  /-- POST, R134: Releases at device scope and sends a post of iteration k round the ring. -/
  | post (b c : SReg)
  /-- WAITI, R134: Blocks until iteration k is recorded, then acquires. -/
  | waiti (b c : SReg)
  /-- BAR, R136: Arrives at the crew barrier and blocks until it releases. -/
  | bar
  /-- CONVOY, R144: Ends the current convoy; in a deterministic launch, blocks until every member arrives. -/
  | convoy
  /-- LWAIT, R130: Blocks until a launch completes, then acquires and writes its status. -/
  | lwait (a b : SReg)
  /-- UIRET, R158: Returns from the lamp handler to the main bank. -/
  | uiret
  /-- SSTART, R305: Atomically sets a stream block RUNNING and hands it to a stream slot. -/
  | sstart (a b : SReg)
  /-- SWAIT, R306: Blocks until the stream status is final, then acquires and writes it. -/
  | swait (a b : SReg)
  /-- STEST, R306: Reads the stream status without waiting, acquiring when it is final. -/
  | stest (a b : SReg)
  /-- SKILL, R307: Cancels a running or faulted stream anywhere on the device. -/
  | skill (a b : SReg)
  /-- RBIND, R324: Binds the hart as a route target with an inbox and returns its id. -/
  | rbind (a b : SReg)
  /-- RUNBIND, R325: Ends the hart's route binding and drops its unreturned rows. -/
  | runbind
  /-- ROUTE, R328: Probes a route record, takes a reassembly entry and reserves every routed slot. -/
  | route (a b : SReg)
  /-- RRECV, R331: Returns the oldest reserved inbox row once it is delivered. -/
  | rrecv (a b : SReg)
  /-- RRET, R332: Returns a result row to the router and writes the judgement. -/
  | rret (a b c : SReg)
  /-- RWAIT, R336: Blocks until a tile is final, acquires, writes its status word and frees its entry. -/
  | rwait (a b : SReg)
  /-- RSTAT, R337: Reads a selected word of a tile's state without waiting. -/
  | rstat (a b c : SReg)
  /-- VSETVL, R174: Sets VTYPE from s[c] and VL from s[b], and closes the strip. -/
  | vsetvl (a b c : SReg)
  /-- VSETVLI, R174: Sets VTYPE from its immediate and VL from s[b]. -/
  | vsetvli (a b : SReg) (vt : BitVec 9)
  /-- VSHAPE, R173: Sets VSHAPE.B, zeroes VL and sets VTYPE ill-formed. -/
  | vshape (b : SReg)
  /-- WINV, R172: Sets a vector window descriptor. -/
  | winv (v : BitVec 5) (b c : SReg)
  /-- WINM, R172: Sets a mask window descriptor. -/
  | winm (m : BitVec 3) (b c : SReg)
  /-- WING, R172: Sets a geometry window descriptor and its grade mask. -/
  | wing (w : BitVec 4) (b c : SReg)
  /-- WINI, R172: Sets an interval window descriptor. -/
  | wini (w : BitVec 4) (b c : SReg)
  /-- WINRD, R172: Reads the descriptor selected by the index in s[b]. -/
  | winrd (a b : SReg)
  /-- VLD, R187: Vector load, unit-stride, strided or indexed, possibly into a load queue. -/
  | vld (o : VmOps)
  /-- VLDFF, R188: Fault-first vector load that trims VL at a later faulting element. -/
  | vldff (o : VmOps)
  /-- VLDM, R189: Loads a mask register from a bitmap. -/
  | vldm (o : VmOps)
  /-- VFILL, R190: Fills registers from a byte stream in memory. -/
  | vfill (o : VmOps)
  /-- VST, R187: Vector store; at duplicate indices the highest element wins. -/
  | vst (o : VmOps)
  /-- VSTU, R187: Vector store; at duplicate indices any one element stays. -/
  | vstu (o : VmOps)
  /-- VSTM, R189: Stores a mask register to a bitmap. -/
  | vstm (o : VmOps)
  /-- VSPILL, R190: Spills registers to memory as a byte stream. -/
  | vspill (o : VmOps)
  /-- VSRED_IADD, R191: Indexed scatter-reduction by integer add, any order. -/
  | vsredIadd (o : VmOps)
  /-- VSRED_FADD, R191: Indexed scatter-reduction by floating add, any order. -/
  | vsredFadd (o : VmOps)
  /-- VSRED_MINS, R191: Indexed scatter-reduction by signed minimum. -/
  | vsredMins (o : VmOps)
  /-- VSRED_MAXS, R191: Indexed scatter-reduction by signed maximum. -/
  | vsredMaxs (o : VmOps)
  /-- VSRED_MINN, R191: Indexed scatter-reduction by natural minimum. -/
  | vsredMinn (o : VmOps)
  /-- VSRED_MAXN, R191: Indexed scatter-reduction by natural maximum. -/
  | vsredMaxn (o : VmOps)
  /-- VSRED_AND, R191: Indexed scatter-reduction by AND. -/
  | vsredAnd (o : VmOps)
  /-- VSRED_IOR, R191: Indexed scatter-reduction by OR. -/
  | vsredIor (o : VmOps)
  /-- VSREDO_IADD, R191: Ordered scatter-reduction by integer add. -/
  | vsredoIadd (o : VmOps)
  /-- VSREDO_FADD, R191: Ordered scatter-reduction by floating add. -/
  | vsredoFadd (o : VmOps)
  /-- VSREDO_MINS, R191: Ordered scatter-reduction by signed minimum. -/
  | vsredoMins (o : VmOps)
  /-- VSREDO_MAXS, R191: Ordered scatter-reduction by signed maximum. -/
  | vsredoMaxs (o : VmOps)
  /-- VSREDO_MINN, R191: Ordered scatter-reduction by natural minimum. -/
  | vsredoMinn (o : VmOps)
  /-- VSREDO_MAXN, R191: Ordered scatter-reduction by natural maximum. -/
  | vsredoMaxn (o : VmOps)
  /-- VSREDO_AND, R191: Ordered scatter-reduction by AND. -/
  | vsredoAnd (o : VmOps)
  /-- VSREDO_IOR, R191: Ordered scatter-reduction by OR. -/
  | vsredoIor (o : VmOps)
  /-- VBIN, R193: Inserts keys into a hash table and writes the winning mask. -/
  | vbin (m : BitVec 3) (b : SReg) (v : BitVec 5)
  /-- VPUSH, R196: Waits for empty destination registers on a hart, then reserves them as acceptance of a push. -/
  | vpush (b : SReg) (v : BitVec 5)
  /-- VPUSH_DELIVERY, R196: Streams the pushed bytes into the destination registers and sets their full bits. -/
  | vpushDelivery (id : Nat)
  /-- VFE, R197: Empties the full-empty bits of a register group. -/
  | vfe (v : BitVec 5) (n : BitVec 3)
  /-- VCMP_EQ, R212: Mask of equal elements. -/
  | vcmpEq (o : VOps)
  /-- VCMP_NE, R212: Mask of unequal elements. -/
  | vcmpNe (o : VOps)
  /-- VCMP_LT, R212: Mask of elements where b is less than c. -/
  | vcmpLt (o : VOps)
  /-- VCMP_LE, R212: Mask of elements where b is less than or equal to c. -/
  | vcmpLe (o : VOps)
  /-- VCMP_GT, R212: Mask of elements where b is greater than c. -/
  | vcmpGt (o : VOps)
  /-- VCMP_GE, R212: Mask of elements where b is greater than or equal to c. -/
  | vcmpGe (o : VOps)
  /-- VCMP_UN, R212: Mask of unordered elements. -/
  | vcmpUn (o : VOps)
  /-- VCMP_ORD, R212: Mask of ordered elements. -/
  | vcmpOrd (o : VOps)
  /-- MAND, R213: Mask AND. -/
  | mand (d b c : BitVec 3)
  /-- MIOR, R213: Mask OR. -/
  | mior (d b c : BitVec 3)
  /-- MXOR, R213: Mask XOR. -/
  | mxor (d b c : BitVec 3)
  /-- MANDN, R213: Mask b AND NOT c. -/
  | mandn (d b c : BitVec 3)
  /-- MNOT, R213: Mask NOT. -/
  | mnot (d b : BitVec 3)
  /-- MPOPC, R213: Counts the set mask bits below VL into a scalar. -/
  | mpopc (a : SReg) (b : BitVec 3)
  /-- MFIRST, R213: Writes the lowest set mask element below VL, or -1. -/
  | mfirst (a : SReg) (b : BitVec 3)
  /-- MSET, R213: Sets mask bits. -/
  | mset (d : BitVec 3)
  /-- MCLR, R213: Clears mask bits. -/
  | mclr (d : BitVec 3)
  /-- VADD, R202: Vector add under the format word. -/
  | vadd (o : VOps)
  /-- VSUB, R202: Vector subtract b - c. -/
  | vsub (o : VOps)
  /-- VRSUB, R202: Vector reverse subtract c - b. -/
  | vrsub (o : VOps)
  /-- VMUL, R202: Vector multiply. -/
  | vmul (o : VOps)
  /-- VMULH, R203: High half of an integer vector product. -/
  | vmulh (o : VOps)
  /-- VDIV, R202: Vector divide. -/
  | vdiv (o : VOps)
  /-- VREM, R203: Integer vector remainder. -/
  | vrem (o : VOps)
  /-- VMA, R202: Vector fused multiply-add d + b*c. -/
  | vma (o : VOps)
  /-- VMS, R202: Vector fused multiply-subtract d - b*c. -/
  | vms (o : VOps)
  /-- VNMA, R202: Negated fused multiply-add -(d + b*c). -/
  | vnma (o : VOps)
  /-- VMIN, R202: Elementwise minimum. -/
  | vmin (o : VOps)
  /-- VMAX, R202: Elementwise maximum. -/
  | vmax (o : VOps)
  /-- VABS, R204: Elementwise absolute value. -/
  | vabs (o : VOps)
  /-- VNEG, R204: Elementwise negation. -/
  | vneg (o : VOps)
  /-- VSQRT, R204: Elementwise square root. -/
  | vsqrt (o : VOps)
  /-- VRCP, R204: Elementwise reciprocal. -/
  | vrcp (o : VOps)
  /-- VRSQ, R204: Elementwise reciprocal square root. -/
  | vrsq (o : VOps)
  /-- VEXP2, R204: Elementwise power of two. -/
  | vexp2 (o : VOps)
  /-- VLOG2, R204: Elementwise base-2 logarithm. -/
  | vlog2 (o : VOps)
  /-- VCVT, R210: Converts elements from AF to DF, including to and from MX blocks. -/
  | vcvt (o : VOps)
  /-- VAND, R205: Elementwise AND. -/
  | vand (o : VOps)
  /-- VIOR, R205: Elementwise OR. -/
  | vior (o : VOps)
  /-- VXOR, R205: Elementwise XOR. -/
  | vxor (o : VOps)
  /-- VNOT, R205: Elementwise NOT. -/
  | vnot (o : VOps)
  /-- VSHL, R205: Shifts c left by b. -/
  | vshl (o : VOps)
  /-- VSHR, R205: Shifts c right logically by b. -/
  | vshr (o : VOps)
  /-- VSHA, R205: Shifts c right arithmetically by b. -/
  | vsha (o : VOps)
  /-- VCLZ, R205: Counts leading zeros of each element. -/
  | vclz (o : VOps)
  /-- VPOPC, R205: Counts the one bits of each element. -/
  | vpopc (o : VOps)
  /-- VMERGE, R206: Selects b or c per element by m0. -/
  | vmerge (o : VOps)
  /-- VMV, R206: Copies b, or one value, into the active elements. -/
  | vmv (o : VOps)
  /-- VIDX, R206: Writes each element's index. -/
  | vidx (o : VOps)
  /-- VSLUP, R214: Slides elements up by k. -/
  | vslup (o : VOps)
  /-- VSLDN, R214: Slides elements down by k. -/
  | vsldn (o : VOps)
  /-- VRGATH, R214: Gathers elements of c by index. -/
  | vrgath (o : VOps)
  /-- VCOMPR, R215: Packs the m0-selected elements of c to the low positions. -/
  | vcompr (o : VOps)
  /-- VEXTR, R208: Moves element k of a vector to a scalar register. -/
  | vextr (o : VOps)
  /-- VINS, R208: Inserts a scalar value at element k. -/
  | vins (o : VOps)
  /-- VSCL, R207: Scales c by 2 to the power b. -/
  | vscl (o : VOps)
  /-- VRND, R204: Rounds each element to an integral value in DF. -/
  | vrnd (o : VOps)
  /-- VDOTQ, R209: Four-way dot product accumulated into 32-bit elements. -/
  | vdotq (o : VOps)
  /-- VCLASS, R209: Writes the floating class mask of each element. -/
  | vclass (o : VOps)
  /-- VRSUM, R216: Sum reduction on the canonical tree, or ordered when ORD = 1. -/
  | vrsum (o : VOps)
  /-- VRSUMO, R216: Ordered sum reduction. -/
  | vrsumo (o : VOps)
  /-- VRMIN, R216: Minimum reduction. -/
  | vrmin (o : VOps)
  /-- VRMAX, R216: Maximum reduction. -/
  | vrmax (o : VOps)
  /-- VSCAN, R217: Inclusive running sum. -/
  | vscan (o : VOps)
  /-- VFETCH, R222: Runs the lane block that follows, element by element, up to LEND. -/
  | vfetch (v : BitVec 5) (vm : Bool)
  /-- LEND, R219: Ends a lane block; outside a block it has no effect. -/
  | lend
  /-- VTGET, R232: Reads tangent j of c into d. -/
  | vtget (o : VOps)
  /-- VTSET, R232: Writes c into tangent j of d. -/
  | vtset (o : VOps)
  /-- VTZERO, R232: Zeroes tangents 1 to TANN of d. -/
  | vtzero (o : VOps)
  /-- TAN, R40: Prefix that makes its accepted body compute tangents, with an optional count override. -/
  | tan (k : BitVec 2) (body : Instr)
  /-- GPROD, R269: Geometric product of two multivectors. -/
  | gprod (o : GOps)
  /-- GWEDGE, R269: Outer (wedge) product. -/
  | gwedge (o : GOps)
  /-- GJOIN, R269: Join, the dual of the wedge of the duals. -/
  | gjoin (o : GOps)
  /-- GINNER, R269: Inner product. -/
  | ginner (o : GOps)
  /-- GSAND, R270: Sandwich of an operand by a versor, rounded once. -/
  | gsand (o : GOps)
  /-- GREV, R271: Reverse of a multivector. -/
  | grev (o : GOps)
  /-- GDUAL, R271: Dual: reverses the coefficient array. -/
  | gdual (o : GOps)
  /-- GGRADE, R271: Selects the grades of an immediate field. -/
  | ggrade (o : GOps)
  /-- GNORM, R272: Normalises each multivector by its norm. -/
  | gnorm (o : GOps)
  /-- GADD, R271: Componentwise sum of two multivectors. -/
  | gadd (o : GOps)
  /-- GSUB, R271: Componentwise difference of two multivectors. -/
  | gsub (o : GOps)
  /-- GSCALE, R271: Scales each multivector by an FP32 vector element. -/
  | gscale (o : GOps)
  /-- GLD, R274: Loads multivector components and sets the destination grade mask. -/
  | gld (o : GOps)
  /-- GST, R274: Stores the stored components of a geometry window. -/
  | gst (o : GOps)
  /-- GEXP, R273: Exponential of the bivector part, giving a motor. -/
  | gexp (o : GOps)
  /-- GXSIGN, R276: Exact watertight sign of the join of two lines. -/
  | gxsign (o : GOps)
  /-- GSEL, R271: Selects a or b per element by m0. -/
  | gsel (o : GOps)
  /-- GFROMV, R275: Fills geometry components from vector registers. -/
  | gfromv (o : GOps)
  /-- GTOV, R275: Writes geometry components to vector registers. -/
  | gtov (o : GOps)
  /-- IADD, R290: Interval add, rounded outward. -/
  | iadd (o : IvOps)
  /-- ISUB, R290: Interval subtract. -/
  | isub (o : IvOps)
  /-- IMUL, R290: Interval multiply. -/
  | imul (o : IvOps)
  /-- IDIV, R290: Interval divide. -/
  | idiv (o : IvOps)
  /-- ISQR, R290: Interval square. -/
  | isqr (o : IvOps)
  /-- ISQRT, R290: Interval square root. -/
  | isqrt (o : IvOps)
  /-- IEXP, R290: Interval power of two. -/
  | iexp (o : IvOps)
  /-- ILOG, R290: Interval base-2 logarithm. -/
  | ilog (o : IvOps)
  /-- INEG, R290: Interval negation. -/
  | ineg (o : IvOps)
  /-- IABS, R290: Interval absolute value. -/
  | iabs (o : IvOps)
  /-- IMIN, R290: Interval minimum. -/
  | imin (o : IvOps)
  /-- IMAX, R290: Interval maximum. -/
  | imax (o : IvOps)
  /-- CADD, R291: Contracts x and y by z = x + y. -/
  | cadd (o : IvOps)
  /-- CSUB, R291: Contracts x and y by z = x - y. -/
  | csub (o : IvOps)
  /-- CMUL, R291: Contracts x and y by z = x * y. -/
  | cmul (o : IvOps)
  /-- CDIV, R291: Contracts x and y by z = x / y. -/
  | cdiv (o : IvOps)
  /-- CSQR, R291: Contracts x by z = x squared. -/
  | csqr (o : IvOps)
  /-- CSQRT, R291: Contracts x by z = sqrt(x). -/
  | csqrt (o : IvOps)
  /-- CEXP, R291: Contracts x by z = 2^x. -/
  | cexp (o : IvOps)
  /-- CLOG, R291: Contracts x by z = log2 x. -/
  | clog (o : IvOps)
  /-- CNEG, R291: Contracts x by z = -x. -/
  | cneg (o : IvOps)
  /-- CABS, R291: Contracts x by z = |x|. -/
  | cabs (o : IvOps)
  /-- CMIN, R291: Contracts x and y by z = min(x, y). -/
  | cmin (o : IvOps)
  /-- CMAX, R291: Contracts x and y by z = max(x, y). -/
  | cmax (o : IvOps)
  /-- IHULL, R294: Smallest interval holding both operands. -/
  | ihull (o : IvOps)
  /-- IMEET, R294: Intersection of two intervals. -/
  | imeet (o : IvOps)
  /-- ISPLIT, R294: Splits an interval at its midpoint into two registers. -/
  | isplit (o : IvOps)
  /-- IMID, R295: Writes the midpoint of each interval to a vector. -/
  | imid (o : IvOps)
  /-- IWID, R294: Writes the width of each interval, rounded up. -/
  | iwid (o : IvOps)
  /-- IMK, R294: Makes intervals from two bound vectors. -/
  | imk (o : IvOps)
  /-- ILO, R294: Writes the stored lower bounds to a vector. -/
  | ilo (o : IvOps)
  /-- IHI, R294: Writes the stored upper bounds to a vector. -/
  | ihi (o : IvOps)
  /-- ICMPLT, R296: Three-valued less-than into a mask pair. -/
  | icmplt (o : IvOps)
  /-- ICMPLE, R296: Three-valued less-or-equal into a mask pair. -/
  | icmple (o : IvOps)
  /-- ICMPEQ, R296: Three-valued equality into a mask pair. -/
  | icmpeq (o : IvOps)
  /-- IIN, R294: Mask of points that lie in intervals. -/
  | iin (o : IvOps)
  /-- IEMPTY, R294: Mask of empty intervals. -/
  | iempty (o : IvOps)
  /-- ISUBSET, R294: Mask of intervals contained in others. -/
  | isubset (o : IvOps)
  /-- ILD, R297: Loads interval elements as lower and upper bound pairs. -/
  | ild (o : VmOps)
  /-- IST, R297: Stores interval elements as lower and upper bound pairs. -/
  | ist (o : VmOps)
  /-- MCLAIM, R239: Acquires the core's matrix state, or takes it over from a frozen holder. -/
  | mclaim (b : SReg)
  /-- MATRIX_STATE_GRANT, R239: A waiting MCLAIM receives the freed matrix state with zeroed tiles. -/
  | matrixStateGrant (stop : Nat)
  /-- MFREE, R240: Releases the matrix state and discards the tiles. -/
  | mfree
  /-- MSETVL, R239: Sets MROWS and MCOLS. -/
  | msetvl (b c : SReg)
  /-- MWIPE, R239: Zeroes every element of a tile. -/
  | mwipe (t : BitVec 3)
  /-- OPADD, R245: Accumulates an outer product into a tile, row by row. -/
  | opadd (o : OpOps)
  /-- OPSUB, R245: Subtracts an outer product from a tile. -/
  | opsub (o : OpOps)
  /-- OPXSC, R246: Accumulates a per-element scaled outer product. -/
  | opxsc (o : OpOps)
  /-- TROWR, R249: Reads a tile row into a vector. -/
  | trowr (o : SliceOps)
  /-- TCOLR, R249: Reads a tile column into a vector. -/
  | tcolr (o : SliceOps)
  /-- TROWW, R249: Writes a vector into a tile row. -/
  | troww (o : SliceOps)
  /-- TCOLW, R249: Writes a vector into a tile column. -/
  | tcolw (o : SliceOps)
  /-- MLD, R250: Loads a tile from memory by rows. -/
  | mld (o : TileOps)
  /-- MLDT, R250: Loads a tile from memory transposed. -/
  | mldt (o : TileOps)
  /-- MST, R250: Stores a tile to memory by rows. -/
  | mst (o : TileOps)
  /-- MSTT, R250: Stores a tile to memory transposed. -/
  | mstt (o : TileOps)
  /-- TILE_TRANSFER_COMPLETE, R253: The last row of a tile transfer performs and its Pillar entry frees. -/
  | tileTransferComplete (id : Nat)
  /-- MCVT, R254: Narrows a tile row to any format, including MX and STOCH. -/
  | mcvt (o : McvtOps)
  /-- C_ILL, R37: Compressed illegal instruction; raises cause 0. -/
  | cIll (bits : BitVec 11)
  /-- C_ADD, R37: Compressed ADD sa, sa, sc. -/
  | cAdd (a c : SReg)
  /-- C_ADDI, R37: Compressed ADDI sa, sa, imm6. -/
  | cAddi (a : SReg) (imm : BitVec 6)
  /-- C_MOV, R37: Compressed IOR sa, sc, s0. -/
  | cMov (a c : SReg)
  /-- C_LI, R37: Compressed ADDI sa, s0, imm6. -/
  | cLi (a : SReg) (imm : BitVec 6)
  /-- C_LD, R37: Compressed LD.d from s2 plus 8n. -/
  | cLd (a : SReg) (n : BitVec 6)
  /-- C_ST, R37: Compressed ST.d to s2 plus 8n. -/
  | cSt (a : SReg) (n : BitVec 6)
  /-- C_BEQZ, R37: Compressed branch if zero. -/
  | cBeqz (a : SReg) (off : BitVec 6)
  /-- C_BNEZ, R37: Compressed branch if nonzero. -/
  | cBnez (a : SReg) (off : BitVec 6)
  /-- C_J, R37: Compressed JAL s0. -/
  | cJ (off : BitVec 11)
  /-- C_LSLI, R37: Compressed shift left by an immediate. -/
  | cLsli (a : SReg) (n : BitVec 6)
  /-- C_VSETVL, R37: Sets VL under the present VTYPE and closes the strip. -/
  | cVsetvl (a : SReg)
  /-- C_BRT, R37: Compressed BRT through b[n]. -/
  | cBrt (n : BitVec 3)
  /-- C_NOP, R37: Compressed no-op. -/
  | cNop
  /-- C_SUB, R37: Compressed SUB sa, sa, sc. -/
  | cSub (a c : SReg)
  /-- LAUNCH_READY, R124: A waiting launch's last predecessor completes and the entry becomes READY. -/
  | launchReady (lid : BitVec 32)
  /-- PLACEMENT, R137: The placer binds a READY launch's next member to a core's slot, clusters, memory and banks. -/
  | placement (lid : BitVec 32)
  /-- PRE_EMPTION, R139: Freezes the chosen victims and starts the pre-empting hart in the reserved partition. -/
  | preEmption (lid : BitVec 32)
  /-- SLOT_EVICTION, R140: A resident pre-empting hart takes cause 19 so that its slot can be surrendered. -/
  | slotEviction (stop : Nat) (lid : BitVec 32)
  /-- SAVED_HART_REPLACEMENT, R140: A saved pre-empting hart is re-placed when the slot frees and enters its handler. -/
  | savedHartReplacement (k : HKey)
  /-- VICTIM_RESUME, R141: After the pre-empting hart retires, its victims resume from VSTART. -/
  | victimResume (stop : Nat)
  /-- HART_RETIREMENT, R129: Once its transfers, accesses and pushes drain, a retiring hart frees its matrix state, binding, lamps, farms and resources. -/
  | hartRetirement (k : HKey)
  /-- LAUNCH_COMPLETION, R129: After the last member retires, the completion word is written as a system-scope release and the entry frees. -/
  | launchCompletion (lid : BitVec 32)
  /-- STRIP_REQUEST, R133: The farm home serves an FSTRIP request arriving on the ring with the next strip index. -/
  | stripRequest (k : HKey)
  /-- POST_MESSAGE, R135: A post passes a ring stop, recording at the home and waking waiters there. -/
  | postMessage (i : Nat)
  /-- BARRIER_RELEASE, R136: When every member has made its n-th BAR, retired or been lost, all members return. -/
  | barrierRelease (lid : BitVec 32)
  /-- CONVOY_RELEASE, R144: A deterministic convoy closes once all members arrive and their accesses perform. -/
  | convoyRelease (lid : BitVec 32)
  /-- LAMP_DELIVERY, R156: Delivers the oldest pending lamp, switching to the shadow bank and jumping to LAMPPC. -/
  | lampDelivery (k : HKey)
  /-- ENGINE_FAULT, R164: Raises cause 18 at the next user boundary after an engine records a fault. -/
  | engineFault (k : HKey)
  /-- DEBUG_SINGLE_STEP, R154: Raises cause 16 after each retiring instruction while STEP is set. -/
  | debugSingleStep (k : HKey)
  /-- CORE_ERROR, R166: An uncorrectable error in unmarked core state loses every hart on the core. -/
  | coreError (stop : Nat)
  /-- GANG_LOST, R166: A surviving gang member takes cause 17 within 2,000 cycles. -/
  | gangLost (k : HKey)
  /-- DBG_HALTREQ, R167: A write of DBGCTL.HALTREQ requests debug halt of the selected harts. -/
  | dbgHaltreq (stop : Nat) (v : Word)
  /-- DEBUG_HALT, R168: A hart enters debug halt at a boundary, draining latches and discarding queued loads. -/
  | debugHalt (k : HKey)
  /-- DBG_GOREQ, R168: A write of DBGCTL.GOREQ resumes halted harts, rereading their operands. -/
  | dbgGoreq (stop : Nat) (v : Word)
  /-- DBGDATA, R167: Reads or writes the register that DBGSEL names. -/
  | dbgdata (stop : Nat) (write : Option Word)
  /-- STREAM_START, R310: A stream whose predecessors are done starts, reading its condition word if any. -/
  | streamStart (id : Nat)
  /-- STREAM_ELEMENT, R302: The engine performs one element, or one INTERSECT step, of a running stream. -/
  | streamElement (id : Nat)
  /-- STREAM_COMPLETION, R315: Writes the final pointer, status and completion word, then makes a lamp pending. -/
  | streamCompletion (id : Nat)
  /-- STREAM_FAULT, R314: Records the fault at an element, sets FAULT and frees the stream's Pillar entries. -/
  | streamFault (id : Nat)
  /-- ROUTE_RESERVATION, R329: One slot is reserved in a target inbox, possibly after waiting under HOLD. -/
  | routeReservation (k : HKey)
  /-- ROUTE_ROW_DELIVERY, R330: A reserved row is written into the target's inbox row. -/
  | routeRowDelivery (stop entry : Nat) (row slot : Nat)
  /-- REASSEMBLY, R333: A completed tile's output rows are formed in slot order and written, then its status. -/
  | reassembly (stop entry : Nat)
  /-- ROUTE_TIMEOUT, R335: A tile's timer expires, undelivered slots count late and the tile completes as PARTIAL. -/
  | routeTimeout (stop entry : Nat)
  /-- ROUTE_TIMEOUT_TRAP, R335: The issuing hart takes cause 20 at its next boundary. -/
  | routeTimeoutTrap (k : HKey)
  /-- ASSAYCTL_CLOSE, R350: A write of 1 to CLOSE closes the Assay interval as ASSAY does. -/
  | assayctlClose
  /-- ASSAY_REHASH_DONE, R350: The base dies finish rehashing, make the root final, increment EPOCH and clear BUSY. -/
  | assayRehashDone
  /-- PATROL_SCRUB, R344: The scrubber checks a word, correcting single-bit errors and poisoning uncorrectable ones. -/
  | patrolScrub (pa : Nat) (err : Option Bool)
  /-- MESH_MONITOR_WINDOW, R346: At the end of each 1,024-cycle window the mesh monitor may switch two-phase routing. -/
  | meshMonitorWindow (die lmax lmean : Nat)
  /-- LINK_DOWN, R353: A link is declared down and its nodes become unreachable. -/
  | linkDown (link : Nat)
  /-- LINK_UP, R353: A link returns and delivers pushes accepted before it went down. -/
  | linkUp (link : Nat)
  /-- COUNTER_CLEAR, R354: Writing 0 to a control-space counter clears it. -/
  | counterClear (pa : Nat)
  /-- HOST_MEM_ACCESS, R357: A host CXL.mem access is served by the home slice bank. -/
  | hostMemAccess (pa n : Nat) (write : Option Word)
  /-- GET_VERSION, R361: SPDM request for the supported version. -/
  | getVersion
  /-- GET_CAPABILITIES, R361: SPDM request for the responder's capabilities. -/
  | getCapabilities
  /-- NEGOTIATE_ALGORITHMS, R361: SPDM algorithm negotiation for Ed25519 and SHA-512. -/
  | negotiateAlgorithms
  /-- GET_DIGESTS, R361: SPDM request for certificate chain digests. -/
  | getDigests
  /-- GET_CERTIFICATE, R361: SPDM request for the device certificate chain. -/
  | getCertificate
  /-- CHALLENGE, R361: SPDM challenge signed with the device identity key. -/
  | challenge (nonce : Word)
  /-- GET_MEASUREMENTS, R361: SPDM request for the boot ROM, firmware and supervisor measurements. -/
  | getMeasurements (index : Nat)
  /-- SECURITY_VERSION_WRITE, R360: Raises the pending security version, to be fused at the next reset. -/
  | securityVersionWrite (v : Word)
  /-- POWER_MODE_WRITE, R363: Writes POWERCTL.MODE, which takes effect at the next grant boundary. -/
  | powerModeWrite (v : Word)
  /-- POWER_GRANT, R362: At each 1 microsecond boundary the arbiter grants shares and applies a pending mode. -/
  | powerGrant
  /-- THERMAL_HOLD, R363: Coolant inlet above 45 degrees C forces QUIET and sets THERM. -/
  | thermalHold
  /-- THERMAL_RELEASE, R363: Coolant inlet below 40 degrees C releases the hold and the last written mode applies. -/
  | thermalRelease
  /-- POWER_GOOD, R364: Bring-up runs: image check, training, memory zeroing, steward placement, READY. -/
  | powerGood
  /-- ILLEGAL_INSTRUCTION, R44: A fetched word that decodes to no instruction, such as majors 43, 47, 56, 61, 62, compressed op4 15 or a reserved function code, raises cause 0. -/
  | illegalInstruction (bits : Word)
  /-- SOFT_ERROR, R165: An error strikes a word of register memory, scratchpad, slice or HBM; a single-bit error is corrected and counted, and an uncorrectable one marks the word poisoned. -/
  | softError (place : ErrPlace) (correctable : Bool)
  /-- CORE_RESET, R166: The host resets a failed core, which may then take placement again. -/
  | coreReset (stop : Nat)
  /-- NODE_REMOVAL, R353: The host removes a remote node, which discards pushes accepted toward it and counts them in the link's loss counter. -/
  | nodeRemoval (node : Nat)
  deriving DecidableEq, Repr

end Sys2Proof
end

