-- ==== Sys2Proof/WellFormed.lean ====
section
/-! DEFINITION. Well-formed instructions: what decode requires of the fields (03 R31 to R44). A device event has no
encoding and is not well-formed as an instruction. -/
namespace Sys2Proof

/-- v0 to v27 (03 R33). -/
def isV (r : BitVec 5) : Bool := decide (r.toNat < 28)
/-- m0 to m7 in a five-bit field (03 R33). -/
def isM (r : BitVec 5) : Bool := decide (r.toNat < 8)
/-- m0 to m7, or q0 to q3 as 28 to 31, in the data field of a mask load (03 R33, R34). -/
def isMQ (r : BitVec 5) : Bool := isM r || decide (28 ≤ r.toNat)
/-- g0 to g15 or i0 to i15 in a five-bit field (03 R33). -/
def isG (r : BitVec 5) : Bool := decide (r.toNat < 16)

/-- A rounding code of a rounding scalar operation: 101 and 110 are reserved (03 R42). -/
def FOps.rmOk (o : FOps) : Bool := o.rm != 5 && o.rm != 6

/-- Form and b operand (03 R33): form 11 is reserved; b is v0 to v27 in form 00; no chain bit on a scalar or immediate. -/
def VOps.bOk (o : VOps) : Bool := o.form != 3 && (if o.form == 0 then isV o.b else !o.x)
/-- An instruction that reads no b (03 R43). -/
def VOps.noB (o : VOps) : Bool := o.b == 0 && !o.x
/-- An instruction that reads no c (03 R43). -/
def VOps.noC (o : VOps) : Bool := o.c == 0 && !o.cb

/-- Mode and eew (03 R34): mode 11 and eew 110, 111 are reserved; c and x must be 0 in mode 00; x must be 0 in mode 01;
c is v0 to v27 in mode 10. -/
def VmOps.shapeOk (o : VmOps) : Bool :=
  o.mode != 3 && decide (o.eew.toNat < 6) &&
  (if o.mode == 0 then o.c == 0 && !o.x else if o.mode == 1 then !o.x else isV o.c)

/-- proj must be zero when the declared mask is zero (03 R35). -/
def GOps.projOk (o : GOps) : Bool := o.d != 0 || !o.proj
/-- An instruction that reads no c (03 R35). -/
def GOps.noC (o : GOps) : Bool := o.c == 0 && !o.cb
/-- An instruction that reads no c (03 R43). -/
def IvOps.noC (o : IvOps) : Bool := o.c == 0 && !o.cb

/-- The bodies before which TAN is accepted (03 R40). -/
def Instr.tanAccepted : Instr → Bool
  | .fadd _ => true
  | .fsub _ => true
  | .fmul _ => true
  | .fdiv _ => true
  | .fsqrt _ => true
  | .fmin _ => true
  | .fmax _ => true
  | .fmac _ => true
  | .feq _ => true
  | .flt _ => true
  | .fle _ => true
  | .fclass _ => true
  | .fcvti _ => true
  | .fcvtf _ => true
  | .fcvt _ => true
  | .fsgn _ => true
  | .fsgnn _ => true
  | .fsgnx _ => true
  | .vadd _ => true
  | .vsub _ => true
  | .vrsub _ => true
  | .vmul _ => true
  | .vmulh _ => true
  | .vdiv _ => true
  | .vrem _ => true
  | .vma _ => true
  | .vms _ => true
  | .vnma _ => true
  | .vmin _ => true
  | .vmax _ => true
  | .vabs _ => true
  | .vneg _ => true
  | .vsqrt _ => true
  | .vrcp _ => true
  | .vrsq _ => true
  | .vexp2 _ => true
  | .vlog2 _ => true
  | .vcvt _ => true
  | .vand _ => true
  | .vior _ => true
  | .vxor _ => true
  | .vnot _ => true
  | .vshl _ => true
  | .vshr _ => true
  | .vsha _ => true
  | .vclz _ => true
  | .vpopc _ => true
  | .vmerge _ => true
  | .vmv _ => true
  | .vidx _ => true
  | .vslup _ => true
  | .vsldn _ => true
  | .vrgath _ => true
  | .vcompr _ => true
  | .vextr _ => true
  | .vins _ => true
  | .vscl _ => true
  | .vrnd _ => true
  | .vdotq _ => true
  | .vclass _ => true
  | .vrsum _ => true
  | .vrsumo _ => true
  | .vrmin _ => true
  | .vrmax _ => true
  | .vscan _ => true
  | .gprod _ => true
  | .gwedge _ => true
  | .gjoin _ => true
  | .ginner _ => true
  | .gsand _ => true
  | .grev _ => true
  | .gdual _ => true
  | .ggrade _ => true
  | .gnorm _ => true
  | .gadd _ => true
  | .gsub _ => true
  | .gscale _ => true
  | .gld _ => true
  | .gst _ => true
  | .gexp _ => true
  | .gxsign _ => true
  | .gsel _ => true
  | .gfromv _ => true
  | .gtov _ => true
  | _ => false

/-- The decode-time restrictions of each instruction (03 R31 to R44). VLDM, a load at major 24, may name q0 to q3 as the other
loads may (R34), which is cause 9 when it is dispatched (DEDUCED, log 58). -/
def Instr.wellFormed : Instr → Bool
  | .add _ _ _ => true
  | .addw _ _ _ => true
  | .sub _ _ _ => true
  | .subw _ _ _ => true
  | .and _ _ _ => true
  | .ior _ _ _ => true
  | .xor _ _ _ => true
  | .lsl _ _ _ => true
  | .lslw _ _ _ => true
  | .lsr _ _ _ => true
  | .lsrw _ _ _ => true
  | .asr _ _ _ => true
  | .asrw _ _ _ => true
  | .mul _ _ _ => true
  | .mulw _ _ _ => true
  | .mulhs _ _ _ => true
  | .mulhn _ _ _ => true
  | .divs _ _ _ => true
  | .divsw _ _ _ => true
  | .divn _ _ _ => true
  | .divnw _ _ _ => true
  | .rems _ _ _ => true
  | .remsw _ _ _ => true
  | .remn _ _ _ => true
  | .remnw _ _ _ => true
  | .slt _ _ _ => true
  | .sltn _ _ _ => true
  | .mins _ _ _ => true
  | .maxs _ _ _ => true
  | .minn _ _ _ => true
  | .maxn _ _ _ => true
  | .clz _ _ => true
  | .ctz _ _ => true
  | .popc _ _ => true
  | .bswp _ _ => true
  | .addi _ _ _ => true
  | .andi _ _ _ => true
  | .iori _ _ _ => true
  | .xori _ _ _ => true
  | .slti _ _ _ => true
  | .lsli _ _ _ => true
  | .lsri _ _ _ => true
  | .asri _ _ _ => true
  | .lih _ _ => true
  | .addpc _ _ => true
  | .ld _ _ _ _ => true
  | .lda _ _ _ _ => true
  | .st _ _ _ _ => true
  | .stl _ _ _ _ => true
  | .aadd _ => true
  | .aand _ => true
  | .aior _ => true
  | .axor _ => true
  | .amins _ => true
  | .amaxs _ => true
  | .aminn _ => true
  | .amaxn _ => true
  | .aswp _ => true
  | .acas _ => true
  | .fadd o => o.rmOk
  | .fsub o => o.rmOk
  | .fmul o => o.rmOk
  | .fdiv o => o.rmOk
  | .fsqrt o => o.rmOk && o.c == 0
  | .fmin o => o.rm == 0
  | .fmax o => o.rm == 0
  | .fmac o => o.rmOk
  | .feq o => o.rm == 0
  | .flt o => o.rm == 0
  | .fle o => o.rm == 0
  | .fclass o => o.rm == 0 && o.c == 0
  | .fcvti o => o.rmOk && o.c == 0
  | .fcvtf o => o.rmOk && o.c == 0
  | .fcvt o => o.rmOk && decide (o.c.toNat < 4)
  | .fsgn o => o.rm == 0
  | .fsgnn o => o.rm == 0
  | .fsgnx o => o.rm == 0
  | .beq _ _ _ => true
  | .bne _ _ _ => true
  | .blt _ _ _ => true
  | .bge _ _ _ => true
  | .bltn _ _ _ => true
  | .bgen _ _ _ => true
  | .jal _ _ => true
  | .ptb _ _ => true
  | .jr _ _ _ => true
  | .ptbr _ _ _ => true
  | .brt _ => true
  | .brtnz _ _ => true
  | .brtz _ _ => true
  | .callt _ => true
  | .crd _ _ => true
  | .cwr _ _ _ => true
  | .cset _ _ _ => true
  | .cclr _ _ _ => true
  | .trap _ => true
  | .resume => true
  | .idle => true
  | .halt => true
  | .crWrite _ _ => false
  | .lampcauseOvfClear => false
  | .fence kind scope => kind != 3 && decide (scope.toNat < 4)
  | .fenceS => true
  | .fenceI => true
  | .marm _ => true
  | .mwait _ => true
  | .monitorWake _ _ => false
  | .vmflush _ _ => true
  | .assay => true
  | .launch _ _ => true
  | .launchi _ _ => true
  | .retire => true
  | .yield => true
  | .farm _ => true
  | .fstrip _ _ => true
  | .post _ _ => true
  | .waiti _ _ => true
  | .bar => true
  | .convoy => true
  | .lwait _ _ => true
  | .uiret => true
  | .sstart _ _ => true
  | .swait _ _ => true
  | .stest _ _ => true
  | .skill _ _ => true
  | .rbind _ _ => true
  | .runbind => true
  | .route _ _ => true
  | .rrecv _ _ => true
  | .rret _ _ _ => true
  | .rwait _ _ => true
  | .rstat _ _ _ => true
  | .vsetvl _ _ _ => true
  | .vsetvli _ _ _ => true
  | .vshape _ => true
  | .winv v _ _ => isV v
  | .winm _ _ _ => true
  | .wing _ _ _ => true
  | .wini _ _ _ => true
  | .winrd _ _ => true
  | .vld o => o.shapeOk
  | .vldff o => o.shapeOk
  | .vldm o => o.shapeOk && isMQ o.a
  | .vfill o => o.shapeOk && isV o.a
  | .vst o => o.shapeOk && isV o.a
  | .vstu o => o.shapeOk && isV o.a
  | .vstm o => o.shapeOk && isM o.a
  | .vspill o => o.shapeOk && isV o.a
  | .vsredIadd o => o.shapeOk && o.mode == 2 && isV o.a
  | .vsredFadd o => o.shapeOk && o.mode == 2 && isV o.a
  | .vsredMins o => o.shapeOk && o.mode == 2 && isV o.a
  | .vsredMaxs o => o.shapeOk && o.mode == 2 && isV o.a
  | .vsredMinn o => o.shapeOk && o.mode == 2 && isV o.a
  | .vsredMaxn o => o.shapeOk && o.mode == 2 && isV o.a
  | .vsredAnd o => o.shapeOk && o.mode == 2 && isV o.a
  | .vsredIor o => o.shapeOk && o.mode == 2 && isV o.a
  | .vsredoIadd o => o.shapeOk && o.mode == 2 && isV o.a
  | .vsredoFadd o => o.shapeOk && o.mode == 2 && isV o.a
  | .vsredoMins o => o.shapeOk && o.mode == 2 && isV o.a
  | .vsredoMaxs o => o.shapeOk && o.mode == 2 && isV o.a
  | .vsredoMinn o => o.shapeOk && o.mode == 2 && isV o.a
  | .vsredoMaxn o => o.shapeOk && o.mode == 2 && isV o.a
  | .vsredoAnd o => o.shapeOk && o.mode == 2 && isV o.a
  | .vsredoIor o => o.shapeOk && o.mode == 2 && isV o.a
  | .vbin _ _ v => isV v
  | .vpush _ v => isV v
  | .vpushDelivery _ => false
  | .vfe v _ => isV v
  | .vcmpEq o => isM o.a && o.bOk && isV o.c
  | .vcmpNe o => isM o.a && o.bOk && isV o.c
  | .vcmpLt o => isM o.a && o.bOk && isV o.c
  | .vcmpLe o => isM o.a && o.bOk && isV o.c
  | .vcmpGt o => isM o.a && o.bOk && isV o.c
  | .vcmpGe o => isM o.a && o.bOk && isV o.c
  | .vcmpUn o => isM o.a && o.bOk && isV o.c
  | .vcmpOrd o => isM o.a && o.bOk && isV o.c
  | .mand _ _ _ => true
  | .mior _ _ _ => true
  | .mxor _ _ _ => true
  | .mandn _ _ _ => true
  | .mnot _ _ => true
  | .mpopc _ _ => true
  | .mfirst _ _ => true
  | .mset _ => true
  | .mclr _ => true
  | .vadd o => isV o.a && o.bOk && isV o.c
  | .vsub o => isV o.a && o.bOk && isV o.c
  | .vrsub o => isV o.a && o.bOk && isV o.c
  | .vmul o => isV o.a && o.bOk && isV o.c
  | .vmulh o => isV o.a && o.bOk && isV o.c
  | .vdiv o => isV o.a && o.bOk && isV o.c
  | .vrem o => isV o.a && o.bOk && isV o.c
  | .vma o => isV o.a && o.bOk && isV o.c
  | .vms o => isV o.a && o.bOk && isV o.c
  | .vnma o => isV o.a && o.bOk && isV o.c
  | .vmin o => isV o.a && o.bOk && isV o.c
  | .vmax o => isV o.a && o.bOk && isV o.c
  | .vabs o => isV o.a && o.bOk && o.noC
  | .vneg o => isV o.a && o.bOk && o.noC
  | .vsqrt o => isV o.a && o.bOk && o.noC
  | .vrcp o => isV o.a && o.bOk && o.noC
  | .vrsq o => isV o.a && o.bOk && o.noC
  | .vexp2 o => isV o.a && o.bOk && o.noC
  | .vlog2 o => isV o.a && o.bOk && o.noC
  | .vcvt o => isV o.a && o.bOk && o.noC
  | .vand o => isV o.a && o.bOk && isV o.c
  | .vior o => isV o.a && o.bOk && isV o.c
  | .vxor o => isV o.a && o.bOk && isV o.c
  | .vnot o => isV o.a && o.bOk && o.noC
  | .vshl o => isV o.a && o.bOk && isV o.c
  | .vshr o => isV o.a && o.bOk && isV o.c
  | .vsha o => isV o.a && o.bOk && isV o.c
  | .vclz o => isV o.a && o.bOk && o.noC
  | .vpopc o => isV o.a && o.bOk && o.noC
  | .vmerge o => isV o.a && o.bOk && isV o.c
  | .vmv o => isV o.a && o.bOk && o.noC
  | .vidx o => isV o.a && o.form != 3 && o.noB && o.noC
  | .vslup o => isV o.a && o.bOk && isV o.c
  | .vsldn o => isV o.a && o.bOk && isV o.c
  | .vrgath o => isV o.a && o.bOk && isV o.c
  | .vcompr o => isV o.a && o.form != 3 && o.noB && isV o.c
  | .vextr o => o.bOk && isV o.c
  | .vins o => isV o.a && o.bOk && !o.cb
  | .vscl o => isV o.a && o.bOk && isV o.c
  | .vrnd o => isV o.a && o.bOk && o.noC
  | .vdotq o => isV o.a && o.bOk && isV o.c
  | .vclass o => isV o.a && o.bOk && o.noC
  | .vrsum o => isV o.a && o.bOk && isV o.c
  | .vrsumo o => isV o.a && o.bOk && isV o.c
  | .vrmin o => isV o.a && o.bOk && isV o.c
  | .vrmax o => isV o.a && o.bOk && isV o.c
  | .vscan o => isV o.a && o.bOk && isV o.c
  | .vfetch v _ => isV v
  | .lend => true
  | .vtget o => isV o.a && o.bOk && isV o.c
  | .vtset o => isV o.a && o.bOk && isV o.c
  | .vtzero o => isV o.a && o.form != 3 && o.noB && o.noC
  | .tan _ body => body.tanAccepted && body.wellFormed
  | .gprod o => isG o.a && isG o.b && isG o.c && o.projOk
  | .gwedge o => isG o.a && isG o.b && isG o.c && o.projOk
  | .gjoin o => isG o.a && isG o.b && isG o.c && o.projOk
  | .ginner o => isG o.a && isG o.b && isG o.c && o.projOk
  | .gsand o => isG o.a && isG o.b && isG o.c && o.projOk
  | .grev o => isG o.a && isG o.b && o.noC && o.projOk
  | .gdual o => isG o.a && isG o.b && o.noC && o.projOk
  | .ggrade o => isG o.a && isG o.b && !o.cb && o.projOk
  | .gnorm o => isG o.a && isG o.b && o.noC && o.projOk
  | .gadd o => isG o.a && isG o.b && isG o.c && o.projOk
  | .gsub o => isG o.a && isG o.b && isG o.c && o.projOk
  | .gscale o => isG o.a && isV o.b && isG o.c && o.projOk
  | .gld o => isG o.a && !o.x && !o.cb && !o.proj
  | .gst o => isG o.a && !o.x && !o.cb && !o.proj && o.d == 0
  | .gexp o => isG o.a && isG o.b && o.noC && o.projOk
  | .gxsign o => isG o.a && isG o.b && isG o.c && o.projOk
  | .gsel o => isG o.a && isG o.b && isG o.c && o.projOk
  | .gfromv o => isG o.a && isV o.b && o.noC && !o.proj
  | .gtov o => isV o.a && isG o.b && o.noC && !o.proj
  | .iadd o => isG o.a && isG o.b && isG o.c
  | .isub o => isG o.a && isG o.b && isG o.c
  | .imul o => isG o.a && isG o.b && isG o.c
  | .idiv o => isG o.a && isG o.b && isG o.c
  | .isqr o => isG o.a && isG o.b && o.noC
  | .isqrt o => isG o.a && isG o.b && o.noC
  | .iexp o => isG o.a && isG o.b && o.noC
  | .ilog o => isG o.a && isG o.b && o.noC
  | .ineg o => isG o.a && isG o.b && o.noC
  | .iabs o => isG o.a && isG o.b && o.noC
  | .imin o => isG o.a && isG o.b && isG o.c
  | .imax o => isG o.a && isG o.b && isG o.c
  | .cadd o => isG o.a && isG o.b && isG o.c
  | .csub o => isG o.a && isG o.b && isG o.c
  | .cmul o => isG o.a && isG o.b && isG o.c
  | .cdiv o => isG o.a && isG o.b && isG o.c
  | .csqr o => isG o.a && isG o.b && o.noC
  | .csqrt o => isG o.a && isG o.b && o.noC
  | .cexp o => isG o.a && isG o.b && o.noC
  | .clog o => isG o.a && isG o.b && o.noC
  | .cneg o => isG o.a && isG o.b && o.noC
  | .cabs o => isG o.a && isG o.b && o.noC
  | .cmin o => isG o.a && isG o.b && isG o.c
  | .cmax o => isG o.a && isG o.b && isG o.c
  | .ihull o => isG o.a && isG o.b && isG o.c
  | .imeet o => isG o.a && isG o.b && isG o.c
  | .isplit o => isG o.a && isG o.b && isG o.c
  | .imid o => isV o.a && isG o.b && o.noC
  | .iwid o => isV o.a && isG o.b && o.noC
  | .imk o => isG o.a && isV o.b && isV o.c
  | .ilo o => isV o.a && isG o.b && o.noC
  | .ihi o => isV o.a && isG o.b && o.noC
  | .icmplt o => isM o.a && isG o.b && isG o.c
  | .icmple o => isM o.a && isG o.b && isG o.c
  | .icmpeq o => isM o.a && isG o.b && isG o.c
  | .iin o => isM o.a && isV o.b && isG o.c
  | .iempty o => isM o.a && isG o.b && o.noC
  | .isubset o => isM o.a && isG o.b && isG o.c
  | .ild o => o.shapeOk && isG o.a && (o.eew == 2 || o.eew == 3)
  | .ist o => o.shapeOk && isG o.a && (o.eew == 2 || o.eew == 3)
  | .mclaim _ => true
  | .matrixStateGrant _ => false
  | .mfree => true
  | .msetvl _ _ => true
  | .mwipe _ => true
  | .opadd o => o.pb == 0 && o.pc == 0 && isV o.b && isV o.c
  | .opsub o => o.pb == 0 && o.pc == 0 && isV o.b && isV o.c
  | .opxsc o => isV o.pb && isV o.pc && isV o.b && isV o.c
  | .trowr o => isV o.v && !o.cb
  | .tcolr o => isV o.v && !o.cb
  | .troww o => isV o.v
  | .tcolw o => isV o.v
  | .mld o => o.strided || o.c == 0
  | .mldt o => o.strided || o.c == 0
  | .mst o => o.strided || o.c == 0
  | .mstt o => o.strided || o.c == 0
  | .tileTransferComplete _ => false
  | .mcvt o => isV o.a
  | .cIll _ => true
  | .cAdd a _ => a != 0
  | .cAddi a _ => a != 0
  | .cMov a _ => a != 0
  | .cLi a _ => a != 0
  | .cLd a _ => a != 0
  | .cSt _ _ => true
  | .cBeqz _ _ => true
  | .cBnez _ _ => true
  | .cJ _ => true
  | .cLsli a _ => a != 0
  | .cVsetvl a => a != 0
  | .cBrt _ => true
  | .cNop => true
  | .cSub a _ => a != 0
  | .launchReady _ => false
  | .placement _ => false
  | .preEmption _ => false
  | .slotEviction _ _ => false
  | .savedHartReplacement _ => false
  | .victimResume _ => false
  | .hartRetirement _ => false
  | .launchCompletion _ => false
  | .stripRequest _ => false
  | .postMessage _ => false
  | .barrierRelease _ => false
  | .convoyRelease _ => false
  | .lampDelivery _ => false
  | .engineFault _ => false
  | .debugSingleStep _ => false
  | .coreError _ => false
  | .gangLost _ => false
  | .dbgHaltreq _ _ => false
  | .debugHalt _ => false
  | .dbgGoreq _ _ => false
  | .dbgdata _ _ => false
  | .streamStart _ => false
  | .streamElement _ => false
  | .streamCompletion _ => false
  | .streamFault _ => false
  | .routeReservation _ => false
  | .routeRowDelivery _ _ _ _ => false
  | .reassembly _ _ => false
  | .routeTimeout _ _ => false
  | .routeTimeoutTrap _ => false
  | .assayctlClose => false
  | .assayRehashDone => false
  | .patrolScrub _ _ => false
  | .meshMonitorWindow _ _ _ => false
  | .linkDown _ => false
  | .linkUp _ => false
  | .counterClear _ => false
  | .hostMemAccess _ _ _ => false
  | .getVersion => false
  | .getCapabilities => false
  | .negotiateAlgorithms => false
  | .getDigests => false
  | .getCertificate => false
  | .challenge _ => false
  | .getMeasurements _ => false
  | .securityVersionWrite _ => false
  | .powerModeWrite _ => false
  | .powerGrant => false
  | .thermalHold => false
  | .thermalRelease => false
  | .powerGood => false
  | .illegalInstruction _ => false
  | .softError _ _ => false
  | .coreReset _ => false
  | .nodeRemoval _ => false

end Sys2Proof
end

