-- ==== Sys2Proof/Decode.lean ====
section
/-! DEFINITION. The decoder, total on any 64-bit window of parcels and rejecting by name, and after it the encoder,
both written from 03 R28 to R44 and the encodings that the engine chapters give. -/
namespace Sys2Proof

/-- Why a pattern is no instruction: the rows of 03 R44. -/
inductive Reject where
  | compressed        -- op4 15, a nonzero f6 bit, or ra = 0 where R37 forbids it
  | major             -- majors 43, 47, 56, 61, 62
  | functionCode      -- an unassigned or reserved function code
  | size              -- MEM fn3 = 111
  | unusedField       -- a nonzero field that the instruction does not read
  | operand           -- register family, chain bit, form, mode, eew, rounding code, shift count
  | prefixKind        -- a reserved prefix kind, or a prefix before a prefix or a compressed parcel
  | prefixBody        -- a prefix before a body that does not accept it
  | loneTile          -- a body of majors 58 to 60 without its TILE prefix
  deriving DecidableEq, Repr

/-- The five fields of a 32-bit word (03 R30). -/
structure Fields where
  a : BitVec 5
  b : BitVec 5
  c : BitVec 5
  x : BitVec 1
  major : BitVec 6
  t : BitVec 9
  deriving DecidableEq, Repr

/-- The fields of a word (03 R30). -/
def fieldsOf (w : BitVec 32) : Fields :=
  ⟨w.extractLsb' 27 5, w.extractLsb' 22 5, w.extractLsb' 17 5, w.extractLsb' 16 1, w.extractLsb' 9 6, w.extractLsb' 0 9⟩

/-- Length of an instruction in parcels, from its first parcel alone (03 R28). -/
def lengthOf (p : Parcel) : Nat :=
  if p.extractLsb' 15 1 == 0 then 1 else if p.extractLsb' 9 6 == 63 then 4 else 2

def lo3 (x : BitVec 5) : BitVec 3 := x.extractLsb' 0 3
def hi2 (x : BitVec 5) : BitVec 2 := x.extractLsb' 3 2
def lo4 (x : BitVec 5) : BitVec 4 := x.extractLsb' 0 4
def hi1 (x : BitVec 5) : BitVec 1 := x.extractLsb' 4 1
def bit (x : BitVec 1) : Bool := x == 1

/-- fn10 = {x, t} (03 R30). -/
def Fields.fn10 (f : Fields) : BitVec 10 := f.x ++ f.t
/-- fn3, the upper bits of c in RI and MEM (03 R30). -/
def Fields.fn3 (f : Fields) : BitVec 3 := f.c.extractLsb' 2 3
/-- imm12 of RI and MEM (03 R30). -/
def Fields.imm12 (f : Fields) : BitVec 12 := f.c.extractLsb' 0 2 ++ f.x ++ f.t
/-- imm15 of BR (03 R30). -/
def Fields.imm15 (f : Fields) : BitVec 15 := f.c ++ f.x ++ f.t
/-- imm20 of LI (03 R30). -/
def Fields.imm20 (f : Fields) : BitVec 20 := f.b ++ f.c ++ f.x ++ f.t
/-- cr12 of SYS (03 R30). -/
def Fields.cr12 (f : Fields) : BitVec 12 := f.c ++ f.x ++ f.t.extractLsb' 3 6
/-- op3 of SYS and VM (03 R30, R32). -/
def Fields.op3 (f : Fields) : BitVec 3 := f.t.extractLsb' 0 3
/-- fn2 of V and G (03 R32). -/
def Fields.fn2 (f : Fields) : BitVec 2 := f.t.extractLsb' 0 2

def Fields.vOps (f : Fields) : VOps :=
  ⟨f.a, f.b, f.c, bit f.x, bit (f.t.extractLsb' 8 1), f.t.extractLsb' 6 2, bit (f.t.extractLsb' 5 1), f.t.extractLsb' 2 3⟩
def Fields.vmOps (f : Fields) : VmOps :=
  ⟨f.a, f.b, f.c, bit f.x, f.t.extractLsb' 7 2, bit (f.t.extractLsb' 6 1), f.t.extractLsb' 3 3⟩
def Fields.gOps (f : Fields) : GOps :=
  ⟨f.a, f.b, f.c, bit f.x, bit (f.t.extractLsb' 8 1), f.t.extractLsb' 3 5, bit (f.t.extractLsb' 2 1)⟩
def Fields.ivOps (f : Fields) : IvOps :=
  ⟨f.a, f.b, f.c, bit f.x, bit (f.t.extractLsb' 8 1), bit (f.t.extractLsb' 6 1), bit (f.t.extractLsb' 5 1)⟩
def Fields.atOps (f : Fields) : AtOps :=
  ⟨bit (f.t.extractLsb' 8 1), f.t.extractLsb' 6 2, f.t.extractLsb' 4 2, f.a, f.b, f.c⟩
def Fields.fOps (f : Fields) : FOps :=
  ⟨f.x ++ f.t.extractLsb' 8 1, f.t.extractLsb' 5 3, f.a, f.b, f.c⟩
def Fields.memSize (f : Fields) : Option MemSize :=
  match f.fn3 with
  | 0 => some .b | 1 => some .h | 2 => some .w | 3 => some .d | 4 => some .bs | 5 => some .hs | 6 => some .ws | _ => none

/-- Accept a candidate that meets its decode-time restrictions. -/
def checked (i : Instr) : Except Reject Instr := if i.wellFormed then .ok i else .error .operand
/-- Accept a candidate whose unused fields `z` are zero (03 R43). -/
def zeros (z : Bool) (i : Instr) : Except Reject Instr := if z then checked i else .error .unusedField

/-- Register-register majors 0, 20 to 23, 28, 31 and 57 (03 R41, R42). -/
noncomputable def decodeRR (f : Fields) : Except Reject Instr :=
  match f.major.toNat, f.fn10.toNat with
  | 0, 0 => checked (.add f.a f.b f.c)
  | 0, 512 => checked (.addw f.a f.b f.c)
  | 0, 1 => checked (.sub f.a f.b f.c)
  | 0, 513 => checked (.subw f.a f.b f.c)
  | 0, 2 => checked (.and f.a f.b f.c)
  | 0, 3 => checked (.ior f.a f.b f.c)
  | 0, 4 => checked (.xor f.a f.b f.c)
  | 0, 5 => checked (.lsl f.a f.b f.c)
  | 0, 517 => checked (.lslw f.a f.b f.c)
  | 0, 6 => checked (.lsr f.a f.b f.c)
  | 0, 518 => checked (.lsrw f.a f.b f.c)
  | 0, 7 => checked (.asr f.a f.b f.c)
  | 0, 519 => checked (.asrw f.a f.b f.c)
  | 0, 8 => checked (.mul f.a f.b f.c)
  | 0, 520 => checked (.mulw f.a f.b f.c)
  | 0, 9 => checked (.mulhs f.a f.b f.c)
  | 0, 10 => checked (.mulhn f.a f.b f.c)
  | 0, 11 => checked (.divs f.a f.b f.c)
  | 0, 523 => checked (.divsw f.a f.b f.c)
  | 0, 12 => checked (.divn f.a f.b f.c)
  | 0, 524 => checked (.divnw f.a f.b f.c)
  | 0, 13 => checked (.rems f.a f.b f.c)
  | 0, 525 => checked (.remsw f.a f.b f.c)
  | 0, 14 => checked (.remn f.a f.b f.c)
  | 0, 526 => checked (.remnw f.a f.b f.c)
  | 0, 15 => checked (.slt f.a f.b f.c)
  | 0, 16 => checked (.sltn f.a f.b f.c)
  | 0, 17 => checked (.mins f.a f.b f.c)
  | 0, 18 => checked (.maxs f.a f.b f.c)
  | 0, 19 => checked (.minn f.a f.b f.c)
  | 0, 20 => checked (.maxn f.a f.b f.c)
  | 0, 21 => zeros (f.c == 0) (.clz f.a f.b)
  | 0, 22 => zeros (f.c == 0) (.ctz f.a f.b)
  | 0, 23 => zeros (f.c == 0) (.popc f.a f.b)
  | 0, 24 => zeros (f.c == 0) (.bswp f.a f.b)
  | 20, 0 => zeros (f.a == 0 && f.b.extractLsb' 2 3 == 0 && hi2 f.c == 0) (.fence (f.b.extractLsb' 0 2) (lo3 f.c))
  | 20, 2 => zeros (f.a == 0 && f.b == 0 && f.c == 0) (.fenceI)
  | 20, 3 => zeros (f.a == 0 && f.c == 0) (.marm f.b)
  | 20, 4 => zeros (f.b == 0 && f.c == 0) (.mwait f.a)
  | 20, 5 => zeros (f.a == 0) (.vmflush f.b f.c)
  | 20, 6 => zeros (f.a == 0 && f.b == 0 && f.c == 0) (.assay)
  | 20, 1 => zeros (f.a == 0 && f.b == 0 && f.c == 0) (.fenceS)
  | 21, 0 => zeros (f.c == 0) (.launch f.a f.b)
  | 21, 1 => zeros (f.c == 0) (.launchi f.a f.b)
  | 21, 2 => zeros (f.a == 0 && f.b == 0 && f.c == 0) (.retire)
  | 21, 3 => zeros (f.a == 0 && f.b == 0 && f.c == 0) (.yield)
  | 21, 4 => zeros (f.a == 0 && f.c == 0) (.farm f.b)
  | 21, 5 => zeros (f.c == 0) (.fstrip f.a f.b)
  | 21, 6 => zeros (f.a == 0) (.post f.b f.c)
  | 21, 7 => zeros (f.a == 0) (.waiti f.b f.c)
  | 21, 8 => zeros (f.a == 0 && f.b == 0 && f.c == 0) (.bar)
  | 21, 9 => zeros (f.a == 0 && f.b == 0 && f.c == 0) (.convoy)
  | 21, 10 => zeros (f.c == 0) (.lwait f.a f.b)
  | 21, 11 => zeros (f.a == 0 && f.b == 0 && f.c == 0) (.uiret)
  | 22, 0 => zeros (f.c == 0) (.sstart f.a f.b)
  | 22, 1 => zeros (f.c == 0) (.swait f.a f.b)
  | 22, 2 => zeros (f.c == 0) (.stest f.a f.b)
  | 22, 3 => zeros (f.c == 0) (.skill f.a f.b)
  | 22, 4 => zeros (f.c == 0) (.rbind f.a f.b)
  | 22, 5 => zeros (f.a == 0 && f.b == 0 && f.c == 0) (.runbind)
  | 22, 6 => zeros (f.c == 0) (.route f.a f.b)
  | 22, 7 => zeros (f.c == 0) (.rrecv f.a f.b)
  | 22, 8 => checked (.rret f.a f.b f.c)
  | 22, 9 => zeros (f.c == 0) (.rwait f.a f.b)
  | 22, 10 => checked (.rstat f.a f.b f.c)
  | 23, 0 => checked (.vsetvl f.a f.b f.c)
  | 23, 1 => zeros (f.a == 0 && f.c == 0) (.vshape f.b)
  | 23, 6 => zeros (f.c == 0) (.winrd f.a f.b)
  | 23, 2 => checked (.winv f.a f.b f.c)
  | 23, 3 => zeros (hi2 f.a == 0) (.winm (lo3 f.a) f.b f.c)
  | 23, 4 => zeros (hi1 f.a == 0) (.wing (lo4 f.a) f.b f.c)
  | 23, 5 => zeros (hi1 f.a == 0) (.wini (lo4 f.a) f.b f.c)
  | 28, 0 => zeros (hi2 f.a == 0) (.vbin (lo3 f.a) f.b f.c)
  | 28, 1 => zeros (f.a == 0) (.vpush f.b f.c)
  | 28, 2 => zeros (f.a == 0 && hi2 f.c == 0) (.vfe f.b (lo3 f.c))
  | 31, 0 => zeros (hi2 f.a == 0 && hi2 f.b == 0 && hi2 f.c == 0) (.mand (lo3 f.a) (lo3 f.b) (lo3 f.c))
  | 31, 1 => zeros (hi2 f.a == 0 && hi2 f.b == 0 && hi2 f.c == 0) (.mior (lo3 f.a) (lo3 f.b) (lo3 f.c))
  | 31, 2 => zeros (hi2 f.a == 0 && hi2 f.b == 0 && hi2 f.c == 0) (.mxor (lo3 f.a) (lo3 f.b) (lo3 f.c))
  | 31, 3 => zeros (hi2 f.a == 0 && hi2 f.b == 0 && hi2 f.c == 0) (.mandn (lo3 f.a) (lo3 f.b) (lo3 f.c))
  | 31, 4 => zeros (hi2 f.a == 0 && hi2 f.b == 0 && f.c == 0) (.mnot (lo3 f.a) (lo3 f.b))
  | 31, 5 => zeros (hi2 f.b == 0 && f.c == 0) (.mpopc f.a (lo3 f.b))
  | 31, 6 => zeros (hi2 f.b == 0 && f.c == 0) (.mfirst f.a (lo3 f.b))
  | 31, 7 => zeros (hi2 f.a == 0 && f.b == 0 && f.c == 0) (.mset (lo3 f.a))
  | 31, 8 => zeros (hi2 f.a == 0 && f.b == 0 && f.c == 0) (.mclr (lo3 f.a))
  | 57, 0 => zeros (f.a == 0 && f.c == 0) (.mclaim f.b)
  | 57, 1 => zeros (f.a == 0 && f.b == 0 && f.c == 0) (.mfree)
  | 57, 2 => zeros (f.a == 0) (.msetvl f.b f.c)
  | 57, 3 => zeros (hi2 f.a == 0 && f.b == 0 && f.c == 0) (.mwipe (lo3 f.a))
  | 23, n => if n < 512 then .error .functionCode else zeros (f.c == 0) (.vsetvli f.a f.b f.t)
  | _, _ => .error .functionCode

/-- Major 1 (03 R31, 06 R101): shift counts have imm12[11:6] zero. -/
def decodeRI (f : Fields) : Except Reject Instr :=
  match f.fn3 with
  | 0 => checked (.addi f.a f.b f.imm12)
  | 1 => checked (.andi f.a f.b f.imm12)
  | 2 => checked (.iori f.a f.b f.imm12)
  | 3 => checked (.xori f.a f.b f.imm12)
  | 4 => checked (.slti f.a f.b f.imm12)
  | 5 => if f.imm12.extractLsb' 6 6 == 0 then checked (.lsli f.a f.b (f.imm12.extractLsb' 0 6)) else .error .operand
  | 6 => if f.imm12.extractLsb' 6 6 == 0 then checked (.lsri f.a f.b (f.imm12.extractLsb' 0 6)) else .error .operand
  | _ => if f.imm12.extractLsb' 6 6 == 0 then checked (.asri f.a f.b (f.imm12.extractLsb' 0 6)) else .error .operand

/-- Majors 4 to 7 (03 R41). -/
def decodeMem (f : Fields) : Except Reject Instr :=
  match f.memSize with
  | none => .error .size
  | some sz =>
    match f.major.toNat with
    | 4 => checked (.ld sz f.a f.b f.imm12)
    | 5 => checked (.lda sz f.a f.b f.imm12)
    | 6 => checked (.st sz f.a f.b f.imm12)
    | _ => checked (.stl sz f.a f.b f.imm12)

/-- Major 8 (03 R42). -/
def decodeAtomic (f : Fields) : Except Reject Instr :=
  if f.x == 1 then .error .functionCode else
  match (f.t.extractLsb' 0 4).toNat with
  | 0 => checked (.aadd f.atOps)
  | 1 => checked (.aand f.atOps)
  | 2 => checked (.aior f.atOps)
  | 3 => checked (.axor f.atOps)
  | 4 => checked (.amins f.atOps)
  | 5 => checked (.amaxs f.atOps)
  | 6 => checked (.aminn f.atOps)
  | 7 => checked (.amaxn f.atOps)
  | 8 => checked (.aswp f.atOps)
  | 9 => checked (.acas f.atOps)
  | _ => .error .functionCode

/-- Major 9 (03 R42). -/
def decodeFloat (f : Fields) : Except Reject Instr :=
  match (f.t.extractLsb' 0 5).toNat with
  | 0 => checked (.fadd f.fOps)
  | 1 => checked (.fsub f.fOps)
  | 2 => checked (.fmul f.fOps)
  | 3 => checked (.fdiv f.fOps)
  | 4 => checked (.fsqrt f.fOps)
  | 5 => checked (.fmin f.fOps)
  | 6 => checked (.fmax f.fOps)
  | 7 => checked (.fmac f.fOps)
  | 8 => checked (.feq f.fOps)
  | 9 => checked (.flt f.fOps)
  | 10 => checked (.fle f.fOps)
  | 11 => checked (.fclass f.fOps)
  | 12 => checked (.fcvti f.fOps)
  | 13 => checked (.fcvtf f.fOps)
  | 14 => checked (.fcvt f.fOps)
  | 15 => checked (.fsgn f.fOps)
  | 16 => checked (.fsgnn f.fOps)
  | 17 => checked (.fsgnx f.fOps)
  | _ => .error .functionCode

/-- Major 18 (06 R111). -/
def decodeBranchReg (f : Fields) : Except Reject Instr :=
  match f.fn3.toNat with
  | 0 => checked (.jr f.a f.b f.imm12)
  | 1 => zeros (hi2 f.a == 0) (.ptbr (lo3 f.a) f.b f.imm12)
  | 2 => zeros (hi2 f.a == 0 && f.b == 0 && f.imm12 == 0) (.brt (lo3 f.a))
  | 3 => zeros (hi2 f.a == 0 && f.imm12 == 0) (.brtnz (lo3 f.a) f.b)
  | 4 => zeros (hi2 f.a == 0 && f.imm12 == 0) (.brtz (lo3 f.a) f.b)
  | 5 => zeros (hi2 f.a == 0 && f.b == 0 && f.imm12 == 0) (.callt (lo3 f.a))
  | _ => .error .functionCode

/-- Major 19 (06 R113). -/
def decodeSys (f : Fields) : Except Reject Instr :=
  match f.op3.toNat with
  | 0 => zeros (f.b == 0) (.crd f.a f.cr12)
  | 1 => checked (.cwr f.a f.b f.cr12)
  | 2 => checked (.cset f.a f.b f.cr12)
  | 3 => checked (.cclr f.a f.b f.cr12)
  | 4 => zeros (f.a == 0 && f.b == 0) (.trap f.cr12)
  | 5 => zeros (f.a == 0 && f.b == 0 && f.cr12 == 0) .resume
  | 6 => zeros (f.a == 0 && f.b == 0 && f.cr12 == 0) .idle
  | _ => zeros (f.a == 0 && f.b == 0 && f.cr12 == 0) .halt

/-- Majors 24 to 27 and 55, VM format (03 R34, R41). -/
noncomputable def decodeVM (f : Fields) : Except Reject Instr :=
  match f.major.toNat, f.op3.toNat with
  | 24, 0 => checked (.vld f.vmOps)
  | 24, 1 => checked (.vldff f.vmOps)
  | 24, 2 => checked (.vldm f.vmOps)
  | 24, 3 => checked (.vfill f.vmOps)
  | 25, 0 => checked (.vst f.vmOps)
  | 25, 1 => checked (.vstu f.vmOps)
  | 25, 2 => checked (.vstm f.vmOps)
  | 25, 3 => checked (.vspill f.vmOps)
  | 26, 0 => checked (.vsredIadd f.vmOps)
  | 26, 1 => checked (.vsredFadd f.vmOps)
  | 26, 2 => checked (.vsredMins f.vmOps)
  | 26, 3 => checked (.vsredMaxs f.vmOps)
  | 26, 4 => checked (.vsredMinn f.vmOps)
  | 26, 5 => checked (.vsredMaxn f.vmOps)
  | 26, 6 => checked (.vsredAnd f.vmOps)
  | 26, 7 => checked (.vsredIor f.vmOps)
  | 27, 0 => checked (.vsredoIadd f.vmOps)
  | 27, 1 => checked (.vsredoFadd f.vmOps)
  | 27, 2 => checked (.vsredoMins f.vmOps)
  | 27, 3 => checked (.vsredoMaxs f.vmOps)
  | 27, 4 => checked (.vsredoMinn f.vmOps)
  | 27, 5 => checked (.vsredoMaxn f.vmOps)
  | 27, 6 => checked (.vsredoAnd f.vmOps)
  | 27, 7 => checked (.vsredoIor f.vmOps)
  | 55, 0 => checked (.ild f.vmOps)
  | 55, 1 => checked (.ist f.vmOps)
  | _, _ => .error .functionCode

/-- Majors 29, 30, 32 to 42 and 44 to 46, V format (03 R33, R41). -/
def decodeV (f : Fields) : Except Reject Instr :=
  match f.major.toNat, f.fn2.toNat with
  | 29, 0 => checked (.vcmpEq f.vOps)
  | 29, 1 => checked (.vcmpNe f.vOps)
  | 29, 2 => checked (.vcmpLt f.vOps)
  | 29, 3 => checked (.vcmpLe f.vOps)
  | 30, 0 => checked (.vcmpGt f.vOps)
  | 30, 1 => checked (.vcmpGe f.vOps)
  | 30, 2 => checked (.vcmpUn f.vOps)
  | 30, 3 => checked (.vcmpOrd f.vOps)
  | 32, 0 => checked (.vadd f.vOps)
  | 32, 1 => checked (.vsub f.vOps)
  | 32, 2 => checked (.vrsub f.vOps)
  | 32, 3 => checked (.vmul f.vOps)
  | 33, 0 => checked (.vmulh f.vOps)
  | 33, 1 => checked (.vdiv f.vOps)
  | 33, 2 => checked (.vrem f.vOps)
  | 33, 3 => checked (.vma f.vOps)
  | 34, 0 => checked (.vms f.vOps)
  | 34, 1 => checked (.vnma f.vOps)
  | 34, 2 => checked (.vmin f.vOps)
  | 34, 3 => checked (.vmax f.vOps)
  | 35, 0 => checked (.vabs f.vOps)
  | 35, 1 => checked (.vneg f.vOps)
  | 35, 2 => checked (.vsqrt f.vOps)
  | 35, 3 => checked (.vrcp f.vOps)
  | 36, 0 => checked (.vrsq f.vOps)
  | 36, 1 => checked (.vexp2 f.vOps)
  | 36, 2 => checked (.vlog2 f.vOps)
  | 36, 3 => checked (.vcvt f.vOps)
  | 37, 0 => checked (.vand f.vOps)
  | 37, 1 => checked (.vior f.vOps)
  | 37, 2 => checked (.vxor f.vOps)
  | 37, 3 => checked (.vnot f.vOps)
  | 38, 0 => checked (.vshl f.vOps)
  | 38, 1 => checked (.vshr f.vOps)
  | 38, 2 => checked (.vsha f.vOps)
  | 38, 3 => checked (.vclz f.vOps)
  | 39, 0 => checked (.vpopc f.vOps)
  | 39, 1 => checked (.vmerge f.vOps)
  | 39, 2 => checked (.vmv f.vOps)
  | 39, 3 => checked (.vidx f.vOps)
  | 40, 0 => checked (.vslup f.vOps)
  | 40, 1 => checked (.vsldn f.vOps)
  | 40, 2 => checked (.vrgath f.vOps)
  | 40, 3 => checked (.vcompr f.vOps)
  | 41, 0 => checked (.vextr f.vOps)
  | 41, 1 => checked (.vins f.vOps)
  | 41, 2 => checked (.vscl f.vOps)
  | 41, 3 => checked (.vrnd f.vOps)
  | 42, 0 => checked (.vdotq f.vOps)
  | 42, 1 => checked (.vclass f.vOps)
  | 44, 0 => checked (.vrsum f.vOps)
  | 44, 1 => checked (.vrsumo f.vOps)
  | 44, 2 => checked (.vrmin f.vOps)
  | 44, 3 => checked (.vrmax f.vOps)
  | 45, 0 => checked (.vscan f.vOps)
  | 45, 1 => zeros (f.b == 0 && f.c == 0 && f.x == 0 && f.t.extractLsb' 6 3 == 0 && f.t.extractLsb' 2 3 == 0) (.vfetch f.a (bit (f.t.extractLsb' 5 1)))
  | 45, 2 => zeros (f.a == 0 && f.b == 0 && f.c == 0 && f.x == 0 && f.t.extractLsb' 2 7 == 0) .lend
  | 46, 0 => checked (.vtget f.vOps)
  | 46, 1 => checked (.vtset f.vOps)
  | 46, 2 => checked (.vtzero f.vOps)
  | _, _ => .error .functionCode

/-- Majors 48 to 52, G format (15 R264). -/
noncomputable def decodeG (f : Fields) : Except Reject Instr :=
  match f.major.toNat, f.fn2.toNat with
  | 48, 0 => checked (.gprod f.gOps)
  | 48, 1 => checked (.gwedge f.gOps)
  | 48, 2 => checked (.gjoin f.gOps)
  | 48, 3 => checked (.ginner f.gOps)
  | 49, 0 => checked (.gsand f.gOps)
  | 49, 1 => checked (.grev f.gOps)
  | 49, 2 => checked (.gdual f.gOps)
  | 49, 3 => checked (.ggrade f.gOps)
  | 50, 0 => checked (.gnorm f.gOps)
  | 50, 1 => checked (.gadd f.gOps)
  | 50, 2 => checked (.gsub f.gOps)
  | 50, 3 => checked (.gscale f.gOps)
  | 51, 0 => checked (.gld f.gOps)
  | 51, 1 => checked (.gst f.gOps)
  | 51, 2 => checked (.gexp f.gOps)
  | 51, 3 => checked (.gxsign f.gOps)
  | 52, 0 => checked (.gsel f.gOps)
  | 52, 1 => checked (.gfromv f.gOps)
  | 52, 2 => checked (.gtov f.gOps)
  | _, _ => .error .functionCode

/-- Majors 53 and 54, IV format (03 R36, 18 R288). -/
noncomputable def decodeIV (f : Fields) : Except Reject Instr :=
  match f.major.toNat, bit (f.t.extractLsb' 7 1), (f.t.extractLsb' 0 5).toNat with
  | 53, false, 0 => checked (.iadd f.ivOps)
  | 53, false, 1 => checked (.isub f.ivOps)
  | 53, false, 2 => checked (.imul f.ivOps)
  | 53, false, 3 => checked (.idiv f.ivOps)
  | 53, false, 4 => checked (.isqr f.ivOps)
  | 53, false, 5 => checked (.isqrt f.ivOps)
  | 53, false, 6 => checked (.iexp f.ivOps)
  | 53, false, 7 => checked (.ilog f.ivOps)
  | 53, false, 8 => checked (.ineg f.ivOps)
  | 53, false, 9 => checked (.iabs f.ivOps)
  | 53, false, 10 => checked (.imin f.ivOps)
  | 53, false, 11 => checked (.imax f.ivOps)
  | 53, true, 0 => checked (.cadd f.ivOps)
  | 53, true, 1 => checked (.csub f.ivOps)
  | 53, true, 2 => checked (.cmul f.ivOps)
  | 53, true, 3 => checked (.cdiv f.ivOps)
  | 53, true, 4 => checked (.csqr f.ivOps)
  | 53, true, 5 => checked (.csqrt f.ivOps)
  | 53, true, 6 => checked (.cexp f.ivOps)
  | 53, true, 7 => checked (.clog f.ivOps)
  | 53, true, 8 => checked (.cneg f.ivOps)
  | 53, true, 9 => checked (.cabs f.ivOps)
  | 53, true, 10 => checked (.cmin f.ivOps)
  | 53, true, 11 => checked (.cmax f.ivOps)
  | 54, false, 0 => checked (.ihull f.ivOps)
  | 54, false, 1 => checked (.imeet f.ivOps)
  | 54, false, 2 => checked (.isplit f.ivOps)
  | 54, false, 3 => checked (.imid f.ivOps)
  | 54, false, 4 => checked (.iwid f.ivOps)
  | 54, false, 5 => checked (.imk f.ivOps)
  | 54, false, 6 => checked (.ilo f.ivOps)
  | 54, false, 7 => checked (.ihi f.ivOps)
  | 54, false, 8 => checked (.icmplt f.ivOps)
  | 54, false, 9 => checked (.icmple f.ivOps)
  | 54, false, 10 => checked (.icmpeq f.ivOps)
  | 54, false, 11 => checked (.iin f.ivOps)
  | 54, false, 12 => checked (.iempty f.ivOps)
  | 54, false, 13 => checked (.isubset f.ivOps)
  | _, _, _ => .error .functionCode

/-- A 32-bit word that is no prefix (03 R41). -/
noncomputable def decode32 (f : Fields) : Except Reject Instr :=
  match f.major.toNat with
  | 0 => decodeRR f
  | 1 => decodeRI f
  | 2 => checked (.lih f.a f.imm20)
  | 3 => checked (.addpc f.a f.imm20)
  | 4 => decodeMem f
  | 5 => decodeMem f
  | 6 => decodeMem f
  | 7 => decodeMem f
  | 8 => decodeAtomic f
  | 9 => decodeFloat f
  | 10 => checked (.beq f.a f.b f.imm15)
  | 11 => checked (.bne f.a f.b f.imm15)
  | 12 => checked (.blt f.a f.b f.imm15)
  | 13 => checked (.bge f.a f.b f.imm15)
  | 14 => checked (.bltn f.a f.b f.imm15)
  | 15 => checked (.bgen f.a f.b f.imm15)
  | 16 => checked (.jal f.a f.imm20)
  | 17 => zeros (hi2 f.a == 0) (.ptb (lo3 f.a) f.imm20)
  | 18 => decodeBranchReg f
  | 19 => decodeSys f
  | 20 => decodeRR f
  | 21 => decodeRR f
  | 22 => decodeRR f
  | 23 => decodeRR f
  | 28 => decodeRR f
  | 31 => decodeRR f
  | 57 => decodeRR f
  | 24 => decodeVM f
  | 25 => decodeVM f
  | 26 => decodeVM f
  | 27 => decodeVM f
  | 55 => decodeVM f
  | 29 => decodeV f
  | 30 => decodeV f
  | 32 => decodeV f
  | 33 => decodeV f
  | 34 => decodeV f
  | 35 => decodeV f
  | 36 => decodeV f
  | 37 => decodeV f
  | 38 => decodeV f
  | 39 => decodeV f
  | 40 => decodeV f
  | 41 => decodeV f
  | 42 => decodeV f
  | 44 => decodeV f
  | 45 => decodeV f
  | 46 => decodeV f
  | 48 => decodeG f
  | 49 => decodeG f
  | 50 => decodeG f
  | 51 => decodeG f
  | 52 => decodeG f
  | 53 => decodeIV f
  | 54 => decodeIV f
  | 58 => .error .loneTile
  | 59 => .error .loneTile
  | 60 => .error .loneTile
  | _ => .error .major

/-- A TILE prefix `p` and its body `f` (03 R39). -/
noncomputable def decodeTile (p f : Fields) : Except Reject Instr :=
  if p.x != 0 || p.t.extractLsb' 3 3 != 0 || hi2 p.a != 0 then .error .unusedField else
  let tile := lo3 p.a
  let pn := p.t.extractLsb' 6 3
  let v := f.vOps
  let m := f.vmOps
  match f.major.toNat with
  | 58 =>
    let o : OpOps := ⟨tile, p.b, p.c, f.b, f.c, v.x, v.cb, v.vm, v.n⟩
    if pn != 0 || f.a != 0 || v.form != 0 then .error .unusedField else
    match f.fn2.toNat with
    | 0 => checked (.opadd o)
    | 1 => checked (.opsub o)
    | 2 => checked (.opxsc o)
    | _ => .error .functionCode
  | 59 =>
    if pn != 0 || p.c != 0 || f.b != 0 || v.form != 0 || v.x then .error .unusedField else
    match f.fn2.toNat with
    | 0 => zeros (f.c == 0) (.trowr ⟨tile, p.b, f.a, v.cb, v.vm, v.n⟩)
    | 1 => zeros (f.c == 0) (.tcolr ⟨tile, p.b, f.a, v.cb, v.vm, v.n⟩)
    | 2 => zeros (f.a == 0) (.troww ⟨tile, p.b, f.c, v.cb, v.vm, v.n⟩)
    | _ => zeros (f.a == 0) (.tcolw ⟨tile, p.b, f.c, v.cb, v.vm, v.n⟩)
  | 60 =>
    if p.c != 0 || m.x || m.eew != 4 || m.mode == 2 || m.mode == 3 then .error .unusedField else
    let o : TileOps := ⟨tile, pn, f.b, f.c, m.mode == 1, m.vm⟩
    let z := p.b == 0 && f.a == 0
    match f.op3.toNat with
    | 0 => zeros z (.mld o)
    | 1 => zeros z (.mldt o)
    | 2 => zeros z (.mst o)
    | 3 => zeros z (.mstt o)
    | 4 => zeros (f.b == 0 && f.c == 0 && m.mode == 0) (.mcvt ⟨tile, p.b, pn, f.a, m.vm⟩)
    | _ => .error .functionCode
  | _ => .error .prefixBody

/-- A TAN prefix `p` and its body `f` (03 R40): 0x0000_FE01 with the override in t[4:3]. -/
noncomputable def decodeTan (p f : Fields) : Except Reject Instr :=
  if p.a != 0 || p.b != 0 || p.c != 0 || p.x != 0 || p.t.extractLsb' 5 4 != 0 then .error .unusedField else
  match decode32 f with
  | .error e => .error e
  | .ok i => if i.tanAccepted then checked (.tan (p.t.extractLsb' 3 2) i) else .error .prefixBody

/-- A compressed parcel (03 R37). -/
noncomputable def decode16 (p : Parcel) : Except Reject Instr :=
  let ra := p.extractLsb' 6 5
  let f6 := p.extractLsb' 0 6
  let c := p.extractLsb' 0 5
  let top := p.extractLsb' 5 1
  match (p.extractLsb' 11 4).toNat with
  | 0 => checked (.cIll (p.extractLsb' 0 11))
  | 1 => zeros (top == 0) (.cAdd ra c)
  | 2 => checked (.cAddi ra f6)
  | 3 => zeros (top == 0) (.cMov ra c)
  | 4 => checked (.cLi ra f6)
  | 5 => checked (.cLd ra f6)
  | 6 => checked (.cSt ra f6)
  | 7 => checked (.cBeqz ra f6)
  | 8 => checked (.cBnez ra f6)
  | 9 => checked (.cJ (p.extractLsb' 0 11))
  | 10 => checked (.cLsli ra f6)
  | 11 => zeros (f6 == 0) (.cVsetvl ra)
  | 12 => zeros (f6 == 0 && hi2 ra == 0) (.cBrt (lo3 ra))
  | 13 => zeros (f6 == 0 && ra == 0) .cNop
  | 14 => zeros (top == 0) (.cSub ra c)
  | _ => .error .compressed

/-- The instruction whose first parcel is bits [15:0] of `w` and whose later parcels follow upward (03 R28 to R44).
Bits above the instruction's length are not read. -/
noncomputable def decode (w : BitVec 64) : Except Reject Instr :=
  let p0 : Parcel := w.extractLsb' 0 16
  match lengthOf p0 with
  | 1 => decode16 p0
  | 2 => decode32 (fieldsOf (w.extractLsb' 0 32))
  | _ =>
    let p := fieldsOf (w.extractLsb' 0 32)
    let body : BitVec 32 := w.extractLsb' 32 32
    if body.extractLsb' 15 1 == 0 || body.extractLsb' 9 6 == 63 then .error .prefixKind else
    match (p.t.extractLsb' 0 3).toNat with
    | 0 => decodeTile p (fieldsOf body)
    | 1 => decodeTan p (fieldsOf body)
    | _ => .error .prefixKind

/-- The instruction that the decoder reads from the bits `w` of a row of spec/opcode_table.json; the bits above `nbits`
are zero. -/
noncomputable def decodeTableWord (nbits w : Nat) : Option Instr :=
  match decode (BitVec.ofNat 64 (w % 2 ^ nbits)) with
  | .ok i => some i
  | .error _ => none

/-! ## The encoder -/

/-- An encoded instruction: its length in parcels and its parcels, the first in bits [15:0]. -/
structure Code where
  len : Nat
  bits : BitVec 64
  deriving DecidableEq, Repr

/-- A 32-bit word from its fields (03 R30). -/
def word32 (a b c : BitVec 5) (x : BitVec 1) (major : BitVec 6) (t : BitVec 9) : BitVec 32 :=
  a ++ b ++ c ++ x ++ 1#1 ++ major ++ t

/-- Zero-extend a three-bit register field to its five-bit slot. -/
def r3 (x : BitVec 3) : BitVec 5 := 0#2 ++ x
/-- Zero-extend a four-bit register field to its five-bit slot. -/
def r4 (x : BitVec 4) : BitVec 5 := 0#1 ++ x
def b1 (x : Bool) : BitVec 1 := BitVec.ofBool x

def code16 (op : BitVec 4) (rest : BitVec 11) : Code := ⟨1, 0#48 ++ (0#1 ++ op ++ rest : BitVec 16)⟩
def code32 (w : BitVec 32) : Code := ⟨2, 0#32 ++ w⟩
def code64 (p body : BitVec 32) : Code := ⟨4, body ++ p⟩

def codeRR (maj : BitVec 6) (fn : BitVec 10) (a b c : BitVec 5) : Code :=
  code32 (word32 a b c (fn.extractLsb' 9 1) maj (fn.extractLsb' 0 9))
def codeI12 (maj : BitVec 6) (fn3 : BitVec 3) (a b : BitVec 5) (i : BitVec 12) : Code :=
  code32 (word32 a b (fn3 ++ i.extractLsb' 10 2) (i.extractLsb' 9 1) maj (i.extractLsb' 0 9))
def codeBR (maj : BitVec 6) (a b : BitVec 5) (i : BitVec 15) : Code :=
  code32 (word32 a b (i.extractLsb' 10 5) (i.extractLsb' 9 1) maj (i.extractLsb' 0 9))
def codeLI (maj : BitVec 6) (a : BitVec 5) (i : BitVec 20) : Code :=
  code32 (word32 a (i.extractLsb' 15 5) (i.extractLsb' 10 5) (i.extractLsb' 9 1) maj (i.extractLsb' 0 9))
def codeSys (op3 : BitVec 3) (a b : BitVec 5) (cr : BitVec 12) : Code :=
  code32 (word32 a b (cr.extractLsb' 7 5) (cr.extractLsb' 6 1) 19 (cr.extractLsb' 0 6 ++ op3))
def sizeBits : MemSize → BitVec 3
  | .b => 0 | .h => 1 | .w => 2 | .d => 3 | .bs => 4 | .hs => 5 | .ws => 6
def codeAtomic (fn : BitVec 4) (o : AtOps) : Code :=
  code32 (word32 o.a o.b o.c 0 8 (b1 o.dbl ++ o.ord ++ o.scope ++ fn))
def codeFloat (fn : BitVec 5) (o : FOps) : Code :=
  code32 (word32 o.a o.b o.c (o.fmt.extractLsb' 1 1) 9 (o.fmt.extractLsb' 0 1 ++ o.rm ++ fn))
def wordV (maj : BitVec 6) (fn : BitVec 2) (o : VOps) : BitVec 32 :=
  word32 o.a o.b o.c (b1 o.x) maj (b1 o.cb ++ o.form ++ b1 o.vm ++ o.n ++ fn)
def codeV (maj : BitVec 6) (fn : BitVec 2) (o : VOps) : Code := code32 (wordV maj fn o)
def wordVM (maj : BitVec 6) (op : BitVec 3) (o : VmOps) : BitVec 32 :=
  word32 o.a o.b o.c (b1 o.x) maj (o.mode ++ b1 o.vm ++ o.eew ++ op)
def codeVM (maj : BitVec 6) (op : BitVec 3) (o : VmOps) : Code := code32 (wordVM maj op o)
def codeG (maj : BitVec 6) (fn : BitVec 2) (o : GOps) : Code :=
  code32 (word32 o.a o.b o.c (b1 o.x) maj (b1 o.cb ++ o.d ++ b1 o.proj ++ fn))
def codeIV (maj : BitVec 6) (k : BitVec 1) (fn : BitVec 5) (o : IvOps) : Code :=
  code32 (word32 o.a o.b o.c (b1 o.x) maj (b1 o.cb ++ k ++ b1 o.vm ++ b1 o.p ++ fn))
/-- A TILE prefix word (03 R39). -/
def tilePrefix (tile : BitVec 3) (b c : BitVec 5) (n : BitVec 3) : BitVec 32 := word32 (r3 tile) b c 0 63 (n ++ 0#6)
def codeOp (fn : BitVec 2) (o : OpOps) : Code :=
  code64 (tilePrefix o.tile o.pb o.pc 0) (wordV 58 fn ⟨0, o.b, o.c, o.x, o.cb, 0, o.vm, o.n⟩)
def codeSliceR (fn : BitVec 2) (o : SliceOps) : Code :=
  code64 (tilePrefix o.tile o.idx 0 0) (wordV 59 fn ⟨o.v, 0, 0, false, o.cb, 0, o.vm, o.n⟩)
def codeSliceW (fn : BitVec 2) (o : SliceOps) : Code :=
  code64 (tilePrefix o.tile o.idx 0 0) (wordV 59 fn ⟨0, 0, o.v, false, o.cb, 0, o.vm, o.n⟩)
def codeTile (op : BitVec 3) (o : TileOps) : Code :=
  code64 (tilePrefix o.tile 0 0 o.n) (wordVM 60 op ⟨0, o.b, o.c, false, if o.strided then 1 else 0, o.vm, 4⟩)

/-- The words of a well-formed instruction; a device event has none and encodes to no parcel. -/
def encode : Instr → Code
  | .add a b c => codeRR 0 0 a b c
  | .addw a b c => codeRR 0 512 a b c
  | .sub a b c => codeRR 0 1 a b c
  | .subw a b c => codeRR 0 513 a b c
  | .and a b c => codeRR 0 2 a b c
  | .ior a b c => codeRR 0 3 a b c
  | .xor a b c => codeRR 0 4 a b c
  | .lsl a b c => codeRR 0 5 a b c
  | .lslw a b c => codeRR 0 517 a b c
  | .lsr a b c => codeRR 0 6 a b c
  | .lsrw a b c => codeRR 0 518 a b c
  | .asr a b c => codeRR 0 7 a b c
  | .asrw a b c => codeRR 0 519 a b c
  | .mul a b c => codeRR 0 8 a b c
  | .mulw a b c => codeRR 0 520 a b c
  | .mulhs a b c => codeRR 0 9 a b c
  | .mulhn a b c => codeRR 0 10 a b c
  | .divs a b c => codeRR 0 11 a b c
  | .divsw a b c => codeRR 0 523 a b c
  | .divn a b c => codeRR 0 12 a b c
  | .divnw a b c => codeRR 0 524 a b c
  | .rems a b c => codeRR 0 13 a b c
  | .remsw a b c => codeRR 0 525 a b c
  | .remn a b c => codeRR 0 14 a b c
  | .remnw a b c => codeRR 0 526 a b c
  | .slt a b c => codeRR 0 15 a b c
  | .sltn a b c => codeRR 0 16 a b c
  | .mins a b c => codeRR 0 17 a b c
  | .maxs a b c => codeRR 0 18 a b c
  | .minn a b c => codeRR 0 19 a b c
  | .maxn a b c => codeRR 0 20 a b c
  | .clz a b => codeRR 0 21 a b 0
  | .ctz a b => codeRR 0 22 a b 0
  | .popc a b => codeRR 0 23 a b 0
  | .bswp a b => codeRR 0 24 a b 0
  | .addi a b imm => codeI12 1 0 a b imm
  | .andi a b imm => codeI12 1 1 a b imm
  | .iori a b imm => codeI12 1 2 a b imm
  | .xori a b imm => codeI12 1 3 a b imm
  | .slti a b imm => codeI12 1 4 a b imm
  | .lsli a b n => codeI12 1 5 a b (0#6 ++ n)
  | .lsri a b n => codeI12 1 6 a b (0#6 ++ n)
  | .asri a b n => codeI12 1 7 a b (0#6 ++ n)
  | .lih a imm => codeLI 2 a imm
  | .addpc a imm => codeLI 3 a imm
  | .ld sz a b imm => codeI12 4 (sizeBits sz) a b imm
  | .lda sz a b imm => codeI12 5 (sizeBits sz) a b imm
  | .st sz a b imm => codeI12 6 (sizeBits sz) a b imm
  | .stl sz a b imm => codeI12 7 (sizeBits sz) a b imm
  | .aadd o => codeAtomic 0 o
  | .aand o => codeAtomic 1 o
  | .aior o => codeAtomic 2 o
  | .axor o => codeAtomic 3 o
  | .amins o => codeAtomic 4 o
  | .amaxs o => codeAtomic 5 o
  | .aminn o => codeAtomic 6 o
  | .amaxn o => codeAtomic 7 o
  | .aswp o => codeAtomic 8 o
  | .acas o => codeAtomic 9 o
  | .fadd o => codeFloat 0 o
  | .fsub o => codeFloat 1 o
  | .fmul o => codeFloat 2 o
  | .fdiv o => codeFloat 3 o
  | .fsqrt o => codeFloat 4 o
  | .fmin o => codeFloat 5 o
  | .fmax o => codeFloat 6 o
  | .fmac o => codeFloat 7 o
  | .feq o => codeFloat 8 o
  | .flt o => codeFloat 9 o
  | .fle o => codeFloat 10 o
  | .fclass o => codeFloat 11 o
  | .fcvti o => codeFloat 12 o
  | .fcvtf o => codeFloat 13 o
  | .fcvt o => codeFloat 14 o
  | .fsgn o => codeFloat 15 o
  | .fsgnn o => codeFloat 16 o
  | .fsgnx o => codeFloat 17 o
  | .beq a b imm => codeBR 10 a b imm
  | .bne a b imm => codeBR 11 a b imm
  | .blt a b imm => codeBR 12 a b imm
  | .bge a b imm => codeBR 13 a b imm
  | .bltn a b imm => codeBR 14 a b imm
  | .bgen a b imm => codeBR 15 a b imm
  | .jal a imm => codeLI 16 a imm
  | .ptb n imm => codeLI 17 (r3 n) imm
  | .jr a b imm => codeI12 18 0 a b imm
  | .ptbr n b imm => codeI12 18 1 (r3 n) b imm
  | .brt n => codeI12 18 2 (r3 n) 0 0
  | .brtnz n b => codeI12 18 3 (r3 n) b 0
  | .brtz n b => codeI12 18 4 (r3 n) b 0
  | .callt n => codeI12 18 5 (r3 n) 0 0
  | .crd a cr => codeSys 0 a 0 cr
  | .cwr a b cr => codeSys 1 a b cr
  | .cset a b cr => codeSys 2 a b cr
  | .cclr a b cr => codeSys 3 a b cr
  | .trap n => codeSys 4 0 0 n
  | .resume => codeSys 5 0 0 0
  | .idle => codeSys 6 0 0 0
  | .halt => codeSys 7 0 0 0
  | .crWrite _ _ => ⟨0, 0⟩
  | .lampcauseOvfClear => ⟨0, 0⟩
  | .fence kind scope => codeRR 20 0 0 (0#3 ++ kind) (r3 scope)
  | .fenceS => codeRR 20 1 0 0 0
  | .fenceI => codeRR 20 2 0 0 0
  | .marm b => codeRR 20 3 0 b 0
  | .mwait a => codeRR 20 4 a 0 0
  | .monitorWake _ _ => ⟨0, 0⟩
  | .vmflush b c => codeRR 20 5 0 b c
  | .assay => codeRR 20 6 0 0 0
  | .launch a b => codeRR 21 0 a b 0
  | .launchi a b => codeRR 21 1 a b 0
  | .retire => codeRR 21 2 0 0 0
  | .yield => codeRR 21 3 0 0 0
  | .farm b => codeRR 21 4 0 b 0
  | .fstrip a b => codeRR 21 5 a b 0
  | .post b c => codeRR 21 6 0 b c
  | .waiti b c => codeRR 21 7 0 b c
  | .bar => codeRR 21 8 0 0 0
  | .convoy => codeRR 21 9 0 0 0
  | .lwait a b => codeRR 21 10 a b 0
  | .uiret => codeRR 21 11 0 0 0
  | .sstart a b => codeRR 22 0 a b 0
  | .swait a b => codeRR 22 1 a b 0
  | .stest a b => codeRR 22 2 a b 0
  | .skill a b => codeRR 22 3 a b 0
  | .rbind a b => codeRR 22 4 a b 0
  | .runbind => codeRR 22 5 0 0 0
  | .route a b => codeRR 22 6 a b 0
  | .rrecv a b => codeRR 22 7 a b 0
  | .rret a b c => codeRR 22 8 a b c
  | .rwait a b => codeRR 22 9 a b 0
  | .rstat a b c => codeRR 22 10 a b c
  | .vsetvl a b c => codeRR 23 0 a b c
  | .vsetvli a b vt => codeRR 23 (1#1 ++ vt) a b 0
  | .vshape b => codeRR 23 1 0 b 0
  | .winv v b c => codeRR 23 2 v b c
  | .winm m b c => codeRR 23 3 (r3 m) b c
  | .wing w b c => codeRR 23 4 (r4 w) b c
  | .wini w b c => codeRR 23 5 (r4 w) b c
  | .winrd a b => codeRR 23 6 a b 0
  | .vld o => codeVM 24 0 o
  | .vldff o => codeVM 24 1 o
  | .vldm o => codeVM 24 2 o
  | .vfill o => codeVM 24 3 o
  | .vst o => codeVM 25 0 o
  | .vstu o => codeVM 25 1 o
  | .vstm o => codeVM 25 2 o
  | .vspill o => codeVM 25 3 o
  | .vsredIadd o => codeVM 26 0 o
  | .vsredFadd o => codeVM 26 1 o
  | .vsredMins o => codeVM 26 2 o
  | .vsredMaxs o => codeVM 26 3 o
  | .vsredMinn o => codeVM 26 4 o
  | .vsredMaxn o => codeVM 26 5 o
  | .vsredAnd o => codeVM 26 6 o
  | .vsredIor o => codeVM 26 7 o
  | .vsredoIadd o => codeVM 27 0 o
  | .vsredoFadd o => codeVM 27 1 o
  | .vsredoMins o => codeVM 27 2 o
  | .vsredoMaxs o => codeVM 27 3 o
  | .vsredoMinn o => codeVM 27 4 o
  | .vsredoMaxn o => codeVM 27 5 o
  | .vsredoAnd o => codeVM 27 6 o
  | .vsredoIor o => codeVM 27 7 o
  | .vbin m b v => codeRR 28 0 (r3 m) b v
  | .vpush b v => codeRR 28 1 0 b v
  | .vpushDelivery _ => ⟨0, 0⟩
  | .vfe v n => codeRR 28 2 0 v (r3 n)
  | .vcmpEq o => codeV 29 0 o
  | .vcmpNe o => codeV 29 1 o
  | .vcmpLt o => codeV 29 2 o
  | .vcmpLe o => codeV 29 3 o
  | .vcmpGt o => codeV 30 0 o
  | .vcmpGe o => codeV 30 1 o
  | .vcmpUn o => codeV 30 2 o
  | .vcmpOrd o => codeV 30 3 o
  | .mand d b c => codeRR 31 0 (r3 d) (r3 b) (r3 c)
  | .mior d b c => codeRR 31 1 (r3 d) (r3 b) (r3 c)
  | .mxor d b c => codeRR 31 2 (r3 d) (r3 b) (r3 c)
  | .mandn d b c => codeRR 31 3 (r3 d) (r3 b) (r3 c)
  | .mnot d b => codeRR 31 4 (r3 d) (r3 b) 0
  | .mpopc a b => codeRR 31 5 a (r3 b) 0
  | .mfirst a b => codeRR 31 6 a (r3 b) 0
  | .mset d => codeRR 31 7 (r3 d) 0 0
  | .mclr d => codeRR 31 8 (r3 d) 0 0
  | .vadd o => codeV 32 0 o
  | .vsub o => codeV 32 1 o
  | .vrsub o => codeV 32 2 o
  | .vmul o => codeV 32 3 o
  | .vmulh o => codeV 33 0 o
  | .vdiv o => codeV 33 1 o
  | .vrem o => codeV 33 2 o
  | .vma o => codeV 33 3 o
  | .vms o => codeV 34 0 o
  | .vnma o => codeV 34 1 o
  | .vmin o => codeV 34 2 o
  | .vmax o => codeV 34 3 o
  | .vabs o => codeV 35 0 o
  | .vneg o => codeV 35 1 o
  | .vsqrt o => codeV 35 2 o
  | .vrcp o => codeV 35 3 o
  | .vrsq o => codeV 36 0 o
  | .vexp2 o => codeV 36 1 o
  | .vlog2 o => codeV 36 2 o
  | .vcvt o => codeV 36 3 o
  | .vand o => codeV 37 0 o
  | .vior o => codeV 37 1 o
  | .vxor o => codeV 37 2 o
  | .vnot o => codeV 37 3 o
  | .vshl o => codeV 38 0 o
  | .vshr o => codeV 38 1 o
  | .vsha o => codeV 38 2 o
  | .vclz o => codeV 38 3 o
  | .vpopc o => codeV 39 0 o
  | .vmerge o => codeV 39 1 o
  | .vmv o => codeV 39 2 o
  | .vidx o => codeV 39 3 o
  | .vslup o => codeV 40 0 o
  | .vsldn o => codeV 40 1 o
  | .vrgath o => codeV 40 2 o
  | .vcompr o => codeV 40 3 o
  | .vextr o => codeV 41 0 o
  | .vins o => codeV 41 1 o
  | .vscl o => codeV 41 2 o
  | .vrnd o => codeV 41 3 o
  | .vdotq o => codeV 42 0 o
  | .vclass o => codeV 42 1 o
  | .vrsum o => codeV 44 0 o
  | .vrsumo o => codeV 44 1 o
  | .vrmin o => codeV 44 2 o
  | .vrmax o => codeV 44 3 o
  | .vscan o => codeV 45 0 o
  | .vfetch v vm => codeV 45 1 ⟨v, 0, 0, false, false, 0, vm, 0⟩
  | .lend => codeV 45 2 ⟨0, 0, 0, false, false, 0, false, 0⟩
  | .vtget o => codeV 46 0 o
  | .vtset o => codeV 46 1 o
  | .vtzero o => codeV 46 2 o
  | .tan k body => code64 (word32 0 0 0 0 63 (0#4 ++ k ++ 1#3)) ((encode body).bits.extractLsb' 0 32)
  | .gprod o => codeG 48 0 o
  | .gwedge o => codeG 48 1 o
  | .gjoin o => codeG 48 2 o
  | .ginner o => codeG 48 3 o
  | .gsand o => codeG 49 0 o
  | .grev o => codeG 49 1 o
  | .gdual o => codeG 49 2 o
  | .ggrade o => codeG 49 3 o
  | .gnorm o => codeG 50 0 o
  | .gadd o => codeG 50 1 o
  | .gsub o => codeG 50 2 o
  | .gscale o => codeG 50 3 o
  | .gld o => codeG 51 0 o
  | .gst o => codeG 51 1 o
  | .gexp o => codeG 51 2 o
  | .gxsign o => codeG 51 3 o
  | .gsel o => codeG 52 0 o
  | .gfromv o => codeG 52 1 o
  | .gtov o => codeG 52 2 o
  | .iadd o => codeIV 53 0 0 o
  | .isub o => codeIV 53 0 1 o
  | .imul o => codeIV 53 0 2 o
  | .idiv o => codeIV 53 0 3 o
  | .isqr o => codeIV 53 0 4 o
  | .isqrt o => codeIV 53 0 5 o
  | .iexp o => codeIV 53 0 6 o
  | .ilog o => codeIV 53 0 7 o
  | .ineg o => codeIV 53 0 8 o
  | .iabs o => codeIV 53 0 9 o
  | .imin o => codeIV 53 0 10 o
  | .imax o => codeIV 53 0 11 o
  | .cadd o => codeIV 53 1 0 o
  | .csub o => codeIV 53 1 1 o
  | .cmul o => codeIV 53 1 2 o
  | .cdiv o => codeIV 53 1 3 o
  | .csqr o => codeIV 53 1 4 o
  | .csqrt o => codeIV 53 1 5 o
  | .cexp o => codeIV 53 1 6 o
  | .clog o => codeIV 53 1 7 o
  | .cneg o => codeIV 53 1 8 o
  | .cabs o => codeIV 53 1 9 o
  | .cmin o => codeIV 53 1 10 o
  | .cmax o => codeIV 53 1 11 o
  | .ihull o => codeIV 54 0 0 o
  | .imeet o => codeIV 54 0 1 o
  | .isplit o => codeIV 54 0 2 o
  | .imid o => codeIV 54 0 3 o
  | .iwid o => codeIV 54 0 4 o
  | .imk o => codeIV 54 0 5 o
  | .ilo o => codeIV 54 0 6 o
  | .ihi o => codeIV 54 0 7 o
  | .icmplt o => codeIV 54 0 8 o
  | .icmple o => codeIV 54 0 9 o
  | .icmpeq o => codeIV 54 0 10 o
  | .iin o => codeIV 54 0 11 o
  | .iempty o => codeIV 54 0 12 o
  | .isubset o => codeIV 54 0 13 o
  | .ild o => codeVM 55 0 o
  | .ist o => codeVM 55 1 o
  | .mclaim b => codeRR 57 0 0 b 0
  | .matrixStateGrant _ => ⟨0, 0⟩
  | .mfree => codeRR 57 1 0 0 0
  | .msetvl b c => codeRR 57 2 0 b c
  | .mwipe t => codeRR 57 3 (r3 t) 0 0
  | .opadd o => codeOp 0 o
  | .opsub o => codeOp 1 o
  | .opxsc o => codeOp 2 o
  | .trowr o => codeSliceR 0 o
  | .tcolr o => codeSliceR 1 o
  | .troww o => codeSliceW 2 o
  | .tcolw o => codeSliceW 3 o
  | .mld o => codeTile 0 o
  | .mldt o => codeTile 1 o
  | .mst o => codeTile 2 o
  | .mstt o => codeTile 3 o
  | .tileTransferComplete _ => ⟨0, 0⟩
  | .mcvt o => code64 (tilePrefix o.tile o.idx 0 o.n) (wordVM 60 4 ⟨o.a, 0, 0, false, 0, o.vm, 4⟩)
  | .cIll bits => code16 0 bits
  | .cAdd a c => code16 1 (a ++ 0#1 ++ c)
  | .cAddi a imm => code16 2 (a ++ imm)
  | .cMov a c => code16 3 (a ++ 0#1 ++ c)
  | .cLi a imm => code16 4 (a ++ imm)
  | .cLd a n => code16 5 (a ++ n)
  | .cSt a n => code16 6 (a ++ n)
  | .cBeqz a off => code16 7 (a ++ off)
  | .cBnez a off => code16 8 (a ++ off)
  | .cJ off => code16 9 off
  | .cLsli a n => code16 10 (a ++ n)
  | .cVsetvl a => code16 11 (a ++ 0#6)
  | .cBrt n => code16 12 (r3 n ++ 0#6)
  | .cNop => code16 13 0
  | .cSub a c => code16 14 (a ++ 0#1 ++ c)
  | .launchReady _ => ⟨0, 0⟩
  | .placement _ => ⟨0, 0⟩
  | .preEmption _ => ⟨0, 0⟩
  | .slotEviction _ _ => ⟨0, 0⟩
  | .savedHartReplacement _ => ⟨0, 0⟩
  | .victimResume _ => ⟨0, 0⟩
  | .hartRetirement _ => ⟨0, 0⟩
  | .launchCompletion _ => ⟨0, 0⟩
  | .stripRequest _ => ⟨0, 0⟩
  | .postMessage _ => ⟨0, 0⟩
  | .barrierRelease _ => ⟨0, 0⟩
  | .convoyRelease _ => ⟨0, 0⟩
  | .lampDelivery _ => ⟨0, 0⟩
  | .engineFault _ => ⟨0, 0⟩
  | .debugSingleStep _ => ⟨0, 0⟩
  | .coreError _ => ⟨0, 0⟩
  | .gangLost _ => ⟨0, 0⟩
  | .dbgHaltreq _ _ => ⟨0, 0⟩
  | .debugHalt _ => ⟨0, 0⟩
  | .dbgGoreq _ _ => ⟨0, 0⟩
  | .dbgdata _ _ => ⟨0, 0⟩
  | .streamStart _ => ⟨0, 0⟩
  | .streamElement _ => ⟨0, 0⟩
  | .streamCompletion _ => ⟨0, 0⟩
  | .streamFault _ => ⟨0, 0⟩
  | .routeReservation _ => ⟨0, 0⟩
  | .routeRowDelivery _ _ _ _ => ⟨0, 0⟩
  | .reassembly _ _ => ⟨0, 0⟩
  | .routeTimeout _ _ => ⟨0, 0⟩
  | .routeTimeoutTrap _ => ⟨0, 0⟩
  | .assayctlClose => ⟨0, 0⟩
  | .assayRehashDone => ⟨0, 0⟩
  | .patrolScrub _ _ => ⟨0, 0⟩
  | .meshMonitorWindow _ _ _ => ⟨0, 0⟩
  | .linkDown _ => ⟨0, 0⟩
  | .linkUp _ => ⟨0, 0⟩
  | .counterClear _ => ⟨0, 0⟩
  | .hostMemAccess _ _ _ => ⟨0, 0⟩
  | .getVersion => ⟨0, 0⟩
  | .getCapabilities => ⟨0, 0⟩
  | .negotiateAlgorithms => ⟨0, 0⟩
  | .getDigests => ⟨0, 0⟩
  | .getCertificate => ⟨0, 0⟩
  | .challenge _ => ⟨0, 0⟩
  | .getMeasurements _ => ⟨0, 0⟩
  | .securityVersionWrite _ => ⟨0, 0⟩
  | .powerModeWrite _ => ⟨0, 0⟩
  | .powerGrant => ⟨0, 0⟩
  | .thermalHold => ⟨0, 0⟩
  | .thermalRelease => ⟨0, 0⟩
  | .powerGood => ⟨0, 0⟩
  | .illegalInstruction _ => ⟨0, 0⟩
  | .softError _ _ => ⟨0, 0⟩
  | .coreReset _ => ⟨0, 0⟩
  | .nodeRemoval _ => ⟨0, 0⟩

/-- The bits that TRAPVAL holds for an illegal or privileged instruction (03 R46, 08 R152). -/
def Instr.trapBits (i : Instr) : Word := (encode i).bits

end Sys2Proof
end

