-- ==== Sys2Proof/Config.lean ====
section
/-! DEFINITION. What an implementation or the world outside fixes, and the free values. Every constant here is opaque:
nothing in Lean can evaluate it, so a claim holds whatever it is. -/
namespace Sys2Proof.Config

/-- The free choices of the machine (log 3): the n-th open value of a run is `free n`. -/
opaque free : Nat → Nat

/-- Whether an Ed25519 signature of a digest verifies under Onadun's public key (24 R360, log 18). -/
opaque ed25519Verify : (digest signature : BitVec 512) → Bool

/-- The bytes of the firmware image that the boot ROM finds at power-good (24 R360, log 14). -/
opaque firmwareImage : List Byte
/-- The bytes of the boot ROM (24 R361, log 14). -/
opaque bootRom : List Byte
/-- The fused minimum security version (24 R360), a number from 0 to 63 (log 14). -/
opaque fusedMinimum : BitVec 6
/-- The bytes that firmware places in device memory at bring-up: the measured supervisor image (24 R364, log 14). -/
opaque supervisorImage : List Host.Cell
/-- SVEC of each die as firmware sets it (24 R364, log 14). -/
opaque supervisorVector : Nat → Word
/-- The entry PC of the steward hart of each die (24 R364, log 14). -/
opaque stewardEntry : Nat → Word
/-- The core and the slot of the steward hart of each die, and its VPART (24 R364, log 14). -/
opaque stewardSeat : Nat → Nat × Nat × Word
/-- The page-table base that firmware gives the stewards (24 R364, log 14). -/
opaque stewardPtbase : Nat → Word
/-- The node number that the host assigns to each link at bring-up (23 R352, log 14). -/
opaque linkNode : Nat → Nat
/-- Whether each link trained at bring-up (24 R364, log 14). -/
opaque linkTrained : Nat → Bool
/-- The host physical base of the HDM range that the host commits (24 R356, log 14). -/
opaque hdmBase : Nat
/-- The host physical base that the host gives BAR 2 (24 R355, log 14). -/
opaque barBase : Nat

/-- The certificate chain of the device identity key (24 R361, log 18). -/
opaque certificateChain : List Byte
/-- The Ed25519 signature of a challenge under the device identity key (24 R361, log 18). -/
opaque challengeSignature : Word → BitVec 512

end Sys2Proof.Config
end

