-- ==== Sys2Proof/Machine/State.lean ====
section
/-! DEFINITION. The state of the whole device as plain data: the hart in focus and every other placed hart, the storages,
the tables of the engines and schedulers, the control space, and what moves next. -/
namespace Sys2Proof.Machine

/-- The model's one fault. -/
inductive Fault where
  /-- Raised by `step` when the firmware image was refused at power-good (24 R360): nothing ever runs. Safe. -/
  | deviceDead
  deriving DecidableEq, Repr

/-- Why the model gives an instruction no meaning. -/
inductive Refusal where
  /-- Raised by an arm of `exec` whose instruction has no meaning yet, under its mnemonic. Safe. -/
  | notModelled (mnemonic : String)
  deriving DecidableEq, Repr

/-- Privilege levels (08 R149). -/
inductive Level where
  | user | supervisor | firmware
  deriving DecidableEq, Repr

/-- Storage of bytes, sparse: a byte that is not listed reads as zero (log 1). The cells are in canonical form. -/
structure Memory where
  cells : List Host.Cell
  deriving DecidableEq, Repr

/-- A lamp pending for a hart (08 R156): source (false stream, true route), ID. -/
structure Lamp where
  route : Bool
  id : Word
  deriving DecidableEq, Repr

/-- The monitor of MARM (06 R119): the physical line, whether another observer wrote it, whether it was lost. -/
structure Monitor where
  line : Nat
  hit : Bool
  lost : Bool
  deriving DecidableEq, Repr

/-- Accesses of a hart within a strip (05 R81), and which of them are ordered among themselves: not `vector` ones; `scalar`
ones are (05 R80), the probes of VBIN (`table`, 09 R194), and the elements of one storing instruction (`element`, 05 R94).
A store of kind `both` is ordered with scalar accesses and probes, one of kind `done` with every later access. -/
inductive StripKind where
  | vector | element | scalar | table | both | done
  deriving DecidableEq, Repr

/-- One store of the open strip (05 R81): its physical address, the bytes it replaced in the coherence order, the kind of the
accesses that it is ordered with, whether it is the write of an atomic (05 R93), the words it touches that carried a mark before
it, whether its own data carry one (08 R165), and whether a release has ordered it before what follows an acquire (05 R88). -/
structure StripStore where
  pa : Nat
  old : List Byte
  kind : StripKind
  rmw : Bool := false
  marks : List Nat := []
  bad : Bool := false
  released : Bool := false
  deriving DecidableEq, Repr

/-- A line of a read buffer (05 R83): its number, its bytes, and those of its words that carry a mark (08 R165). -/
structure BufLine where
  line : Nat
  bytes : List Byte
  marks : List Nat := []
  deriving DecidableEq, Repr

/-- One element of a queued load (09 R181): its address, or none when it was inactive, the value it had at issue
(none after a debug halt, 08 R168), whether that value was poisoned, and whether it lies in the host address space. -/
structure QElem where
  va : Option Nat
  bits : Option Nat
  bad : Bool
  host : Bool
  deriving DecidableEq, Repr

/-- A queued load bound to q0 to q3 (09 R181): element width in bits, VL at issue, its elements from 0. -/
structure QBind where
  width : Nat
  unit : Bool          -- mode 00 under a sliced or 4-bit SEW: bit positions of one string
  base : Nat
  elems : List QElem
  settled : Bool := false  -- a release has ordered its accesses before later ones (05 R87)
  deriving DecidableEq, Repr

/-- A step of a lane block that has not been performed for all its elements (10 R222): its offset, its instruction's length in
parcels and bits, and the elements that remain. -/
structure LaneStep where
  offset : Nat
  len : Nat
  bits : Word
  left : List Nat
  deriving DecidableEq, Repr

/-- A lane block in progress (10 R219): the participating elements, the offset of LEND, and the step that is under way. -/
structure LaneBlock where
  parts : List Nat
  stop : Nat
  step : Option LaneStep := none
  deriving DecidableEq, Repr

/-- The fields of a launch record (01 R14). -/
structure LaunchRec where
  entry : Word
  args : Word
  done : Word
  value : Word
  countVa : Word
  preds : List (BitVec 32)
  crew : Nat
  shape : Nat
  prio : Nat
  regs : Nat
  banks : Nat
  flags : BitVec 8
  reserved : Nat
  deriving DecidableEq, Repr

/-- What an instruction that waits has done and does not do again when it is looked at anew (log 38): a strip request sent to
its home, and the answer (07 R133); a BAR or CONVOY that has arrived as the n-th of its member (07 R136, R144); an SSTART that
has set RUNNING, with the status it found, the name of its stream and whether that is a faulted one which it resumes (19 R305); a
ROUTE that is making the reservations of a tile, with its handle (21 R328); a VPUSH or a
tile transfer that holds the Pillar entry of that name (09 R196, 13 R253); a LAUNCH of the real-time class that has read its record, with the place of its
count word (07 R126). -/
inductive Doing where
  | strip (id : Nat) (answer : Option Word)
  | bar (n : Nat)
  | convoy (n : Nat)
  | sstart (old : Nat) (id : Nat) (resumes : Bool)
  | route (tile : Nat) (handle : Word)
  | entry (id : Nat)
  | launch (r : LaunchRec) (countPa : Option (Nat × Bool))
  deriving DecidableEq, Repr

/-- A waiting instruction that has begun: the code it belongs to (0 user, 1 lamp handler, 2 trap handler), its address. -/
structure Begun where
  set : Nat
  pc : Word
  doing : Doing
  deriving DecidableEq, Repr

/-- A WAITI that has registered at its stop (07 R135). -/
structure WaitReg where
  home : Nat
  entry : Nat
  k : Nat
  woken : Bool
  deriving DecidableEq, Repr

/-- One hart: everything the spec gives it. -/
structure Hart where
  live : Bool := false
  key : HKey := ⟨0xFFFFFFFF, 0⟩
  stop : Nat := 0
  slot : Nat := 0
  prio : Nat := 0
  gang : Bool := false
  s : Vector Word 32 := Vector.replicate 32 0
  b : Vector Word 8 := Vector.replicate 8 0
  alt : Vector Word 8 := Vector.replicate 8 0
  stan : Vector Word 128 := Vector.replicate 128 0
  altStan : Vector Word 32 := Vector.replicate 32 0
  pc : Word := 0
  level : Level := .user
  fcsr : Word := 0
  seed : Word := 0
  sbase : Word := 0
  sstep : Word := 0
  tann : Word := 1
  ordscope : Word := 2
  ictl : Word := 0x1A
  vl : Word := 0
  vtype : Word := 0x8000000000000000
  vstart : Word := 0
  vshape : Word := 0
  vpart : Word := 0
  vw : Vector Word 28 := Vector.replicate 28 0
  mw : Vector Word 8 := Vector.replicate 8 0
  gw : Vector Word 16 := Vector.replicate 16 0
  iw : Vector Word 16 := Vector.replicate 16 0
  hctl : Word := 0
  hstat : Word := 0
  lamppc : Word := 0
  lampcause : Word := 0
  rtimeout : Word := 0
  trappc : Word := 0
  trapcause : Word := 0
  trapval : Word := 0
  asid : Word := 0
  ptbase : Word := 0
  lamps : List Lamp := []
  faults : List Word := []        -- TRAPVALs of cause 18, in the order the faults occurred (19 R314)
  timeouts : List Word := []      -- TRAPVALs of cause 20 (21 R335)
  gangLost : List Nat := []       -- TRAPVALs of cause 17, in the order the cores were lost (08 R166)
  evict : Option Word := none     -- TRAPVAL of cause 19 under 07 R140
  asked : Option (BitVec 32) := none  -- the launch it was asked to make room for, from that trap on (07 R140)
  stepDue : Bool := false         -- cause 16 due (08 R154)
  haltReq : Bool := false
  halted : Bool := false
  frozen : Bool := false
  saved : Bool := false           -- a pre-empting hart that has surrendered its slot (07 R140)
  retiring : Bool := false
  blocked : Bool := false         -- waits and consumes no issue slots (07 R143) until something else happens
  idle : Bool := false            -- waits in IDLE (06 R116)
  rbuf : List BufLine := []
  strip : List StripStore := []   -- in coherence order, latest first
  ifence : Nat := 0               -- entries of its core's instruction cache that it no longer sees (06 R118)
  queues : Vector (Option QBind) 12 := Vector.replicate 12 none  -- q + 4 * set: user, lamp, trap
  full : BitVec 28 := BitVec.allOnes 28
  pushed : BitVec 28 := 0
  monitor : Option Monitor := none
  lane : Option LaneBlock := none
  bar : Nat := 0                  -- BARs and CONVOYs that it has arrived at (07 R136, R144)
  convoy : Nat := 0
  waitReg : Option WaitReg := none
  begun : List Begun := []        -- waiting instructions that have begun, one of each code
  barrier : Option Nat := none    -- the stream of the latest BARRIER it started (19 R309)
  claimAt : Option Nat := none    -- a waiting MCLAIM and its order of arrival (13 R239)
  pillarAt : Option Nat := none   -- an instruction that waits for Pillar entries and its order of arrival (02 R23)
  deriving DecidableEq, Repr

/-- States of a launch-table entry (07 R124). -/
inductive LaunchState where
  | free | waiting | ready | running | draining
  deriving DecidableEq, Repr

/-- An entry of a launch table that has been used (07 R123, R124, R129). -/
structure Launch where
  die : Nat
  stop : Nat               -- the core of the launching hart
  idx : Nat
  gen : Nat
  st : LaunchState
  record : LaunchRec
  countPa : Option (Nat × Bool)  -- the count word's translation, for LAUNCHI: its location, whether global (07 R127)
  asid : Word
  ptbase : Word
  seq : Nat                -- order of acceptance
  crew : Nat
  placed : Nat
  gone : Nat               -- members retired or lost
  lost : Bool
  status : Nat
  barsDone : Nat
  convoysDone : Nat
  deriving DecidableEq, Repr

/-- An entry of a core's farm table (07 R132). -/
structure Farm where
  stop : Nat
  entry : Nat
  owner : HKey
  recVa : Nat
  asid : Word              -- the address space of its state bytes
  ptbase : Word
  counter : Nat
  trip : Nat
  len : Nat
  front : Nat              -- the posting frontier F
  window : BitVec 64
  deriving DecidableEq, Repr

/-- What travels round the Shaft ring (07 R133, R135): the post of an iteration, the arrival of a member at its n-th BAR, a
strip request of a hart with its name, and the answer to it. -/
inductive RingKind where
  | post (home entry k : Nat)
  | arrival (lid : BitVec 32) (n : Nat)
  | strip (k : HKey) (id home entry : Nat)
  | answer (k : HKey) (id : Nat) (v : Word)
  deriving DecidableEq, Repr

/-- A message on the ring: the next stop it passes and how many stops remain. -/
structure RingMsg where
  kind : RingKind
  next : Nat
  left : Nat
  deriving DecidableEq, Repr

/-- The stream engine's own copy of a block (19 R300). -/
structure StreamBlock where
  kind : Nat
  z : Nat
  flags : Nat
  length : Nat
  srcBase : Nat
  srcStride : Int
  srcInner : Nat
  srcOuter : Int
  dstBase : Nat
  dstStride : Int
  dstInner : Nat
  dstOuter : Int
  bitmap : Nat
  window : Nat
  bound : Nat
  cond : Nat
  complete : Nat
  value : Nat
  deriving DecidableEq, Repr

/-- A stream in a slot (19 R299, R304, R309). -/
structure Stream where
  id : Nat
  stop : Nat
  owner : HKey
  block : Nat              -- virtual address of the control block
  place : Nat              -- its location
  level : Level
  asid : Word
  ptbase : Word
  vpart : Word
  pre : Bool               -- issued by a pre-empting hart (05 R75)
  blk : StreamBlock
  ptr : Nat
  count : Nat
  preds : List Nat
  started : Bool           -- started under R310, condition word read
  faulted : Bool
  error : Option (Nat × Nat)  -- code and address of a fault met and not yet recorded
  ending : Option Nat      -- the final status whose completion word met a fault (19 R315)
  skipped : Bool           -- a cascade of SKIPPED met it in FAULT (19 R310)
  lag : Nat                -- bytes of data moved since the progress pointer was last written (19 R313)
  wrote : List StripStore  -- its element stores, newest first, which its own loads may miss (19 R317)
  lastA : Option Nat       -- INTERSECT: the value before the next one of A and of B, once it has read it (19 R308)
  lastB : Option Nat
  deriving DecidableEq, Repr

/-- What a stream that has ended has still to do: write its completion word, and raise its lamp (19 R315). -/
structure Final where
  id : Nat
  stop : Nat
  owner : HKey
  loc : Nat
  value : Nat
  lamp : Option Lamp
  deriving DecidableEq, Repr

/-- What a Pillar entry covers (05 R84). -/
inductive PillarSpace where
  | virt | regs
  deriving DecidableEq, Repr

/-- A Pillar entry (05 R84): the bytes from `lo` up to but not including `hi`. -/
structure Pillar where
  id : Nat                 -- the stream, route tile, tile transfer or push that holds it
  stop : Nat
  owner : HKey
  write : Bool
  space : PillarSpace
  lo : Nat
  hi : Nat
  holes : List (Nat × Nat) := []   -- bytes inside that it leaves out (19 R312)
  running : Bool := false  -- the entry of a tile transfer whose instruction still performs rows (13 R253)
  deriving DecidableEq, Repr

/-- The fields of a route record (21 R326). -/
structure RouteRec where
  src : Nat
  srcPitch : Int
  outPitch : Int
  idsVa : Nat
  weightsVa : Nat
  out : Nat
  ret : Nat
  rows : Nat
  elems : Nat
  timeout : Nat
  policy : Nat
  fallback : Nat
  flags : Nat
  reserved : Nat
  deriving DecidableEq, Repr

/-- What has become of a slot of a route tile (21 R329, R333, R335). -/
inductive SlotState where
  | none | pending | dropped | reserved (target q : Nat) | returned | late
  deriving DecidableEq, Repr

/-- Status of a route tile (21 R336). -/
inductive TileStatus where
  | running | done | partly | fault
  deriving DecidableEq, Repr

/-- A reassembly entry in use (21 R328). -/
structure RouteTile where
  id : Nat
  stop : Nat
  entry : Nat
  gen : Nat
  owner : HKey
  level : Level
  asid : Word
  ptbase : Word
  vpart : Word
  pre : Bool
  record : RouteRec
  timer : Nat              -- cycles of its timer, 0 for none (21 R335)
  left : Nat               -- cycles left of it when it was last read (21 R337)
  kept : List (Nat × Nat × Bool)  -- virtual pages, their frames, whether global: the translations it keeps (21 R328)
  expired : Bool
  ids : List Nat
  weights : List Nat
  slots : List SlotState
  status : TileStatus
  dropbits : Nat
  firstUnwritten : Nat
  deriving DecidableEq, Repr

/-- A row reserved in an inbox (21 R329 to R331). -/
structure InboxRow where
  q : Nat
  tileStop : Nat
  tileEntry : Nat
  tileGen : Nat
  row : Nat
  slot : Nat
  elems : Nat
  delivered : Bool
  received : Bool
  deriving DecidableEq, Repr

/-- A binding in a die's target table (21 R324); `rows` in reservation order. `refused` are the other launches whose members have
asked for its id meanwhile (22 R341). -/
structure Target where
  die : Nat
  id : Nat
  owner : HKey
  stop : Nat
  base : Nat               -- physical address of the inbox
  cap : Nat
  rowBytes : Nat
  rows : List InboxRow
  refused : List (BitVec 32) := []
  deriving DecidableEq, Repr

/-- A push accepted and not yet delivered (09 R196). `dest` is none for a package over the links. -/
structure Push where
  id : Nat
  stop : Nat
  owner : HKey
  lanes : Nat              -- first lane and lane count of the pusher
  laneCount : Nat
  srcs : List (Nat × Nat)  -- per-lane base byte and length in bytes of each source register
  node : Nat
  dest : Option HKey
  first : Nat
  count : Nat
  deriving DecidableEq, Repr

/-- A VSRED contribution held until its convoy closes (07 R145). -/
structure Contribution where
  lid : BitVec 32
  member : Nat
  seq : Nat
  key : Nat
  pa : Nat
  op : Nat
  bytes : Nat
  value : Nat
  deriving DecidableEq, Repr

/-- A translation that a TLB of a die holds (08 R162); `asid` is none for a global entry. -/
structure TlbEntry where
  die : Nat
  asid : Option (BitVec 16)
  page : Nat               -- virtual 64 KiB page number
  perm : BitVec 4          -- the leaf's RD, W, X, U
  frame : Nat              -- physical address of that page
  deriving DecidableEq, Repr

/-- The scheduler block and NETTHR of a die (07 R138, 08 R150, 23 R346). -/
structure Die where
  pmin : Word := 255
  svec : Word := 0
  netthr : Word := 0x100
  deriving DecidableEq, Repr

/-- The matrix state of a core apart from its tiles (13 R237, R238). -/
structure Matrix where
  stop : Nat
  holder : Option HKey
  mrows : Word
  mcols : Word
  deriving DecidableEq, Repr

/-- The debug block and the error counters of a core (08 R167, 24 R354). -/
structure CoreBlock where
  stop : Nat
  dbgctl : Word
  dbgsel : Word
  corrected : Word
  uncorrectable : Word
  deriving DecidableEq, Repr

/-- A link block (24 R354). -/
structure Link where
  up : Bool := false
  node : Nat := 0
  loss : Word := 0
  deriving DecidableEq, Repr

/-- The Assay tree's state (23 R349 to R351). -/
structure Assay where
  epoch : BitVec 32 := 0
  en : Bool := true
  allDirty : Bool := true
  dirty : List Nat := []
  final : Memory := ⟨[]⟩            -- device memory page by page as last hashed
  busy : Option Memory := none      -- the same for the close that is being hashed
  held : Bool := false              -- a close requested while BUSY
  nodesel : Word := 0
  hashed : Bool := false            -- some close has become final
  deriving DecidableEq, Repr

/-- A message of the SPDM responder (24 R361). -/
inductive Spdm where
  | version (major minor : Nat)
  | capabilities
  | algorithms (asym hash : String)
  | digests (d : BitVec 512)
  | certificate (chain : List Byte)
  | challengeAuth (signature : BitVec 512)
  | measurements (m : BitVec 512)
  deriving DecidableEq, Repr

/-- The device events of spec/opcode_table.json, one for each event constructor of `Instr`. -/
inductive Event where
  | crWrite (cr : BitVec 12) (v : Word)
  | lampcauseOvfClear
  | monitorWake (k : HKey) (lost : Bool)
  | vpushDelivery (id : Nat)
  | matrixStateGrant (stop : Nat)
  | tileTransferComplete (id : Nat)
  | launchReady (lid : BitVec 32)
  | placement (lid : BitVec 32)
  | preEmption (lid : BitVec 32)
  | slotEviction (stop : Nat) (lid : BitVec 32)
  | savedHartReplacement (k : HKey)
  | victimResume (stop : Nat)
  | hartRetirement (k : HKey)
  | launchCompletion (lid : BitVec 32)
  | stripRequest (k : HKey)
  | postMessage (i : Nat)
  | barrierRelease (lid : BitVec 32)
  | convoyRelease (lid : BitVec 32)
  | lampDelivery (k : HKey)
  | engineFault (k : HKey)
  | debugSingleStep (k : HKey)
  | coreError (stop : Nat)
  | gangLost (k : HKey)
  | dbgHaltreq (stop : Nat) (v : Word)
  | debugHalt (k : HKey)
  | dbgGoreq (stop : Nat) (v : Word)
  | dbgdata (stop : Nat) (write : Option Word)
  | streamStart (id : Nat)
  | streamElement (id : Nat)
  | streamCompletion (id : Nat)
  | streamFault (id : Nat)
  | routeReservation (k : HKey)
  | routeRowDelivery (stop entry : Nat) (row slot : Nat)
  | reassembly (stop entry : Nat)
  | routeTimeout (stop entry : Nat)
  | routeTimeoutTrap (k : HKey)
  | assayctlClose
  | assayRehashDone
  | patrolScrub (pa : Nat) (err : Option Bool)
  | meshMonitorWindow (die lmax lmean : Nat)
  | linkDown (link : Nat)
  | linkUp (link : Nat)
  | counterClear (pa : Nat)
  | hostMemAccess (pa n : Nat) (write : Option Word)
  | getVersion
  | getCapabilities
  | negotiateAlgorithms
  | getDigests
  | getCertificate
  | challenge (nonce : Word)
  | getMeasurements (index : Nat)
  | securityVersionWrite (v : Word)
  | powerModeWrite (v : Word)
  | powerGrant
  | thermalHold
  | thermalRelease
  | powerGood
  | illegalInstruction (bits : Word)
  | softError (place : ErrPlace) (correctable : Bool)
  | coreReset (stop : Nat)
  | nodeRemoval (node : Nat)
  deriving DecidableEq, Repr

/-- A push that arrives over the links (23 R352): the package it comes from, its destination descriptor, and its stream, each
byte with whether its word carries a mark. -/
structure InPush where
  node : Nat
  desc : Word
  data : List (Byte × Bool)
  deriving DecidableEq, Repr

/-- What an event from outside brings along beside its operands: a push of another package, the package whose access it is
(23 R352; with none the access is the host's), or power-good itself (24 R364; with none powerGood is the step that is due). -/
inductive Arrival where
  | push (p : InPush)
  | access (node : Nat)
  | power
  deriving DecidableEq, Repr

/-- An input: an event, and what it brings along. -/
structure Input where
  event : Event
  brings : Option Arrival := none
  deriving DecidableEq, Repr

/-- The steps of bring-up after the image check, in order (24 R364). -/
inductive BringUp where
  | links | memory | stewards
  deriving DecidableEq, Repr

/-- What moves at the next step (log 4): the hart in focus, an event, or nothing. -/
inductive Turn where
  | hart
  | event (e : Event)
  | nothing
  deriving DecidableEq, Repr

/-- The state of the device. -/
structure State where
  h : Hart := {}                    -- the hart in focus
  others : List Hart := []          -- every other placed, frozen or saved hart
  mem : Memory := ⟨[]⟩              -- physical memory: device, host, scratchpads (05 R76); scalar data memories at `sdmLoc`
  regs : Memory := ⟨[]⟩             -- vector register memories: (stop * 64 + lane) * 16384 + per-lane offset
  tiles : Memory := ⟨[]⟩            -- tile accumulators: 4 * (((stop * 8 + t) * 64 + i) * 64 + j)
  poison : List Nat := []           -- poisoned words of `mem` by word index, ascending
  regPoison : List Nat := []        -- poisoned words of `regs`, ascending
  matrices : List Matrix := []
  launches : List Launch := []
  farms : List Farm := []
  ring : List RingMsg := []
  streams : List Stream := []
  orphans : List Stream := []       -- faulted streams that have lost their slot with their hart or core (19 R299, R309)
  finals : List Final := []
  pillars : List Pillar := []
  routeTiles : List RouteTile := []
  routeGens : List (Nat × Nat × Nat) := []   -- stop, entry, generation of the next use
  targets : List Target := []
  pushes : List Push := []
  contribs : List Contribution := []
  tlb : List TlbEntry := []
  icaches : List (Nat × List (Nat × Parcel)) := []   -- stop; locations and what was fetched there, latest first
  dies : Vector Die 4 := Vector.replicate 4 {}
  cores : List CoreBlock := []
  hbm : Vector (Word × Word) 8 := Vector.replicate 8 (0, 0)
  links : Vector Link 12 := Vector.replicate 12 {}
  assay : Assay := {}
  powerMode : Nat := 1
  powerPending : Bool := false
  powerAct : Nat := 1
  therm : Bool := false
  powerFloor : Nat := 2400
  powerOver : Bool := false
  powerWatts : BitVec 16 := 0
  devstat : Word := 0
  bringUp : Option BringUp := none  -- the step of bring-up that is due (24 R364)
  hdm : Option Nat := none          -- host physical base of the committed range of the HDM decoder (24 R356)
  secver : BitVec 6 := Config.fusedMinimum
  failed : List Nat := []
  spdm : Option Spdm := none
  hostData : Word := 0              -- what the last host read returned
  tick : Nat := 0                   -- index of the next free value
  nextId : Nat := 0                 -- name of the next stream, push, tile transfer or acceptance
  part : Option Nat := none         -- the instruction in execution stops after so many elements, rows or bytes and one more (08 R163)
  tanPrefix : Option Nat := none    -- override of the TAN prefix in execution
  inputs : List Input := []         -- what the outside does next
  outside : Option Arrival := none  -- what the event in execution brings from outside
  turn : Turn := .event .powerGood
  deriving DecidableEq, Repr

/-- The device right after reset (24 R364): bring-up is due, no hart is placed. -/
def State.reset : State := {}

end Sys2Proof.Machine
end

