-- ==== Sys2Proof/Machine/Memory.lean ====
section
/-! DEFINITION. Sparse byte storage in canonical form, little-endian numbers (00 R3), and the places that the physical map
and the core-local window reach (05 R74, R76). -/
namespace Sys2Proof.Machine

/-- The byte at `a` in a sorted list; a byte that is not listed is zero (log 1). -/
def cellsRead : List Host.Cell → Nat → Byte
  | [], _ => 0
  | c :: cs, a => if c.1 = a then c.2 else if a < c.1 then 0 else cellsRead cs a

/-- Writes a byte and keeps the list sorted and free of zero entries. -/
def cellsWrite : List Host.Cell → Nat → Byte → List Host.Cell
  | [], a, v => if v = 0 then [] else [(a, v)]
  | c :: cs, a, v =>
    if c.1 = a then (if v = 0 then cs else (a, v) :: cs)
    else if a < c.1 then (if v = 0 then c :: cs else (a, v) :: c :: cs)
    else c :: cellsWrite cs a v

/-- Addresses strictly rising from above `lo`, no zero entry. -/
def cellsWf : Option Nat → List Host.Cell → Bool
  | _, [] => true
  | lo, c :: cs => (match lo with | none => true | some l => decide (l < c.1)) && decide (c.2 ≠ 0) && cellsWf (some c.1) cs

/-- The canonical form. -/
def Memory.wf (m : Memory) : Bool := cellsWf none m.cells

def Memory.read (m : Memory) (a : Nat) : Byte := cellsRead m.cells a
def Memory.write (m : Memory) (a : Nat) (v : Byte) : Memory := ⟨cellsWrite m.cells a v⟩

/-- `n` bytes from `a` upward. -/
def Memory.readBytes (m : Memory) (a : Nat) : Nat → List Byte
  | 0 => []
  | n + 1 => m.read a :: m.readBytes (a + 1) n

def Memory.writeBytes (m : Memory) (a : Nat) : List Byte → Memory
  | [] => m
  | b :: bs => (m.write a b).writeBytes (a + 1) bs

/-- The little-endian number of some bytes (00 R3). -/
def leNat : List Byte → Nat
  | [] => 0
  | b :: bs => b.toNat + 256 * leNat bs

/-- The `n` low bytes of a number, lowest first (00 R3). -/
def leBytes : Nat → Nat → List Byte
  | 0, _ => []
  | n + 1, v => BitVec.ofNat 8 v :: leBytes n (v / 256)

/-- The number held in `n` bytes at `a`. -/
def Memory.readNat (m : Memory) (a n : Nat) : Nat := leNat (m.readBytes a n)
/-- Writes the low `n` bytes of `v` at `a`. -/
def Memory.writeNat (m : Memory) (a n v : Nat) : Memory := m.writeBytes a (leBytes n v)

/-- Sets `n` bytes at `a` to zero. -/
def Memory.zero (m : Memory) (a n : Nat) : Memory := ⟨m.cells.filter fun c => c.1 < a || a + n ≤ c.1⟩

/-- Sorted insertion into a list of word indices. -/
def insertSorted : List Nat → Nat → List Nat
  | [], a => [a]
  | c :: cs, a => if c = a then c :: cs else if a < c then a :: c :: cs else c :: insertSorted cs a

/-- The `n`-th number that an ascending list leaves out. -/
def nthFree (used : List Nat) (n : Nat) : Nat := used.foldl (fun n u => if u ≤ n then n + 1 else n) n

/-- First location of the scalar data memory of the core at a stop; these lie above every physical address (05 R74). -/
def sdmLoc (stop : Nat) : Nat := 0x1000000000000000 + stop * 0x10000
/-- First location of the scratchpad of the core at a stop (05 R76). -/
def scratchLoc (stop : Nat) : Nat := 0xF000000000000 + stop * 0x400000

/-- What a location of the physical map is (05 R76). -/
inductive Region where
  | device | host | scratch | control | link | sdm | unbacked
  deriving DecidableEq, Repr

/-- The node whose scratchpads a location of the link window names (23 R352, 24 R354). -/
def linkNodeOf (loc : Nat) : Nat := (loc - 0xF010000000000) / 0x100000000

/-- The region of a location (05 R74, R76; the link window of 24 R354). -/
def regionOf (loc : Nat) : Region :=
  if loc < 0x8000000000 then .device
  else if loc < 0x1000000000000 then .unbacked
  else if loc < 0xF000000000000 then .host
  else if loc < 0xF000028000000 then
    if (loc - 0xF000000000000) / 0x400000 < 160 && (loc % 0x400000 < 0x300000) then .scratch else .unbacked
  else if 0xF010100000000 ≤ loc ∧ loc < 0xF020000000000 ∧ loc % 0x100000000 < 0x28000000 ∧ loc % 0x400000 < 0x300000 then .link
  else if loc < 0x10000000000000 then .control
  else if 0x1000000000000000 ≤ loc && loc < 0x1000000000000000 + 160 * 0x10000 then .sdm
  else .unbacked

/-- The place of a byte of register memory (02 R19). After a supervisor's write of VPART a window may reach past a lane's 16,384
bytes (09 R169), and the spec does not say what lies there: the offset wraps within the lane (DESIGN CHOICE, log 70). -/
def regLoc (stop lane off : Nat) : Nat := (stop * 64 + lane) * 16384 + off % 16384

/-- The die that homes a device-memory address (23 R342): the exclusive or of the 2-bit fields of a[38:16]. -/
def homeDie (a : Nat) : Nat :=
  ((List.range 12).map fun k => a % 2 ^ 39 / 2 ^ (16 + 2 * k) % 4).foldl (fun x y => x ^^^ y) 0

end Sys2Proof.Machine
end

