-- ==== Sys2Proof/Machine/Ops.lean ====
section
/-! DEFINITION. The shared operations: how a meaning ends, scalar registers, free choices, strips, taking a trap,
returning from one, lamps and debug halt. -/
namespace Sys2Proof.Machine

/-! ### How a meaning runs -/

/-- Why a meaning stops before its end: it takes a trap (08 R150), or it waits and is executed again (07 R143). -/
inductive Stop where
  | trap (cause : Nat) (val : Word)
  | wait
  deriving DecidableEq, Repr

/-- A meaning: it changes the state and may stop; what it has done before it stops stays done (08 R163). -/
abbrev M := ExceptT Stop (StateM State)

def trap {α : Type} (cause : Nat) (val : Word) : M α := throw (.trap cause val)
def stall {α : Type} : M α := throw .wait
/-- The hart in focus. -/
def hart : M Hart := return (← get).h

def State.onHart (s : State) (f : Hart → Hart) : State := { s with h := f s.h }
def modHart (f : Hart → Hart) : M Unit := modify fun s => s.onHart f

/-- Runs `f` on the numbers from `a` to `a + n - 1` in order. -/
def upFrom (f : Nat → M Unit) (a : Nat) : Nat → M Unit
  | 0 => pure ()
  | n + 1 => do f a; upFrom f (a + 1) n

/-- One of `n` outcomes that the spec leaves open (log 3); no choice is consulted when there is one outcome. -/
def State.choose (s : State) (n : Nat) : Nat × State :=
  if n ≤ 1 then (0, s) else (Config.free s.tick % n, { s with tick := s.tick + 1 })
def choose (n : Nat) : M Nat := modifyGet fun s => s.choose n
/-- A value that the spec leaves open (log 3). -/
def State.freeWord (s : State) : Word × State := (BitVec.ofNat 64 (Config.free s.tick), { s with tick := s.tick + 1 })
def freeWord : M Word := modifyGet State.freeWord

/-- A fresh name for a stream, push, tile transfer or acceptance. -/
def freshId : M Nat := modifyGet fun s => (s.nextId, { s with nextId := s.nextId + 1 })

/-! ### Registers -/

/-- Reads a scalar register; s0 reads as zero (06 R96). -/
def Hart.get (h : Hart) (r : SReg) : Word := if r = 0 then 0 else h.s[r.toNat]'r.isLt
/-- Writes a scalar register; s0 discards (06 R96). -/
def Hart.set (h : Hart) (r : SReg) (v : Word) : Hart := if r = 0 then h else { h with s := h.s.set r.toNat v r.isLt }

/-- The place of tangent `j` (from 0) of a scalar register in the scalar tangent file (11 R231). -/
def stanIdx (j : Nat) (r : SReg) : Nat := 32 * j + r.toNat

/-- Sets tangents 1 to `k` of a scalar register; the entries of s0 ignore writes (11 R231). -/
def Hart.setTans (h : Hart) (r : SReg) : List Word → Hart
  | vs => if r = 0 then h else
    { h with stan := (vs.foldl (fun p v => (p.1 + 1, p.2.set! (stanIdx p.1 r) v)) (0, h.stan)).2 }

/-- TANN.N (11 R225). -/
def Hart.tanCount (h : Hart) : Nat := h.tann.toNat % 8

/-- Writes a scalar destination; under HCTL.TAN its tangents become zero (11 R231). -/
def Hart.put (h : Hart) (r : SReg) (v : Word) : Hart :=
  let h' := h.set r v
  if h.hctl.getLsbD 1 then h'.setTans r (List.replicate h.tanCount 0) else h'

def rd (r : SReg) : M Word := return (← hart).get r
def wr (r : SReg) (v : Word) : M Unit := modHart fun h => h.put r v

def Level.code : Level → Nat
  | .user => 0
  | .supervisor => 1
  | .firmware => 2

/-- HCTL.STEP, LE, TAN and DET (08 R154). -/
def Hart.step (h : Hart) : Bool := h.hctl.getLsbD 3
def Hart.lampEnable (h : Hart) : Bool := h.hctl.getLsbD 2
def Hart.tan (h : Hart) : Bool := h.hctl.getLsbD 1
def Hart.det (h : Hart) : Bool := h.hctl.getLsbD 0
/-- LAMPCAUSE.IN: the shadow bank is in use (08 R156, R157). -/
def Hart.inLamp (h : Hart) : Bool := h.lampcause.getLsbD 63
/-- A pre-empting hart, in slot 8 (07 R139). -/
def Hart.preempting (h : Hart) : Bool := h.slot == 8

/-- HARTID (07 R122). -/
def Hart.hartid (h : Hart) : Word := BitVec.ofNat 64 (h.slot * 65536) + zx h.key.member
/-- DIE (02 R17, R18). -/
def Hart.die (h : Hart) : Nat := h.stop / 40

/-- Exchanges the two banks of s12 to s19, with their scalar tangents (08 R156, 11 R231). -/
def Hart.swapBank (h : Hart) : Hart :=
  let s := h.s
  let a := h.alt
  let swapTan (k : Nat) (p : Vector Word 128 × Vector Word 32) (i : Nat) : Vector Word 128 × Vector Word 32 :=
    (p.1.set! (32 * k + 12 + i) p.2[8 * k + i]!, p.2.set! (8 * k + i) p.1[32 * k + 12 + i]!)
  let t := [0, 1, 2, 3].foldl (fun p k => [0, 1, 2, 3, 4, 5, 6, 7].foldl (swapTan k) p) (h.stan, h.altStan)
  { h with
    s := ((((((((s.set 12 a[0]).set 13 a[1]).set 14 a[2]).set 15 a[3]).set 16 a[4]).set 17 a[5]).set 18 a[6]).set 19 a[7])
    alt := #v[s[12], s[13], s[14], s[15], s[16], s[17], s[18], s[19]]
    stan := t.1
    altStan := t.2 }

/-! ### Strips and ordering -/

/-- Closes the strip (05 R81) and empties the read buffer (R83). -/
def Hart.closeStrip (h : Hart) : Hart := { h with strip := [], rbuf := [] }
/-- An acquire (05 R87) empties the read buffer. What the hart itself stored before a release has performed before what
follows (05 R88): the model takes each acquire to follow each earlier release of the hart (DEDUCED, log 78). -/
def Hart.acquire (h : Hart) : Hart :=
  { h with rbuf := [], strip := h.strip.map fun e => if e.released then { e with kind := .done } else e }

/-- The queue bindings in use (09 R182): user code, a lamp handler, a trap handler. -/
def Hart.queueSet (h : Hart) : Nat := if h.level ≠ .user then 2 else if h.inLamp then 1 else 0
/-- Unbinds every queue of a set. -/
def Hart.unbind (h : Hart) (set : Nat) : Hart :=
  { h with queues := (((h.queues.set! (4 * set) none).set! (4 * set + 1) none).set! (4 * set + 2) none).set! (4 * set + 3) none }
/-- An interruption discards what queued loads have fetched, except from the host address space (09 R182, 08 R168). -/
def Hart.dropQueued (h : Hart) : Hart :=
  { h with queues := h.queues.map fun q => q.map fun b =>
      { b with elems := b.elems.map fun e => if e.host then e else { e with bits := none, bad := false } } }

/-- A release orders the accesses of the hart before what follows (05 R87, R128): what its queued loads have read is settled, and
the stores of its strip are released. -/
def Hart.settle (h : Hart) : Hart :=
  { h with
    queues := h.queues.map fun q => q.map fun b => { b with settled := true }
    strip := h.strip.map fun e => { e with released := true } }

/-- An instruction closes the strip and ends the queue bindings in use (05 R81, 09 R181). -/
def Hart.endStrip (h : Hart) : Hart := h.closeStrip.unbind h.queueSet
def closeStrip : M Unit := modHart Hart.endStrip

/-! ### Waiting instructions (log 38) -/

/-- What the waiting instruction at the pc has done already. -/
def Hart.doing (h : Hart) : Option Doing := (h.begun.find? fun b => b.set == h.queueSet && b.pc == h.pc).map (·.doing)
/-- What the code in execution had begun is over. -/
def Hart.endDoing (h : Hart) : Hart := { h with begun := h.begun.filter (·.set != h.queueSet) }
/-- The instruction at the pc has begun. -/
def Hart.begin (h : Hart) (d : Doing) : Hart := { h.endDoing with begun := ⟨h.queueSet, h.pc, d⟩ :: h.endDoing.begun }
def begin (d : Doing) : M Unit := modHart (·.begin d)
/-- What an interruption keeps: a VPUSH or a tile transfer gives its Pillar entry back and a LAUNCH its record, and each begins
anew. -/
def Doing.kept : Doing → Bool
  | .entry _ => false
  | .launch _ _ => false
  | _ => true

/-! ### Retiring -/

/-- The retirement of an instruction whose next pc is `pc`: single stepping makes cause 16 due (08 R154). -/
def Hart.goTo (h : Hart) (pc : Word) : Hart :=
  { h.endDoing with pc := pc, lane := none, pillarAt := none, stepDue := h.stepDue || (h.level == .user && h.step) }

/-- Length of a TAN prefix word before the instruction in execution (03 R38). -/
def State.prefixLen (s : State) : Word := if s.tanPrefix.isSome then 4 else 0
/-- The instruction retires and the next one in memory follows. -/
def State.retire (s : State) (len : Word) : State := s.onHart fun h => h.goTo (h.pc + len + s.prefixLen)
def retire (len : Word) : M Unit := modify fun s => s.retire len
/-- The instruction retires and control passes to `pc`. -/
def jump (pc : Word) : M Unit := modHart fun h => h.goTo pc

/-! ### Traps -/

/-- TRAPCAUSE as trap entry writes it (08 R150, R151). -/
def Hart.trapCause (h : Hart) (cause : Nat) : Word :=
  BitVec.ofNat 64 ((if h.inLamp then 0x8000 else 0) + (if h.tan then 0x4000 else 0) + (if h.step then 0x2000 else 0)
    + h.level.code * 512 + cause)

/-- HCTL with TAN and STEP replaced. -/
def setModes (hctl : Word) (tan step : Bool) : Word :=
  (hctl &&& ~~~0xA) ||| (if tan then 2 else 0) ||| (if step then 8 else 0)

/-- A hart leaves the waiting instruction or the lane block it stands at, which is dispatched anew when it is executed
again (10 R223). -/
def Hart.leaveWait (h : Hart) : Hart :=
  { h with idle := false, retiring := false, waitReg := none, claimAt := none, pillarAt := none, lane := none
           begun := h.begun.filter (·.doing.kept) }

/-- A debug halt (08 R168): the strip closes and queued loads are dropped, except those of the host address space. -/
def Hart.halt (h : Hart) : Hart :=
  { h.closeStrip.dropQueued.leaveWait with halted := true, haltReq := false }

/-- Entry to the trap handler at `svec` (08 R150). At firmware level the trap registers are written and the hart
halts (R149). -/
def Hart.trapEntry (h : Hart) (svec : Word) (cause : Nat) (val : Word) : Hart :=
  let t := { h.leaveWait with trappc := h.pc, trapcause := h.trapCause cause, trapval := val }
  if h.level = .firmware then t.halt
  else { (t.closeStrip.dropQueued.unbind 2) with hctl := setModes h.hctl false false, level := .supervisor, pc := svec }

/-- SVEC of the die of the hart in focus (08 R150). -/
def State.svec (s : State) : Word := match s.dies[s.h.die]? with | some d => d.svec | none => 0

/-- Taking a trap: the one operation through which every exception goes (08 R150). -/
def State.takeTrap (s : State) (cause : Nat) (val : Word) : State := s.onHart fun h => h.trapEntry s.svec cause val

/-- The return from a trap handler (08 R153); the legality of it is checked by RESUME. The handler of 07 R140 ends with the
return to user level. -/
def Hart.trapReturn (h : Hart) : Hart :=
  { h.endStrip.endDoing with
    level := if h.trapcause.extractLsb' 9 2 = 0 then .user else .supervisor
    hctl := setModes h.hctl (h.trapcause.getLsbD 14) (h.trapcause.getLsbD 13)
    pc := h.trappc
    asked := if h.trapcause.extractLsb' 9 2 = 0 then none else h.asked }

/-- The bits of the instruction in execution (03 R46), with its TAN prefix if it has one. -/
def State.trapBits (s : State) (c : Code) : Word :=
  match s.tanPrefix with
  | none => c.bits
  | some k => (c.bits <<< 32) ||| 0xFE01 ||| BitVec.ofNat 64 (k % 4 * 8)

/-- The illegal-instruction trap, cause 0 (03 R44 to R46). -/
def illegal {α : Type} (c : Code) : M α := do trap 0 ((← get).trapBits c)
/-- The privileged-instruction trap, cause 1 (08 R152). -/
def privileged {α : Type} (c : Code) : M α := do trap 1 ((← get).trapBits c)

/-- What a meaning comes to: a trap is taken, a wait leaves the pc in place. -/
def State.ending (s : State) : Except Stop Unit → State
  | .ok _ => s
  | .error (.trap c v) => s.takeTrap c v
  | .error .wait => s.onHart fun h => { h with blocked := true }

/-- Runs a meaning on the hart in focus: always a next state. -/
def run (m : M Unit) (s : State) : Host.Outcome State Fault Refusal :=
  let r := m.run.run s
  .next (r.2.ending r.1)

/-! ### Lamps -/

/-- Delivery of the oldest pending lamp (08 R156). A hart that waits in IDLE has passed it (06 R116), and IDLE retires like
every instruction (R154). -/
def Hart.deliverLamp (h : Hart) : Hart :=
  match h.lamps with
  | [] => h
  | l :: rest =>
    let h := if h.idle then { h.goTo (h.pc + 4) with idle := false } else h
    let b := (h.leaveWait.closeStrip.dropQueued.unbind 1).swapBank
    { b with
      s := b.s.set 12 h.pc
      lamps := rest
      lampcause := (h.lampcause &&& 0x0800000000000000) ||| 0x8000000000000000
        ||| (if rest.isEmpty then 0 else 0x4000000000000000)
        ||| (if l.route then 0x1000000000000000 else 0) ||| (l.id &&& 0xFFFFFFFFFFFFF)
      pc := h.lamppc }

/-- Whether a lamp is to be delivered (08 R156). -/
def Hart.lampDue (h : Hart) : Bool :=
  !h.lamps.isEmpty && h.lampEnable && h.level == .user && !h.inLamp && !h.frozen && !h.halted

/-- A lamp becomes pending, or is lost when 16 are held (08 R156). R156 sets LAMPCAUSE.PEND at delivery and does not say whether
it follows lamps that arrive while the handler runs: the model sets it at once (DESIGN CHOICE, log 63). -/
def Hart.addLamp (h : Hart) (l : Lamp) : Hart :=
  if 16 ≤ h.lamps.length then { h with lampcause := h.lampcause ||| 0x0800000000000000 }
  else { h with
    lamps := h.lamps ++ [l]
    lampcause := if h.inLamp then h.lampcause ||| 0x4000000000000000 else h.lampcause }

/-! ### The harts of the device -/

/-- Every hart the device holds, the one in focus first. -/
def State.harts (s : State) : List Hart := (if s.h.live then [s.h] else []) ++ s.others

/-- Brings the hart of that name into focus; the hart that had it goes to the end of the others. -/
def State.focus (s : State) (k : HKey) : State :=
  if s.h.live && s.h.key == k then s
  else match s.others.find? (·.key == k) with
    | some h => { s with h := h, others := s.others.filter (·.key != k) ++ (if s.h.live then [s.h] else []) }
    | none => s

/-- Changes the hart of that name, wherever it is. -/
def State.onKey (s : State) (k : HKey) (f : Hart → Hart) : State :=
  if s.h.live && s.h.key == k then s.onHart f
  else { s with others := s.others.map fun h => if h.key == k then f h else h }

def State.hartOf? (s : State) (k : HKey) : Option Hart := s.harts.find? (·.key == k)

/-- Replaces the first entry of a list that satisfies `p`. -/
def updateFirst {α : Type} (p : α → Bool) (f : α → α) : List α → List α
  | [] => []
  | x :: xs => if p x then f x :: xs else x :: updateFirst p f xs

end Sys2Proof.Machine
end

