-- ==== Sys2Proof/Machine/Boundary.lean ====
section
/-! DEFINITION. What a hart takes at an instruction boundary: debug halts, asynchronous traps, lamps, and the trap of a
pattern that is no instruction (08 R154, R156, R159, R164, R166, R168; 07 R140; 21 R335; 03 R44). -/
namespace Sys2Proof.Machine

/-- A hart that can take an asynchronous trap (08 R159). -/
def Hart.canTrap (h : Hart) : Bool := h.level == .user && !h.frozen && !h.halted && !h.saved

/-- SVEC of a hart's die. -/
def State.svecOf (s : State) (h : Hart) : Word := match s.dies[h.die]? with | some d => d.svec | none => 0

/-- Takes an asynchronous trap at a hart that can take it, when `due` gives its TRAPVAL. -/
def State.asyncTrap (s : State) (k : HKey) (cause : Nat) (due : Hart → Option Word) (clear : Hart → Hart) : State :=
  s.onKey k fun h =>
    match due h with
    | some v => if h.canTrap then (clear h).trapEntry (s.svecOf h) cause v else h
    | none => h

def execEngineFault (k : HKey) (s : State) : Host.Outcome State Fault Refusal :=
  .next (s.asyncTrap k 18 (·.faults.head?) fun h => { h with faults := h.faults.drop 1 })
def execRouteTimeoutTrap (k : HKey) (s : State) : Host.Outcome State Fault Refusal :=
  .next (s.asyncTrap k 20 (·.timeouts.head?) fun h => { h with timeouts := h.timeouts.drop 1 })
def execDebugSingleStep (k : HKey) (s : State) : Host.Outcome State Fault Refusal :=
  .next (s.asyncTrap k 16 (fun h => if h.stepDue then some 0 else none) fun h => { h with stepDue := false })
def execGangLost (k : HKey) (s : State) : Host.Outcome State Fault Refusal :=
  .next (s.asyncTrap k 17 (fun h => h.gangLost.head?.map (BitVec.ofNat 64)) fun h => { h with gangLost := h.gangLost.drop 1 })

/-- The pre-empting hart that is asked to surrender its slot takes cause 19 (07 R140). -/
def State.takeEviction (s : State) (k : HKey) : State :=
  s.asyncTrap k 19 (·.evict) fun h => { h with asked := h.evict.map (·.setWidth 32), evict := none }

/-- A hart that a debugger has asked to halt (08 R167, R168). -/
def execDebugHalt (k : HKey) (s : State) : Host.Outcome State Fault Refusal :=
  .next (s.onKey k fun h => if h.haltReq && !h.halted then h.halt else h)

def execLampDelivery (k : HKey) (s : State) : Host.Outcome State Fault Refusal :=
  .next (s.onKey k fun h => if h.lampDue then h.deliverLamp else h)

/-- A pattern that decodes to no instruction (03 R44, R46). -/
def execIllegalInstruction (bits : Word) : State → Host.Outcome State Fault Refusal := run (trap 0 bits)

end Sys2Proof.Machine
end

