-- ==== Sys2Proof/Machine/Hash.lean ====
section
/-! DEFINITION. The hash functions that the spec names: BLAKE3 with default parameters (23 R348) and SHA-512 (24 R360, R361). The
spec does not print them: they are taken from their published definitions (PRESUMED, log 18). -/
namespace Sys2Proof.Machine

/-- A list cut into pieces of `n`, the last one perhaps shorter; `k` bounds their number. -/
def piecesOf {α : Type} (n : Nat) : Nat → List α → List (List α)
  | 0, _ => []
  | k + 1, xs => if xs.isEmpty then [] else xs.take n :: piecesOf n k (xs.drop n)

/-! ### BLAKE3 -/

abbrev Half := BitVec 32
/-- A column or a diagonal of the state of BLAKE3. -/
abbrev Quad := Half × Half × Half × Half

def blakeInit : List Half :=
  [0x6A09E667, 0xBB67AE85, 0x3C6EF372, 0xA54FF53A, 0x510E527F, 0x9B05688C, 0x1F83D9AB, 0x5BE0CD19]
/-- The order in which a round takes the message words of the round before. -/
def blakeOrder : List Nat := [2, 6, 3, 10, 7, 0, 4, 13, 1, 11, 12, 5, 9, 14, 15, 8]

/-- The mixing of a column or diagonal with two message words. -/
def blakeMix (q : Quad) (m : Half × Half) : Quad :=
  let (a, b, c, d) := q
  let a := a + b + m.1
  let d := (d ^^^ a).rotateRight 16
  let c := c + d
  let b := (b ^^^ c).rotateRight 12
  let a := a + b + m.2
  let d := (d ^^^ a).rotateRight 8
  let c := c + d
  let b := (b ^^^ c).rotateRight 7
  (a, b, c, d)

/-- Row `i` moved by `i · k` columns. -/
def blakeSkew (k : Nat) (qs : List Quad) : List Quad :=
  let at' (i : Nat) : Quad := qs.getD (i % 4) (0, 0, 0, 0)
  (List.range 4).map fun i => ((at' i).1, (at' (i + k)).2.1, (at' (i + 2 * k)).2.2.1, (at' (i + 3 * k)).2.2.2)

def blakePairs (ms : List Half) : List (Half × Half) := (List.range 4).map fun i => (ms.getD (2 * i) 0, ms.getD (2 * i + 1) 0)

/-- A round: the columns, then the diagonals. -/
def blakeRound (qs : List Quad) (ms : List Half) : List Quad :=
  let cols := List.zipWith blakeMix qs (blakePairs (ms.take 8))
  blakeSkew 3 (List.zipWith blakeMix (blakeSkew 1 cols) (blakePairs (ms.drop 8)))

/-- Seven rounds. -/
def blakeRounds : Nat → List Quad → List Half → List Quad
  | 0, qs, _ => qs
  | n + 1, qs, ms => blakeRounds n (blakeRound qs ms) (blakeOrder.map (ms.getD · 0))

/-- The compression of a block of 16 words into a chaining value. -/
def blakeCompress (cv ms : List Half) (counter len flags : Nat) : List Half :=
  let d : List Half := [BitVec.ofNat 32 counter, BitVec.ofNat 32 (counter / 2 ^ 32), BitVec.ofNat 32 len, BitVec.ofNat 32 flags]
  let start : List Quad := (List.range 4).map fun i => (cv.getD i 0, cv.getD (i + 4) 0, blakeInit.getD i 0, d.getD i 0)
  let qs := blakeRounds 7 start ms
  qs.map (fun q => q.1 ^^^ q.2.2.1) ++ qs.map fun q => q.2.1 ^^^ q.2.2.2

/-- The 16 words of a block, its last bytes zero. -/
def blakeWords (bs : List Byte) : List Half := (List.range 16).map fun i => BitVec.ofNat 32 (leNat ((bs.drop (4 * i)).take 4))

/-- The chaining value of a chunk of at most 1,024 bytes; `root` when the input is this chunk alone. -/
def blakeChunk (index : Nat) (root : Bool) (bs : List Byte) : List Half :=
  let blocks := if bs.isEmpty then [[]] else piecesOf 64 16 bs
  (blocks.zipIdx).foldl (fun cv b =>
    let last : Nat := if b.2 + 1 = blocks.length then (if root then 10 else 2) else 0
    blakeCompress cv (blakeWords b.1) index b.1.length ((if b.2 = 0 then 1 else 0) + last)) blakeInit

/-- Chaining values joined in pairs, an odd one carried up; `flags` of the join. -/
def blakeJoin (flags : Nat) : List (List Half) → List (List Half)
  | x :: y :: rest => blakeCompress blakeInit (x ++ y) 0 64 flags :: blakeJoin flags rest
  | xs => xs

/-- The root of the tree over some chaining values, level by level. -/
def blakeTree : Nat → List (List Half) → List (List Half)
  | 0, cvs => cvs
  | n + 1, cvs => if cvs.length ≤ 1 then cvs else blakeTree n (blakeJoin (if cvs.length = 2 then 12 else 4) cvs)

/-- The first 128 bits of BLAKE3, the first byte lowest. -/
def blake3 (bs : List Byte) : BitVec 128 :=
  let chunks := if bs.isEmpty then [[]] else piecesOf 1024 bs.length bs
  let cvs := chunks.zipIdx.map fun c => blakeChunk c.2 (chunks.length == 1) c.1
  let root := (blakeTree chunks.length cvs).headD []
  BitVec.ofNat 128 ((List.range 4).foldr (fun i n => (root.getD i 0).toNat + 2 ^ 32 * n) 0)

/-! ### SHA-512 -/

def shaInit : List Word := [
  0x6A09E667F3BCC908, 0xBB67AE8584CAA73B, 0x3C6EF372FE94F82B, 0xA54FF53A5F1D36F1,
  0x510E527FADE682D1, 0x9B05688C2B3E6C1F, 0x1F83D9ABFB41BD6B, 0x5BE0CD19137E2179]

def shaConstants1 : List Word := [
  0x428A2F98D728AE22, 0x7137449123EF65CD, 0xB5C0FBCFEC4D3B2F, 0xE9B5DBA58189DBBC,
  0x3956C25BF348B538, 0x59F111F1B605D019, 0x923F82A4AF194F9B, 0xAB1C5ED5DA6D8118,
  0xD807AA98A3030242, 0x12835B0145706FBE, 0x243185BE4EE4B28C, 0x550C7DC3D5FFB4E2,
  0x72BE5D74F27B896F, 0x80DEB1FE3B1696B1, 0x9BDC06A725C71235, 0xC19BF174CF692694,
  0xE49B69C19EF14AD2, 0xEFBE4786384F25E3, 0x0FC19DC68B8CD5B5, 0x240CA1CC77AC9C65,
  0x2DE92C6F592B0275, 0x4A7484AA6EA6E483, 0x5CB0A9DCBD41FBD4, 0x76F988DA831153B5,
  0x983E5152EE66DFAB, 0xA831C66D2DB43210, 0xB00327C898FB213F, 0xBF597FC7BEEF0EE4,
  0xC6E00BF33DA88FC2, 0xD5A79147930AA725, 0x06CA6351E003826F, 0x142929670A0E6E70,
  0x27B70A8546D22FFC, 0x2E1B21385C26C926, 0x4D2C6DFC5AC42AED, 0x53380D139D95B3DF,
  0x650A73548BAF63DE, 0x766A0ABB3C77B2A8, 0x81C2C92E47EDAEE6, 0x92722C851482353B]
def shaConstants2 : List Word := [
  0xA2BFE8A14CF10364, 0xA81A664BBC423001, 0xC24B8B70D0F89791, 0xC76C51A30654BE30,
  0xD192E819D6EF5218, 0xD69906245565A910, 0xF40E35855771202A, 0x106AA07032BBD1B8,
  0x19A4C116B8D2D0C8, 0x1E376C085141AB53, 0x2748774CDF8EEB99, 0x34B0BCB5E19B48A8,
  0x391C0CB3C5C95A63, 0x4ED8AA4AE3418ACB, 0x5B9CCA4F7763E373, 0x682E6FF3D6B2B8A3,
  0x748F82EE5DEFB2FC, 0x78A5636F43172F60, 0x84C87814A1F0AB72, 0x8CC702081A6439EC,
  0x90BEFFFA23631E28, 0xA4506CEBDE82BDE9, 0xBEF9A3F7B2C67915, 0xC67178F2E372532B,
  0xCA273ECEEA26619C, 0xD186B8C721C0C207, 0xEADA7DD6CDE0EB1E, 0xF57D4F7FEE6ED178,
  0x06F067AA72176FBA, 0x0A637DC5A2C898A6, 0x113F9804BEF90DAE, 0x1B710B35131C471B,
  0x28DB77F523047D84, 0x32CAAB7B40C72493, 0x3C9EBE0A15C9BEBC, 0x431D67C49C100D4C,
  0x4CC5D4BECB3E42B6, 0x597F299CFC657E2A, 0x5FCB6FAB3AD6FAEC, 0x6C44198C4A475817]

/-- The 80 words of a message block, from the latest sixteen, newest first. -/
def shaSchedule : Nat → List Word → List Word
  | 0, ws => ws
  | n + 1, ws =>
    let w2 := ws.getD 1 0
    let w15 := ws.getD 14 0
    let s0 := w15.rotateRight 1 ^^^ w15.rotateRight 8 ^^^ (w15 >>> 7)
    let s1 := w2.rotateRight 19 ^^^ w2.rotateRight 61 ^^^ (w2 >>> 6)
    shaSchedule n ((s1 + ws.getD 6 0 + s0 + ws.getD 15 0) :: ws)

/-- One round on the eight working variables. -/
def shaRound (v : List Word) (kw : Word × Word) : List Word :=
  let at' (i : Nat) : Word := v.getD i 0
  let a := at' 0
  let e := at' 4
  let t1 := at' 7 + (e.rotateRight 14 ^^^ e.rotateRight 18 ^^^ e.rotateRight 41) + ((e &&& at' 5) ^^^ (~~~e &&& at' 6)) + kw.1 + kw.2
  let t2 := (a.rotateRight 28 ^^^ a.rotateRight 34 ^^^ a.rotateRight 39) + ((a &&& at' 1) ^^^ (a &&& at' 2) ^^^ (at' 1 &&& at' 2))
  [t1 + t2, a, at' 1, at' 2, at' 3 + t1, e, at' 5, at' 6]

/-- A big-endian number. -/
def beNat (bs : List Byte) : Nat := leNat bs.reverse

/-- A block of 128 bytes taken into the hash value. -/
def shaBlock (hash : List Word) (block : List Byte) : List Word :=
  let ws := (piecesOf 8 16 block).map fun w => BitVec.ofNat 64 (beNat w)
  let kws := (shaConstants1 ++ shaConstants2).zip (shaSchedule 64 ws.reverse).reverse
  List.zipWith (· + ·) hash (kws.foldl shaRound hash)

/-- SHA-512; the first byte of the digest is the lowest of the result, as it lies in storage (00 R3). -/
def sha512 (bs : List Byte) : BitVec 512 :=
  let n := bs.length
  let padded := bs ++ [0x80] ++ List.replicate ((239 - n % 128) % 128) 0 ++ (leBytes 16 (8 * n)).reverse
  let hash := (piecesOf 128 (n / 128 + 2) padded).foldl shaBlock shaInit
  BitVec.ofNat 512 (leNat (hash.flatMap fun w => (leBytes 8 w.toNat).reverse))

end Sys2Proof.Machine
end

