-- ==== Sys2Proof/Machine/Control.lean ====
section
/-! DEFINITION. The control registers: numbers, privileges and field maps (06 R114), and the Assay interval that
ASSAYCTL closes (23 R349, R350). -/
namespace Sys2Proof.Machine

/-! ### Per-core and per-die records -/

/-- The matrix state of a core (13 R237, R238); a core that has none listed is as after reset. -/
def State.matrix (s : State) (stop : Nat) : Matrix :=
  (s.matrices.find? (·.stop == stop)).getD ⟨stop, none, 64, 64⟩
def State.setMatrix (s : State) (m : Matrix) : State :=
  { s with matrices := m :: s.matrices.filter (·.stop != m.stop) }

/-- The debug block and counters of a core (08 R167, 24 R354). -/
def State.core (s : State) (stop : Nat) : CoreBlock :=
  (s.cores.find? (·.stop == stop)).getD ⟨stop, 0, 0, 0, 0⟩
def State.setCore (s : State) (c : CoreBlock) : State :=
  { s with cores := c :: s.cores.filter (·.stop != c.stop) }

def State.die (s : State) (d : Nat) : Die := (s.dies[d]?).getD {}
def State.onDie (s : State) (d : Nat) (f : Die → Die) : State := { s with dies := s.dies.set! d (f (s.die d)) }

/-! ### The Assay interval (23 R349, R350) -/

/-- The device memory of a storage. -/
def Memory.device (m : Memory) : Memory := ⟨m.cells.filter fun c => c.1 < 0x8000000000⟩

/-- `m` with the listed 64 KiB pages as `src` holds them. -/
def Memory.withPages (m src : Memory) (pages : List Nat) : Memory :=
  let inside (c : Host.Cell) : Bool := pages.contains (c.1 / 0x10000)
  (src.cells.filter inside).foldl (fun m c => m.write c.1 c.2) ⟨m.cells.filter fun c => !inside c⟩

/-- The device memory that a close made now will have hashed: dirty pages as they stand, the others as last hashed. -/
def State.assaySnapshot (s : State) : Memory :=
  if s.assay.allDirty then s.mem.device else s.assay.final.withPages s.mem.device s.assay.dirty

/-- Starts a close: the close point is now (23 R350). -/
def State.assayStart (s : State) : State :=
  { s with assay := { s.assay with busy := some s.assaySnapshot, dirty := [], allDirty := false } }

/-- Requests a close; false when one is running and another is held already (23 R350). -/
def State.assayClose (s : State) : Bool × State :=
  match s.assay.busy with
  | none => (true, s.assayStart)
  | some _ => if s.assay.held then (false, s) else (true, { s with assay := { s.assay with held := true } })

/-- ASSAYCTL as it reads (23 R349). -/
def State.assayCtl (s : State) : Word :=
  (zx s.assay.epoch <<< 32) ||| (if s.assay.en then 4 else 0) ||| (if s.assay.busy.isSome then 2 else 0)

/-- A write of ASSAYCTL (23 R349): EN, and CLOSE. -/
def State.writeAssayCtl (s : State) (v : Word) : State :=
  let en := v.getLsbD 2
  let s := { s with assay := { s.assay with en := en, allDirty := s.assay.allDirty || (en && !s.assay.en) } }
  if v.getLsbD 0 then s.assayClose.2 else s

/-! ### Registers by number -/

/-- What a level may do with a control register (06 R114). -/
inductive CrAccess where
  | unassigned | denied | readOnly | readWrite
  deriving DecidableEq, Repr

/-- The table of R114. -/
def crAccess (n : Nat) (user : Bool) : CrAccess :=
  let both (u v : CrAccess) : CrAccess := if user then u else v
  if n ≤ 0x006 then .readWrite
  else if 0x010 ≤ n ∧ n ≤ 0x014 then both .readOnly .readWrite
  else if 0x020 ≤ n ∧ n ≤ 0x063 then .readWrite
  else if n = 0x070 ∨ n = 0x071 then both .readOnly .readWrite
  else if n = 0x080 ∨ n = 0x081 ∨ n = 0x090 then .readWrite
  else if n = 0x091 then both .readOnly .readWrite
  else if n = 0x0A0 then .readWrite
  else if 0x0B0 ≤ n ∧ n ≤ 0x0B3 then .readOnly
  else if 0x100 ≤ n ∧ n ≤ 0x102 then both .denied .readWrite
  else if n = 0x110 ∨ n = 0x111 ∨ n = 0x120 ∨ n = 0x121 then both .denied .readWrite
  else if 0x180 ≤ n ∧ n ≤ 0x18F then both .denied .readWrite
  else if 0x200 ≤ n ∧ n ≤ 0x27F then .readWrite
  else .unassigned

/-- The value of a control register for a hart; 0 for an unassigned number. -/
def State.crRead (s : State) (h : Hart) (n : Nat) : Word :=
  if n < 0x020 then
    match n with
    | 0x000 => h.fcsr | 0x001 => h.seed | 0x002 => h.sbase | 0x003 => h.sstep
    | 0x004 => h.tann | 0x005 => h.ordscope | 0x006 => h.ictl
    | 0x010 => h.vl | 0x011 => h.vtype | 0x012 => h.vstart | 0x013 => h.vshape | 0x014 => h.vpart
    | _ => 0
  else if n < 0x03C then h.vw[n - 0x020]!
  else if n < 0x044 then h.mw[n - 0x03C]!
  else if n < 0x054 then h.gw[n - 0x044]!
  else if n < 0x064 then h.iw[n - 0x054]!
  else if n < 0x0B0 then
    match n with
    | 0x070 => (s.matrix h.stop).mrows | 0x071 => (s.matrix h.stop).mcols
    | 0x080 => h.hctl | 0x081 => h.hstat | 0x090 => h.lamppc | 0x091 => h.lampcause | 0x0A0 => h.rtimeout
    | _ => 0
  else if n < 0x180 then
    match n with
    | 0x0B0 => h.hartid | 0x0B1 => zx h.key.lid
    | 0x0B2 => BitVec.ofNat 64 (h.stop % 40) | 0x0B3 => BitVec.ofNat 64 h.die
    | 0x100 => h.trappc | 0x101 => h.trapcause | 0x102 => h.trapval
    | 0x110 => h.asid | 0x111 => h.ptbase
    | 0x120 => (s.die h.die).netthr | 0x121 => s.assayCtl
    | _ => 0
  else if n < 0x188 then h.b[n - 0x180]!
  else if n < 0x190 then h.alt[n - 0x188]!
  else if 0x200 ≤ n ∧ n < 0x280 then (if n % 32 = 0 then 0 else h.stan[n - 0x200]!)
  else 0

/-- FCSR after a write (04 R56): a DRM of 5 to 7 leaves DRM unchanged. -/
def writeFcsr (old v : Word) : Word :=
  let drm := if v.toNat / 65536 % 8 < 5 then v &&& 0x70000 else old &&& 0x70000
  drm ||| (v &&& 0x1F1F)

/-- TANN after a write (11 R225). -/
def writeTann (old v : Word) : Word := if 1 ≤ v.toNat % 8 ∧ v.toNat % 8 ≤ 4 then v &&& 7 else old

/-- HCTL after a write at a level (08 R154): DET never changes, STEP only above user. -/
def writeHctl (old v : Word) (user : Bool) : Word :=
  (old &&& 1) ||| (v &&& 6) ||| (if user then old &&& 8 else v &&& 8)

/-- MROWS or MCOLS after a write (13 R238). -/
def writeExtent (v : Word) : Word := if v.toNat % 128 > 64 then 64 else v &&& 0x7F

/-- NETTHR after a write (23 R346): a MODE of 3 leaves MODE unchanged; TP follows MODE 1 and 2, and stands under MODE 0. -/
def writeNetthr (old v : Word) : Word :=
  let mode := if v.toNat / 65536 % 4 = 3 then old &&& 0x30000 else v &&& 0x30000
  (if mode = 0x10000 then 0 else if mode = 0x20000 then 0x80000000 else old &&& 0x80000000) ||| mode ||| (v &&& 0xFFFF)

/-- LAMPCAUSE written by the supervisor (08 R157); a change of IN changes the bank in use (log 19). -/
def Hart.writeLampcause (h : Hart) (v : Word) : Hart :=
  let h' := if v.getLsbD 63 = h.inLamp then h else h.swapBank
  { h' with lampcause := v &&& 0xF80FFFFFFFFFFFFF }

/-- Writes a control register of the hart in focus with the map its chapter gives; an unassigned or read-only number
ignores the write (06 R114, R115). -/
def State.crWrite (s : State) (n : Nat) (v : Word) : State :=
  if n < 0x020 then
    s.onHart fun h => match n with
    | 0x000 => { h with fcsr := writeFcsr h.fcsr v } | 0x001 => { h with seed := v }
    | 0x002 => { h with sbase := v } | 0x003 => { h with sstep := v &&& 0xFFFFFFFF }
    | 0x004 => { h with tann := writeTann h.tann v } | 0x005 => { h with ordscope := v &&& 3 }
    | 0x006 => { h with ictl := v &&& 0xFF }
    | 0x010 => { h with vl := v &&& 0x1FFFF } | 0x011 => { h with vtype := v &&& 0x80000000000001FF }
    | 0x012 => { h with vstart := v &&& 0xFFFFFFFF } | 0x013 => { h with vshape := v &&& 0xFFFF }
    | 0x014 => { h with vpart := (h.vpart &&& ~~~0x1FFF1FFF) ||| (v &&& 0x1FFF1FFF) }
    | _ => h
  else if n < 0x03C then s.onHart fun h => { h with vw := h.vw.set! (n - 0x020) (v &&& 0x1FFF1FFF) }
  else if n < 0x044 then s.onHart fun h => { h with mw := h.mw.set! (n - 0x03C) (v &&& 0x1FFF1FFF) }
  else if n < 0x054 then s.onHart fun h => { h with gw := h.gw.set! (n - 0x044) (v &&& 0x1F1FFF1FFF) }
  else if n < 0x064 then s.onHart fun h => { h with iw := h.iw.set! (n - 0x054) (v &&& 0x1FFF1FFF) }
  else if n < 0x0B0 then
    match n with
    | 0x070 => s.setMatrix { s.matrix s.h.stop with mrows := writeExtent v }
    | 0x071 => s.setMatrix { s.matrix s.h.stop with mcols := writeExtent v }
    | 0x080 => s.onHart fun h => { h with hctl := writeHctl h.hctl v (h.level == .user) }
    | 0x081 => s.onHart fun h => { h with hstat := v &&& 3 }
    | 0x090 => s.onHart fun h => { h with lamppc := v }
    | 0x091 => s.onHart fun h => h.writeLampcause v
    | 0x0A0 => s.onHart fun h => { h with rtimeout := v &&& 0xFFFFFFFF }
    | _ => s
  else if n < 0x180 then
    match n with
    | 0x100 => s.onHart fun h => { h with trappc := v }
    | 0x101 => s.onHart fun h => { h with trapcause := v &&& 0xE61F }
    | 0x102 => s.onHart fun h => { h with trapval := v }
    | 0x110 => s.onHart fun h => { h with asid := v &&& 0xFFFF }
    | 0x111 => s.onHart fun h => { h with ptbase := v &&& 0xFFFFFFFFFF000 }
    | 0x120 => s.onDie s.h.die fun d => { d with netthr := writeNetthr d.netthr v }
    | 0x121 => s.writeAssayCtl v
    | _ => s
  else if n < 0x188 then s.onHart fun h => { h with b := h.b.set! (n - 0x180) v }
  else if n < 0x190 then s.onHart fun h => { h with alt := h.alt.set! (n - 0x188) v }
  else if 0x200 ≤ n ∧ n < 0x280 then
    s.onHart fun h => if n % 32 = 0 then h else { h with stan := h.stan.set! (n - 0x200) v }
  else s

end Sys2Proof.Machine
end

