-- ==== Sys2Proof/Machine/Translate.lean ====
section
/-! DEFINITION. From a virtual address to a location: the core-local window, the page walk, the translations a die may
hold, and the physical map (05 R73 to R76, 08 R160 to R162). -/
namespace Sys2Proof.Machine

inductive Access where
  | load | store | fetch
  deriving DecidableEq, Repr

/-- What an access is translated and checked under: a hart's own, or the issuing hart's of an engine transfer. -/
structure Space where
  level : Level
  asid : Word
  ptbase : Word
  stop : Nat
  vpart : Word
  pre : Bool
  deriving DecidableEq, Repr

def Hart.space (h : Hart) : Space := ⟨h.level, h.asid, h.ptbase, h.stop, h.vpart, h.preempting⟩

/-- A cause code and the TRAPVAL that goes with it (08 R152). -/
abbrev Fail := Nat × Word

/-- SPBASE and SPLEN of VPART (09 R169). -/
def spBase (vpart : Word) : Nat := vpart.toNat / 2 ^ 48 % 256
def spLen (vpart : Word) : Nat := vpart.toNat / 2 ^ 56 % 256

/-- Whether a hart holds a scratchpad bank (05 R75). -/
def Space.holds (sp : Space) (bank : Nat) : Bool :=
  if sp.pre then 176 ≤ bank && bank < 192 else spBase sp.vpart ≤ bank && bank < spBase sp.vpart + spLen sp.vpart

/-- First address of the core-local window (05 R74). -/
def localBase : Nat := 0xFFFFFFF000000

/-- The core-local window (05 R74, R75). -/
def Space.local (sp : Space) (va : Nat) : Except Fail Nat :=
  let off := va - localBase
  if off < 0x300000 then
    if sp.level = .user && !sp.holds (off / 8 % 192) then .error (6, BitVec.ofNat 64 va)
    else .ok (scratchLoc sp.stop + off)
  else if 0x400000 ≤ off ∧ off < 0x410000 then .ok (sdmLoc sp.stop + (off - 0x400000))
  else .error (6, BitVec.ofNat 64 va)

/-- How a page walk ends (08 R161). -/
inductive WalkEnd where
  | leaf (global : Bool) (perm : BitVec 4) (frame : Nat)
  | page | table | poison
  deriving DecidableEq, Repr

/-- The walk from the table of level `n - 1` downward (08 R161). -/
def walkFrom (m : Memory) (poison : List Nat) (va table : Nat) : Nat → WalkEnd
  | 0 => .page
  | n + 1 =>
    let size := 2 ^ (16 + 9 * n)
    let ea := table + va / size % 512 * 8
    if regionOf ea ≠ .device then .table
    else if poison.contains (ea / 8) then .poison
    else
      let e := m.readNat ea 8
      let base := e / 4096 % 2 ^ 40 * 4096
      if e % 2 = 0 ∨ e / 128 % 32 ≠ 0 ∨ e / 2 ^ 52 ≠ 0 then .page
      else if e / 2 % 2 = 1 then
        if base % size ≠ 0 then .page
        else .leaf (e / 64 % 2 = 1) (BitVec.ofNat 4 (e / 4)) (base + va % size / 65536 * 65536)
      else walkFrom m poison va base n

/-- Whether a leaf's RD, W, X and U allow an access (08 R161). -/
def permits (acc : Access) (user : Bool) (perm : BitVec 4) : Bool :=
  (match acc with | .load => perm.getLsbD 0 | .store => perm.getLsbD 1 | .fetch => perm.getLsbD 2)
    && (!user || perm.getLsbD 3)

/-- The page-fault cause of an access (08 R152). -/
def pageCause : Access → Nat
  | .load => 3
  | .store => 4
  | .fetch => 5

/-- What a leaf translation gives an access. -/
def TlbEntry.apply (t : TlbEntry) (sp : Space) (va : Nat) (acc : Access) : Except Fail Nat :=
  if permits acc (sp.level == .user) t.perm then
    let loc := t.frame + va % 65536
    if regionOf loc = .unbacked then .error (6, BitVec.ofNat 64 va) else .ok loc
  else .error (pageCause acc, BitVec.ofNat 64 va)

/-- Whether a held translation answers an access of an address space of a die (08 R162). -/
def TlbEntry.matches (t : TlbEntry) (sp : Space) (va : Nat) : Bool :=
  t.die == sp.stop / 40 && t.page == va / 65536 && (t.asid == none || t.asid == some (sp.asid.setWidth 16))

/-- The translation that a walk made now finds (08 R161). -/
def State.walk (s : State) (sp : Space) (va : Nat) (acc : Access) : Except Fail TlbEntry :=
  match walkFrom s.mem s.poison va (sp.ptbase.toNat / 4096 % 2 ^ 40 * 4096) 4 with
  | .leaf g perm frame => .ok ⟨sp.stop / 40, if g then none else some (sp.asid.setWidth 16), va / 65536, perm, frame⟩
  | .page => .error (pageCause acc, BitVec.ofNat 64 va)
  | .table => .error (6, BitVec.ofNat 64 va)
  | .poison => .error (13, BitVec.ofNat 64 va)

/-- The entry with the `n`-th place of a list, or the first given. -/
def pick {α : Type} (d : α) (l : List α) (n : Nat) : α := (l[n]?).getD d

/-- Translation proper (08 R160, R162): a walk made now, or a translation held since an earlier walk, where they differ;
a walk that succeeds may be held from now on (log 8). -/
def State.translate (s : State) (sp : Space) (va : Nat) (acc : Access) : Except Fail Nat × State :=
  let fresh := s.walk sp va acc
  let now := match fresh with | .ok t => t.apply sp va acc | .error f => .error f
  let held := s.tlb.filter (·.matches sp va)
  let others := (held.map (·.apply sp va acc)).filter fun r => match r, now with
    | .ok a, .ok b => a != b
    | .error a, .error b => a != b
    | _, _ => true
  let (i, s) := s.choose (others.length + 1)
  let s := match fresh with
    | .ok t => if held.contains t then s else { s with tlb := t :: s.tlb }
    | .error _ => s
  (pick now (now :: others) i, s)

/-- Whether a link that is up reaches a node (23 R352, R353). -/
def State.reaches (s : State) (node : Nat) : Bool := s.links.any fun l => l.up && l.node == node

/-- A link-window location of a node that no link reaches faults (23 R353). -/
def State.checkLink (s : State) (va : Word) (r : Except Fail Nat) : Except Fail Nat :=
  match r with
  | .ok loc => if regionOf loc = .link && !s.reaches (linkNodeOf loc) then .error (6, va) else .ok loc
  | .error f => .error f

/-- The location of one byte or aligned element (05 R73 to R76, 08 R160). Firmware runs with translation off (R149). -/
def State.locate (s : State) (sp : Space) (va : Word) (acc : Access) : Except Fail Nat × State :=
  let a := va.toNat
  if 2 ^ 52 ≤ a then (.error (6, va), s)
  else if localBase ≤ a then (sp.local a, s)
  else if sp.level = .firmware then
    (s.checkLink va (if regionOf a = .unbacked then .error (6, va) else .ok a), s)
  else
    let (r, s) := s.translate sp a acc
    (s.checkLink va r, s)

/-- Whether the translation of the hart in focus that gives a location for an address is global, as the TLB of the die holds it. -/
def State.isGlobal (s : State) (va loc : Nat) : Bool :=
  s.tlb.any fun t => t.matches s.h.space va && t.asid == none && t.frame + va % 65536 == loc

/-- The same for the hart in focus, trapping on a fault. -/
def locate (va : Word) (acc : Access) : M Nat := do
  match ← modifyGet fun s => s.locate s.h.space va acc with
  | .ok loc => pure loc
  | .error (c, v) => trap c v

end Sys2Proof.Machine
end

