-- ==== Sys2Proof/Machine/Storage.lean ====
section
/-! DEFINITION. Reading and writing locations: poison (08 R165), monitors (06 R119), dirty pages (23 R349), the strip
(05 R81), the read buffer (05 R83), the Pillar table (05 R84 to R86). -/
namespace Sys2Proof.Machine

/-! ### Poison -/

/-- Whether `n` bytes at `a` touch the 8-byte word `w`, and whether they fill it. -/
def touchesWord (a n w : Nat) : Bool := a / 8 ≤ w && w * 8 < a + n
def fillsWord (a n w : Nat) : Bool := a ≤ w * 8 && w * 8 + 8 ≤ a + n
/-- The words that `n` bytes at `a` touch. -/
def wordsAt (a n : Nat) : List Nat := (List.range ((a + n + 7) / 8 - a / 8)).map (a / 8 + ·)

/-- Whether any 8-byte word of `n` bytes at `a` carries a mark. -/
def marked (poison : List Nat) (a n : Nat) : Bool := poison.any (touchesWord a n)
/-- The words of `n` bytes at `a` that carry a mark. -/
def marksIn (poison : List Nat) (a n : Nat) : List Nat := poison.filter (touchesWord a n)

/-- The marks after a write of `n` bytes at `a`: bad data marks every word it touches, good data clears the words it
covers whole (08 R165). Several narrower writes of good data that together cover a word leave its mark: R165 speaks of
writing the whole word and does not say whether they count (DEDUCED, log 22). -/
def remark (poison : List Nat) (a n : Nat) (bad : Bool) : List Nat :=
  if bad then (wordsAt a n).foldl insertSorted poison
  else if poison.isEmpty then [] else poison.filter fun w => !fillsWord a n w

/-! ### Writes -/

def StripStore.covers (e : StripStore) (loc n : Nat) : Bool := e.pa < loc + n && loc < e.pa + e.old.length
/-- Whether a store touches a word, and whether it fills it. -/
def StripStore.touches (e : StripStore) (w : Nat) : Bool := touchesWord e.pa e.old.length w
def StripStore.fills (e : StripStore) (w : Nat) : Bool := fillsWord e.pa e.old.length w

/-- A write of another observer, or of an engine, to words that the open strip stored to: it has performed, so no later access
of the hart reads or stores before it (05 R79, R85). -/
def Hart.pinStrip (h : Hart) (loc n : Nat) (bad : Bool) : Hart :=
  if h.strip.any fun e => (wordsAt loc n).any e.touches then
    { h with strip := { pa := loc, old := List.replicate n 0, kind := .done, bad := bad } :: h.strip }
  else h

/-- A write by `who` reaches a hart: the line it watches (06 R119), and its strip. -/
def Hart.hitBy (h : Hart) (who : Option HKey) (loc n : Nat) (bad : Bool) : Hart :=
  if who == some h.key then h else
  match h.monitor with
  | some m =>
    if m.line * 128 < loc + n && loc < m.line * 128 + 128 then { h.pinStrip loc n bad with monitor := some { m with hit := true } }
    else h.pinStrip loc n bad
  | none => h.pinStrip loc n bad

/-- A write of another observer, or of a hart, reaches the monitors and the strips of the device (06 R119, 05 R79). -/
def State.notifyMonitors (s : State) (who : Option HKey) (loc n : Nat) (bad : Bool := false) : State :=
  { s with h := s.h.hitBy who loc n bad, others := s.others.map (·.hitBy who loc n bad) }

/-- A write to device memory marks its pages dirty while EN is 1 (23 R349). -/
def State.markDirty (s : State) (loc n : Nat) : State :=
  if s.assay.en && !s.assay.allDirty && loc < 0x8000000000 && n ≠ 0 then
    { s with assay := { s.assay with dirty := insertSorted (insertSorted s.assay.dirty (loc / 65536)) ((loc + n - 1) / 65536) } }
  else s

/-- Writes bytes at a location, by an observer. -/
def State.storeBytes (s : State) (who : Option HKey) (loc : Nat) (bs : List Byte) (bad : Bool := false) : State :=
  (({ s with mem := s.mem.writeBytes loc bs, poison := remark s.poison loc bs.length bad }).notifyMonitors who loc bs.length bad).markDirty
    loc bs.length

/-- Writes a number of `n` bytes. -/
def State.storeNat (s : State) (who : Option HKey) (loc n v : Nat) (bad : Bool := false) : State :=
  s.storeBytes who loc (leBytes n v) bad

/-! ### The strip (05 R81) -/

/-- Whether a load of kind `k` follows the store: a scalar load never misses the hart's own scalar store, nor a store that
an earlier scalar load saw (05 R80); a probe of VBIN never misses an earlier one (09 R194). -/
def StripStore.before (e : StripStore) (k : StripKind) : Bool :=
  match e.kind with
  | .vector => false
  | .done => true
  | .both => k == .scalar || k == .table
  | c => c == k

/-- Whether a store of kind `k` stays behind the store in the coherence order. No write comes between the read and the write
of an atomic, so none goes before one (05 R93). -/
def StripStore.stays (e : StripStore) (k : StripKind) : Bool := e.before k || e.rmw

/-- A load of kind `k` saw the store: the loads and stores of that kind which follow come after it (05 R80). -/
def StripStore.seenBy (e : StripStore) (k : StripKind) : StripStore :=
  { e with kind := match e.kind with
    | .vector => k
    | .scalar => if k == .table then .both else .scalar
    | .table => if k == .scalar then .both else .table
    | c => c }

/-- The byte at `a`, for an access of kind `k`, when the stores of `log`, latest first, whose place in `mask` is 1 have not
performed yet; and the store that wrote it. -/
def undoByte (a : Nat) (k : StripKind) : List StripStore → Nat → Byte → Byte × Option StripStore
  | [], _, cur => (cur, none)
  | e :: es, mask, cur =>
    if e.covers a 1 then
      if e.before k || mask % 2 = 0 then (cur, some e)
      else undoByte a k es (mask / 2) ((e.old[a - e.pa]?).getD 0)
    else undoByte a k es (mask / 2) cur

/-- The mark of word `w` for such an access, which is `cur` now: data without a mark that fill only a part of a word leave its
mark as it was (08 R165). -/
def undoMark (w : Nat) (k : StripKind) : List StripStore → Nat → Bool → Bool
  | [], _, cur => cur
  | e :: es, mask, cur =>
    if !e.touches w then undoMark w k es (mask / 2) cur
    else if e.before k || mask % 2 = 0 then (if e.bad || e.fills w then cur else undoMark w k es (mask / 2) cur)
    else undoMark w k es (mask / 2) (e.marks.contains w)

/-- Bytes of another package, which the model does not hold (log 20). -/
def State.remoteBytes (s : State) (n : Nat) : List Byte × State :=
  (leBytes n (Config.free s.tick), { s with tick := s.tick + 1 })

/-- A hart's load of `n` bytes, element by element untorn: the value before or after each earlier store of the strip that
touches them (05 R81), and whether that value carries a mark (08 R165). What an ordered load saw is noted. -/
def State.stripLoad (s : State) (log : List StripStore) (k : StripKind) (loc n : Nat) : (List Byte × Bool) × State :=
  if regionOf loc = .link then
    let r := s.remoteBytes n
    ((r.1, false), r.2)
  else
  let cur := s.mem.readBytes loc n
  let bad := marked s.poison loc n
  let ws := wordsAt loc n
  let hits := log.filter fun e => ws.any e.touches
  let places := (List.range n).zip cur
  let undo (mask : Nat) : List (Byte × Option StripStore) := places.map fun p => undoByte (loc + p.1) k hits mask p.2
  let mark (mask : Nat) : Bool := ws.any fun w => undoMark w k hits mask (s.poison.contains w)
  if (List.range hits.length).all fun j =>
      (undo (2 ^ (j + 1) - 1)).map (·.1) == cur && mark (2 ^ (j + 1) - 1) == bad then ((cur, bad), s)
  else
    let mask := Config.free s.tick
    let got := undo mask
    let s := { s with tick := s.tick + 1 }
    let saw := got.filterMap (·.2)
    ((got.map (·.1), mark mask), if k == .vector then s else s.onHart fun h =>
      { h with strip := h.strip.map fun e => if saw.contains e then e.seenBy k else e })

/-- The bytes at `loc` with those that `e` covers replaced by what it replaced. -/
def StripStore.under (e : StripStore) (loc : Nat) (bs : List Byte) : List Byte :=
  ((List.range bs.length).zip bs).map fun p => if e.covers (loc + p.1) 1 then (e.old[loc + p.1 - e.pa]?).getD 0 else p.2
/-- The bytes at `loc` above `e` in the order, when those below it became `bs`: where `e` covers, what stood there. -/
def StripStore.above (e : StripStore) (loc : Nat) (bs cur : List Byte) : List Byte :=
  ((List.range bs.length).zip (bs.zip cur)).map fun p => if e.covers (loc + p.1) 1 then p.2.2 else p.2.1
/-- The store with the bytes it replaced, where it covers `bs` at `loc`, changed to them. -/
def StripStore.over (e : StripStore) (loc : Nat) (bs : List Byte) : StripStore :=
  { e with old := ((List.range e.old.length).zip e.old).map fun p =>
      if loc ≤ e.pa + p.1 then (bs[e.pa + p.1 - loc]?).getD p.2 else p.2 }

/-- Which of the words `ws` carried a mark before a store, and carry one after it, when those of `ms` do now. -/
def StripStore.marksUnder (e : StripStore) (ws ms : List Nat) : List Nat :=
  ws.filter fun w => if e.touches w then e.marks.contains w else ms.contains w
def StripStore.marksAfter (e : StripStore) (ws ms : List Nat) : List Nat :=
  ws.filter fun w => if e.touches w then e.bad || ms.contains w && !e.fills w else ms.contains w
/-- The store with the marks before it, on the words `ws`, changed to `ms`. -/
def StripStore.marksOver (e : StripStore) (ws ms : List Nat) : StripStore :=
  { e with marks := e.marks.filter (!ws.contains ·) ++ ms.filter e.touches }

/-- A store put into the coherence order: the log with it, the bytes and the marks it found, the bytes and the marks that stand at
its place after it and the stores it passed, and those stores. -/
structure Sunk where
  log : List StripStore
  seen : List Byte
  found : List Nat
  left : List Byte
  marks : List Nat
  passed : List StripStore

/-- A store of bytes `f` of those at its place, `cur`, whose words that carry a mark are `ms`, as the latest of a log. -/
def onTop (k : StripKind) (rmw : Bool) (loc : Nat) (f : List Byte → List Byte) (bad : Bool) (log : List StripStore)
    (cur : List Byte) (ms : List Nat) : Sunk :=
  let e : StripStore := { pa := loc, old := cur, kind := k, rmw := rmw, marks := ms, bad := bad }
  ⟨e :: log, cur, ms, f cur, e.marksAfter (wordsAt loc cur.length) ms, []⟩

/-- Puts a store of kind `k` into the order of a strip: it goes before a store of the log that it does not have to follow where
`mask` says so (05 R81). -/
def sink (k : StripKind) (rmw : Bool) (loc : Nat) (f : List Byte → List Byte) (bad : Bool) :
    List StripStore → Nat → List Byte → List Nat → Sunk
  | [], _, cur, ms => onTop k rmw loc f bad [] cur ms
  | e :: es, mask, cur, ms =>
    let ws := wordsAt loc cur.length
    if !e.covers loc cur.length then
      let r := sink k rmw loc f bad es mask cur (if e.stays k then ms else e.marksUnder ws ms)
      { r with log := e.marksOver ws r.marks :: r.log, marks := e.marksAfter ws r.marks }
    else if e.stays k || mask % 2 = 0 then onTop k rmw loc f bad (e :: es) cur ms
    else
      let r := sink k rmw loc f bad es (mask / 2) (e.under loc cur) (e.marksUnder ws ms)
      { r with
        log := (e.over loc r.left).marksOver ws r.marks :: r.log
        left := e.above loc r.left cur
        marks := e.marksAfter ws r.marks
        passed := e :: r.passed }

/-- Writes the bytes of a store that no later store covers, and leaves its words the marks that they come to. -/
def State.storeLeft (s : State) (who : Option HKey) (loc : Nat) (r : Sunk) (bad : Bool) : State :=
  if r.passed.isEmpty then s.storeBytes who loc r.left bad
  else
    let t := ((List.range r.left.length).zip r.left).foldl
      (fun s p => if r.passed.any (·.covers (loc + p.1) 1) then s else s.storeBytes who (loc + p.1) [p.2] bad) s
    let mark (p : List Nat) (w : Nat) : List Nat := if r.marks.contains w then insertSorted p w else p.filter (· != w)
    { t with poison := (wordsAt loc r.left.length).foldl mark t.poison }

/-- A buffered line after a store of the hart to `loc`, whose bytes became `bs` and whose words came to carry the marks `ms`. -/
def BufLine.stored (l : BufLine) (loc : Nat) (bs : List Byte) (bad : Bool) (ms : List Nat) : BufLine :=
  { l with
    bytes := (List.range 128).zip l.bytes |>.map fun p =>
      let a := l.line * 128 + p.1
      if loc ≤ a then (bs[a - loc]?).getD p.2 else p.2
    marks := (wordsAt (l.line * 128) 128).filter fun w =>
      if fillsWord loc bs.length w then ms.contains w
      else l.marks.contains w || (bad && touchesWord loc bs.length w && ms.contains w) }

/-- The hart's own stores update a buffered line (05 R83). -/
def Hart.updateBuffer (h : Hart) (loc : Nat) (bs : List Byte) (bad : Bool) (ms : List Nat) : Hart :=
  if h.rbuf.isEmpty then h else { h with rbuf := h.rbuf.map (·.stored loc bs bad ms) }

/-- The buffered lines of a hart without those that some bytes lie in. -/
def Hart.forgetLines (h : Hart) (loc n : Nat) : Hart :=
  { h with rbuf := h.rbuf.filter fun l => l.line * 128 + 128 ≤ loc || loc + n ≤ l.line * 128 }

/-- Whether a store of kind `k` may go before an earlier one of the strip: the latest that it overlaps is not ordered. -/
def mayPass (log : List StripStore) (k : StripKind) (loc n : Nat) : Bool :=
  match log.find? (·.covers loc n) with
  | some e => !e.stays k
  | none => false

/-- Where a store of kind `k` to `n` bytes goes in the order of a strip: a mask for `sink`. Where earlier accesses of the strip
stored some of these bytes, either value may remain, unless the two are ordered (05 R80, R81). -/
def State.stripMask (s : State) (log : List StripStore) (k : StripKind) (loc n : Nat) : Nat × State :=
  if mayPass log k loc n then (Config.free s.tick, { s with tick := s.tick + 1 }) else (0, s)

/-- A store of `n` bytes, `f` of the bytes at its place, put where `mask` says. -/
def State.sunk (s : State) (log : List StripStore) (k : StripKind) (rmw : Bool) (loc n : Nat) (f : List Byte → List Byte)
    (bad : Bool) (mask : Nat) : Sunk :=
  let put := if mask % 2 = 0 then onTop k rmw loc f bad log else sink k rmw loc f bad log mask
  put (s.mem.readBytes loc n) (marksIn s.poison loc n)

/-- A store of the hart in focus performs. -/
def State.perform (s : State) (loc : Nat) (r : Sunk) (bad : Bool) : State :=
  ((s.onHart fun h => { h with strip := r.log }).storeLeft (some s.h.key) loc r bad).onHart (·.updateBuffer loc r.left bad r.marks)

/-- A store of `n` bytes of the hart in focus, `f` of the bytes at its place (05 R81). It answers the bytes it found. -/
def State.stripModify (s : State) (k : StripKind) (rmw : Bool) (loc n : Nat) (f : List Byte → List Byte) (bad : Bool := false) :
    List Byte × State :=
  if regionOf loc = .link then s.remoteBytes n else
  let (mask, s) := s.stripMask s.h.strip k loc n
  let r := s.sunk s.h.strip k rmw loc n f bad mask
  (r.seen, s.perform loc r bad)

/-- A plain store of the hart in focus. -/
def State.stripStore (s : State) (k : StripKind) (loc : Nat) (bs : List Byte) (bad : Bool := false) : State :=
  if regionOf loc = .link then s else (s.stripModify k false loc bs.length (fun _ => bs) bad).2

/-- The vector instruction whose elements follow one another is at its end (05 R94): they are as other vector stores now. -/
def Hart.endElements (h : Hart) : Hart :=
  { h with strip := h.strip.map fun e => if e.kind == .element then { e with kind := .vector } else e }

/-- The strip of a hart. -/
def State.stripOf (s : State) (k : HKey) : List StripStore :=
  match s.hartOf? k with
  | some h => h.strip
  | none => []

/-- A store of an engine transfer of a hart: where earlier accesses of the strip stored some of these bytes, either value may
remain (05 R81, R84). An engine is an observer of its own (05 R78), whose stores the hart's later accesses follow (R85), so that
the hart keeps no buffered line of them (01 R16). -/
def State.engineStore (s : State) (k : HKey) (loc : Nat) (bs : List Byte) (bad : Bool := false) : State :=
  if regionOf loc = .link then s else
  let log := s.stripOf k
  let (mask, s) := s.stripMask log .vector loc bs.length
  let s := s.onKey k (·.forgetLines loc bs.length)
  if mask % 2 = 0 then s.storeBytes none loc bs bad
  else
    let r := s.sunk log .done false loc bs.length (fun _ => bs) bad mask
    (s.onKey k fun h => { h with strip := r.log }).storeLeft none loc r bad

/-! ### Plain accesses at a location -/

/-- Reads and writes that no strip holds back; another package's bytes are not held (log 20). -/
def State.rawRead (s : State) (loc n : Nat) : List Byte × State :=
  if regionOf loc = .link then s.remoteBytes n else (s.mem.readBytes loc n, s)
def State.rawWrite (s : State) (who : Option HKey) (loc : Nat) (bs : List Byte) (bad : Bool := false) : State :=
  if regionOf loc = .link then s else s.storeBytes who loc bs bad

/-! ### The read buffer (05 R83) -/

/-- Only device memory and host memory are buffered (05 R83). -/
def bufferable (loc : Nat) : Bool := regionOf loc == .device || regionOf loc == .host

/-- A scalar load has seen every store of the strip to some bytes: the buffer holds them all (05 R80, R83). -/
def Hart.sawStores (h : Hart) (loc n : Nat) : Hart :=
  { h with strip := h.strip.map fun e => if e.covers loc n then e.seenBy .scalar else e }

/-- A line as memory holds it now. -/
def State.lineNow (s : State) (line : Nat) : BufLine :=
  ⟨line, s.mem.readBytes (line * 128) 128, marksIn s.poison (line * 128) 128⟩
/-- `n` bytes of a line, from the one at `loc` on, and whether they carry a mark. -/
def BufLine.answer (l : BufLine) (loc n : Nat) : List Byte × Bool := ((l.bytes.drop (loc % 128)).take n, marked l.marks loc n)

/-- A plain scalar load of `n` bytes within a line, and whether they carry a mark: it may be answered from the buffer, and its line
enters it (log 7). -/
def State.bufferedLoad (s : State) (loc n : Nat) : (List Byte × Bool) × State :=
  let (now, s) := s.stripLoad s.h.strip .scalar loc n
  if !bufferable loc then (now, s) else
  let fresh := s.lineNow (loc / 128)
  match s.h.rbuf.find? (·.line == loc / 128) with
  | some l =>
    let held := l.answer loc n
    let (i, s) := if held == now then (0, s) else s.choose 2
    if i = 1 then (held, s.onHart (·.sawStores loc n))
    else (now, s.onHart fun h => { h with rbuf := updateFirst (·.line == loc / 128) (fun _ => fresh) h.rbuf })
  | none => (now, s.onHart fun h => { h with rbuf := (if h.rbuf.length < 4 then h.rbuf else h.rbuf.drop 1) ++ [fresh] })

/-! ### The Pillar table (05 R84 to R86) -/

/-- The locations, as runs from the first to past the last, that the leaves of a table give the addresses from `lo` up to
`hi`; `va` is the first address of the table. -/
def mappedRuns (m : Memory) (lo hi va table : Nat) : Nat → List (Nat × Nat)
  | 0 => []
  | n + 1 =>
    let size := 2 ^ (16 + 9 * n)
    let first := (lo - va) / size
    if regionOf table ≠ .device then [] else
    (List.range (min 512 ((hi - 1 - va) / size + 1) - first)).flatMap fun k =>
      let start := va + (first + k) * size
      let e := m.readNat (table + (first + k) * 8) 8
      let base := e / 4096 % 2 ^ 40 * 4096
      if e % 2 = 0 then []
      else if e / 2 % 2 = 1 then [(base + (lo - start), base + min size (hi - start))]
      else mappedRuns m lo hi start base n

/-- The locations behind the virtual addresses from `lo` up to `hi` (05 R76: a scratchpad has one set of bytes under both
its names). -/
def State.runsOf (s : State) (sp : Space) (lo hi : Nat) : List (Nat × Nat) :=
  (if localBase < hi then [(scratchLoc sp.stop + (lo - localBase), scratchLoc sp.stop + min 0x300000 (hi - localBase))] else [])
    ++ (if lo < hi ∧ lo < localBase then mappedRuns s.mem lo (min hi localBase) 0 (sp.ptbase.toNat / 4096 % 2 ^ 40 * 4096) 4 else [])

def runsMeet (as bs : List (Nat × Nat)) : Bool := as.any fun a => bs.any fun b => a.1 < b.2 && b.1 < a.2

/-- What of a range lies outside another. -/
def cutRange (w p : Nat × Nat) : List (Nat × Nat) := [(p.1, min p.2 w.1), (max p.1 w.2, p.2)].filter fun q => q.1 < q.2
/-- What of the range from `lo` up to `hi` an entry covers. -/
def Pillar.covered (p : Pillar) (lo hi : Nat) : List (Nat × Nat) :=
  p.holes.foldl (fun rs w => rs.flatMap (cutRange w)) ([(max lo p.lo, min hi p.hi)].filter fun q => q.1 < q.2)

/-- Whether an access in an address space to the bytes from `lo` up to `hi` conflicts with an entry of hart `k` among some
(05 R85). The ranges are virtual addresses, which conflict also where they name the same bytes, or places of register
memory (log 10). -/
def State.meets (s : State) (ps : List Pillar) (sp : Space) (k : HKey) (write : Bool) (space : PillarSpace) (lo hi : Nat) : Bool :=
  let ps := ps.filter fun p => p.owner == k && p.space == space && (write || p.write)
  ps.any (fun p => !(p.covered lo hi).isEmpty)
    || (space == .virt && ps.any fun p =>
      runsMeet (s.runsOf sp lo hi) ((p.covered p.lo p.hi).flatMap fun r => s.runsOf sp r.1 r.2))

/-- The entries that are older than those of a transfer: its accesses wait for them (05 R85). -/
def State.olderPillars (s : State) (id : Nat) : List Pillar :=
  if s.pillars.any (·.id == id) then s.pillars.takeWhile (·.id != id) else s.pillars.filter (·.id < id)

/-- The same for an access of the hart in focus, or of its engines, and every entry. -/
def State.conflict (s : State) (k : HKey) (write : Bool) (space : PillarSpace) (lo hi : Nat) : Bool :=
  s.meets s.pillars s.h.space k write space lo hi

/-- Whether pushes of a hart into registers of this package are not yet delivered. -/
def State.pushing (s : State) (k : HKey) : Bool := s.pushes.any fun p => p.owner == k && p.dest.isSome

/-- What a release waits for (05 R87): the earlier pushes of the hart have been delivered. Its other accesses perform in
program order (log 5), and are ordered before what follows. -/
def release : M Unit := do
  let s ← get
  if s.pushing s.h.key then stall
  modHart Hart.settle

/-- Waits until no entry conflicts (05 R85). -/
def awaitPillar (write : Bool) (space : PillarSpace) (lo hi : Nat) : M Unit := do
  let s ← get
  if s.conflict s.h.key write space lo hi then stall

/-- Entries in use at a core (05 R84). -/
def State.pillarsOf (s : State) (stop : Nat) : Nat := (s.pillars.filter (·.stop == stop)).length

/-- Waits until the Pillar table has room for `n` entries (05 R84); instructions that wait get freed entries in the order in
which they issued (02 R23). -/
def awaitEntries (n : Nat) : M Unit := do
  let s ← get
  let at' := s.h.pillarAt.getD s.nextId
  let ahead := s.others.any fun h => h.stop == s.h.stop && (match h.pillarAt with | some n => decide (n < at') | none => false)
  if ahead || 64 < s.pillarsOf s.h.stop + n then
    set { s with h := { s.h with pillarAt := some at' }, nextId := if s.h.pillarAt.isNone then s.nextId + 1 else s.nextId }
    stall

/-- Takes all entries of a transfer, or waits (05 R84); a transfer without entries takes none and waits for none. -/
def takePillars (ps : List Pillar) : M Unit := do
  if !ps.isEmpty then awaitEntries ps.length
  modify fun s => { s with pillars := s.pillars ++ ps, h := { s.h with pillarAt := none } }

/-- The Pillar entry that an instruction holds while it waits or performs: it takes the entry, or waits for room, before anything
else of it is performed (05 R84, 02 R23). -/
def heldEntry (entry : Nat → Pillar) : M Nat := do
  match (← hart).doing with
  | some (.entry id) => pure id
  | _ =>
    let id := (← get).nextId
    takePillars [entry id]
    modify fun s => { s with nextId := id + 1 }
    begin (.entry id)
    pure id

/-- Frees the entries of a transfer (05 R86). -/
def State.freePillars (s : State) (id : Nat) : State := { s with pillars := s.pillars.filter (·.id != id) }

end Sys2Proof.Machine
end

