-- ==== Sys2Proof/Machine/ControlSpace.lean ====
section
/-! DEFINITION. The control space (24 R354, R355): scheduler, core, stack, Assay, power, link and device blocks, with the
debug block of 08 R167 and the Assay nodes of 23 R351. -/
namespace Sys2Proof.Machine

/-! ### Debug block (08 R167, R168) -/

/-- The harts that a DBGCTL value selects on a core. -/
def Hart.selected (h : Hart) (stop : Nat) (ctl : Word) : Bool :=
  h.stop == stop && !h.saved && (ctl.getLsbD 12 || h.slot == ctl.toNat / 256 % 16)

/-- GOREQ: the hart resumes at its halt point (08 R168). -/
def Hart.go (h : Hart) : Hart := if h.halted then { h.closeStrip with halted := false } else h

/-- A write of DBGCTL: the slot and ALL are kept, HALTREQ and GOREQ act at once on the harts they select. The spec
gives no order to a write that sets both: GOREQ acts first (DESIGN CHOICE, log 89). -/
def State.debugControl (s : State) (stop : Nat) (v : Word) : State :=
  let act (h : Hart) : Hart :=
    if h.selected stop v then
      let h := if v.getLsbD 1 then h.go else h
      if v.getLsbD 0 && !h.halted then { h with haltReq := true } else h
    else h
  let s := { s with h := if s.h.live then act s.h else s.h, others := s.others.map act }
  s.setCore { s.core stop with dbgctl := v &&& 0x1F00 }

/-- DBGCTL as it reads. The spec does not say what HALTED reads while ALL selects several harts: it is 1 when every one of them is
halted (DESIGN CHOICE, log 88). -/
def State.debugStatus (s : State) (stop : Nat) : Word :=
  let ctl := (s.core stop).dbgctl
  let sel := s.harts.filter (·.selected stop ctl)
  ctl ||| (if !sel.isEmpty && sel.all (·.halted) then 0x10000 else 0)

/-- The hart whose registers DBGDATA reaches. The spec does not say what DBGDATA is where the slot holds no hart: its registers read
as zero and ignore writes (DESIGN CHOICE, log 90). -/
def State.debugHart (s : State) (stop : Nat) : Option Hart :=
  s.harts.find? fun h => h.stop == stop && !h.saved && h.slot == (s.core stop).dbgctl.toNat / 256 % 16

/-- Place of the register-memory word that an index of class 2 names. -/
def debugWord (stop idx : Nat) : Nat := regLoc stop (idx / 2048) (idx % 2048 * 8)

/-- DBGDATA read through DBGSEL. R167 does not say what a poisoned word of register memory reads as: it reads as the bits it holds
and raises nothing (DESIGN CHOICE, log 76). -/
def State.debugRead (s : State) (stop : Nat) : Word :=
  let sel := (s.core stop).dbgsel.toNat
  let idx := sel % 0x20000
  match sel / 0x10000000 with
  | 0 => if idx < 32 then (match s.debugHart stop with | some h => h.get (BitVec.ofNat 5 idx) | none => 0) else 0
  | 1 => if idx < 4096 then (match s.debugHart stop with | some h => s.crRead h idx | none => 0) else 0
  | 2 => BitVec.ofNat 64 (s.regs.readNat (debugWord stop idx) 8)
  | _ => 0

/-- DBGDATA written through DBGSEL. -/
def State.debugWrite (s : State) (stop : Nat) (v : Word) : State :=
  let sel := (s.core stop).dbgsel.toNat
  let idx := sel % 0x20000
  match sel / 0x10000000 with
  | 0 => if idx < 32 then (match s.debugHart stop with | some h => s.onKey h.key (·.set (BitVec.ofNat 5 idx) v) | none => s) else s
  | 1 => if idx < 4096 then
      (match s.debugHart stop with
      | some h =>
        let back := s.h.key
        let t := s.focus h.key
        let lvl := t.h.level
        let t := (t.onHart fun h => { h with level := .supervisor }).crWrite idx v
        (t.onHart fun h => { h with level := lvl }).focus back
      | none => s) else s
  | 2 => { s with
      regs := s.regs.writeNat (debugWord stop idx) 8 v.toNat
      regPoison := remark s.regPoison (debugWord stop idx) 8 false }
  | _ => s

/-! ### Assay nodes (23 R348, R351) -/

/-- Nodes of a level of the Assay tree. -/
def assayCount (level : Nat) : Nat := if level = 6 then 1 else 8388608 / 16 ^ level

/-- The 16 bytes of a node value, as they are concatenated; the first byte is bits [7:0] of the value (PRESUMED, log 18). -/
def nodeBytes (v : BitVec 128) : List Byte := leBytes 16 v.toNat

/-- The value of a node over a memory (23 R348). -/
def assayNode (m : Memory) : Nat → Nat → BitVec 128
  | 0, i => blake3 (m.readBytes (i * 65536) 65536)
  | k + 1, i =>
    blake3 ((List.range (if k = 5 then 8 else 16)).foldr (fun j bs => nodeBytes (assayNode m k (16 * i + j)) ++ bs) [])

/-- The node that NODESEL selects, in the last final epoch; before the first close no epoch is final and the value is
open (log 21). -/
def State.assaySelected (s : State) : BitVec 128 :=
  let sel := s.assay.nodesel.toNat
  let level := sel / 2 ^ 24 % 8
  let idx := sel % 2 ^ 23
  if assayCount level ≤ idx then 0
  else if s.assay.epoch = 0 && !s.assay.hashed then BitVec.ofNat 128 (Config.free s.tick)
  else assayNode s.assay.final level idx

def writeNodesel (old v : Word) : Word :=
  (if v.toNat / 2 ^ 24 % 8 = 7 then old &&& 0x7000000 else v &&& 0x7000000) ||| (v &&& 0x7FFFFF)

/-! ### Power (24 R362, R363) -/

/-- The clock floor of a mode in MHz. -/
def modeFloor (mode : Nat) : Nat := if mode = 0 then 2200 else if mode = 1 then 2400 else 1600

/-- A write of POWERCTL (24 R362, R363). -/
def State.writePowerctl (s : State) (v : Word) : State :=
  let m := v.toNat % 4
  if m = 3 then s
  else { s with powerMode := m, powerPending := true, powerFloor := min (modeFloor s.powerAct) (modeFloor m) }

/-- POWERSTAT as it reads (24 R362). -/
def State.powerstat (s : State) : Word :=
  (if s.therm then 0x8000000000000000 else 0) ||| (if s.powerOver then 0x4000000000000000 else 0)
    ||| BitVec.ofNat 64 (s.powerWatts.toNat * 2 ^ 32 + s.powerAct * 65536 + s.powerFloor)

/-- A write of the security-version register (24 R360). -/
def State.writeSecver (s : State) (v : Word) : State :=
  if s.secver.toNat < v.toNat && v.toNat ≤ 63 then { s with secver := v.setWidth 6 } else s

/-! ### Registers by address (24 R354) -/

/-- A register of the control space. -/
inductive Ctl where
  | pmin (die : Nat) | svec (die : Nat)
  | dbgctl (stop : Nat) | dbgsel (stop : Nat) | dbgdata (stop : Nat)
  | coreCount (stop : Nat) (uncorrectable : Bool) | stackCount (k : Nat) (uncorrectable : Bool)
  | nodesel | nodelo | nodehi | assayctl
  | powerctl | powerstat
  | linkState (j : Nat) | linkNode (j : Nat) | linkLoss (j : Nat)
  | devstat | secver
  deriving DecidableEq, Repr

/-- The register of the 8 bytes at an address. -/
def ctlOf (pa : Nat) : Option Ctl :=
  if pa < 0xF000028000000 then none else
  let o := pa - 0xF000028000000
  if o < 0x100000 then
    if o / 0x10000 < 4 then
      match o % 0x10000 with | 0 => some (.pmin (o / 0x10000)) | 8 => some (.svec (o / 0x10000)) | _ => none
    else none
  else if o < 0x200000 then
    let q := o - 0x100000
    if q / 0x1000 < 160 then
      match q % 0x1000 with
      | 0x00 => some (.dbgctl (q / 0x1000)) | 0x08 => some (.dbgsel (q / 0x1000)) | 0x10 => some (.dbgdata (q / 0x1000))
      | 0x18 => some (.coreCount (q / 0x1000) false) | 0x20 => some (.coreCount (q / 0x1000) true)
      | _ => none
    else none
  else if o < 0x300000 then
    let q := o - 0x200000
    if q / 0x1000 < 8 then
      match q % 0x1000 with
      | 0 => some (.stackCount (q / 0x1000) false) | 8 => some (.stackCount (q / 0x1000) true) | _ => none
    else none
  else if o < 0x400000 then
    match o - 0x300000 with
    | 0x00 => some .nodesel | 0x08 => some .nodelo | 0x10 => some .nodehi | 0x18 => some .assayctl | _ => none
  else if o < 0x500000 then
    match o - 0x400000 with | 0 => some .powerctl | 8 => some .powerstat | _ => none
  else if o < 0x600000 then
    let q := o - 0x500000
    if q / 0x100 < 12 then
      match q % 0x100 with
      | 0x00 => some (.linkState (q / 0x100)) | 0x08 => some (.linkNode (q / 0x100)) | 0x10 => some (.linkLoss (q / 0x100))
      | _ => none
    else none
  else
    match o - 0x600000 with | 0 => some .devstat | 8 => some .secver | _ => none

def State.link (s : State) (j : Nat) : Link := (s.links[j]?).getD {}

/-- The value of a register. -/
def State.ctlRead (s : State) : Ctl → Word
  | .pmin d => (s.die d).pmin
  | .svec d => (s.die d).svec
  | .dbgctl t => s.debugStatus t
  | .dbgsel t => (s.core t).dbgsel
  | .dbgdata t => s.debugRead t
  | .coreCount t u => if u then (s.core t).uncorrectable else (s.core t).corrected
  | .stackCount k u => let c := (s.hbm[k]?).getD (0, 0); if u then c.2 else c.1
  | .nodesel => s.assay.nodesel
  | .nodelo => s.assaySelected.extractLsb' 0 64
  | .nodehi => s.assaySelected.extractLsb' 64 64
  | .assayctl => s.assayCtl
  | .powerctl => BitVec.ofNat 64 s.powerMode
  | .powerstat => s.powerstat
  | .linkState j => if (s.link j).up then 1 else 0
  | .linkNode j => BitVec.ofNat 64 (s.link j).node
  | .linkLoss j => (s.link j).loss
  | .devstat => s.devstat
  | .secver => zx s.secver

/-- Whether reading a register shows an open value, so that the next one is another. -/
def Ctl.isOpen : Ctl → Bool
  | .nodelo | .nodehi => true
  | _ => false

/-- Writes a register; what R354 and its chapters give no write for ignores it. Counters are cleared by 0. -/
def State.ctlWrite (s : State) (v : Word) : Ctl → State
  | .pmin d => s.onDie d fun x => { x with pmin := v &&& 0xFF }
  | .svec d => s.onDie d fun x => { x with svec := v }
  | .dbgctl t => s.debugControl t v
  | .dbgsel t => s.setCore { s.core t with dbgsel := v &&& 0xF001FFFF }
  | .dbgdata t => s.debugWrite t v
  | .coreCount t u =>
    if v ≠ 0 then s else s.setCore (if u then { s.core t with uncorrectable := 0 } else { s.core t with corrected := 0 })
  | .stackCount k u =>
    if v ≠ 0 then s else
    let c := (s.hbm[k]?).getD (0, 0)
    { s with hbm := s.hbm.set! k (if u then (c.1, 0) else (0, c.2)) }
  | .nodesel => { s with assay := { s.assay with nodesel := writeNodesel s.assay.nodesel v } }
  | .assayctl => s.writeAssayCtl v
  | .powerctl => s.writePowerctl v
  | .linkNode j => { s with links := s.links.set! j { s.link j with node := v.toNat % 256 } }
  | .linkLoss j => if v ≠ 0 then s else { s with links := s.links.set! j { s.link j with loss := 0 } }
  | .secver => s.writeSecver v
  | .nodelo | .nodehi | .powerstat | .linkState _ | .devstat => s

/-- A hart's or the host's load of a register; none where nothing is (24 R354). -/
def State.ctlLoad (s : State) (pa : Nat) : Option Word × State :=
  match ctlOf pa with
  | some c => (some (s.ctlRead c), if c.isOpen then { s with tick := s.tick + 1 } else s)
  | none => (none, s)

end Sys2Proof.Machine
end

