-- ==== Sys2Proof/Machine/Scalar.lean ====
section
/-! DEFINITION. The scalar integer instructions, majors 0 to 3 (06 R99 to R102). None of them traps on its values. -/
namespace Sys2Proof.Machine

/-! ### Values -/

/-- 1 or 0. -/
def flag (b : Bool) : Word := if b then 1 else 0

/-- Bits 127 to 64 of the signed product (06 R99). -/
def mulHighS (x y : Word) : Word := (x.signExtend 128 * y.signExtend 128).extractLsb' 64 64
/-- Bits 127 to 64 of the natural product (06 R99). -/
def mulHighN (x y : Word) : Word := (x.zeroExtend 128 * y.zeroExtend 128).extractLsb' 64 64

/-- Signed quotient toward zero; what cannot be represented saturates (06 R100). -/
def divSigned {n : Nat} (x y : BitVec n) : BitVec n :=
  if y = 0 then (if x = 0 then 0 else if x.msb then BitVec.intMin n else BitVec.intMax n)
  else if x = BitVec.intMin n ∧ y = BitVec.allOnes n then BitVec.intMax n
  else x.sdiv y
/-- Natural quotient (06 R100). -/
def divNatural {n : Nat} (x y : BitVec n) : BitVec n :=
  if y = 0 then (if x = 0 then 0 else BitVec.allOnes n) else x / y
/-- Signed remainder with the sign of the dividend (06 R99, R100). -/
def remSigned {n : Nat} (x y : BitVec n) : BitVec n := if y = 0 then x else x.srem y
/-- Natural remainder (06 R99, R100). -/
def remNatural {n : Nat} (x y : BitVec n) : BitVec n := if y = 0 then x else x % y

def minSigned {n : Nat} (x y : BitVec n) : BitVec n := if y.slt x then y else x
def maxSigned {n : Nat} (x y : BitVec n) : BitVec n := if x.slt y then y else x
def minNatural {n : Nat} (x y : BitVec n) : BitVec n := if y.ult x then y else x
def maxNatural {n : Nat} (x y : BitVec n) : BitVec n := if x.ult y then y else x

/-- Leading zero bits of an `n`-bit value, `n` for zero. -/
def clzBits (n v : Nat) : Nat := if v = 0 then n else n - 1 - v.log2
/-- Trailing zero bits among the low `n` bits. -/
def ctzBits : Nat → Nat → Nat
  | 0, _ => 0
  | n + 1, v => if v % 2 = 1 then 0 else 1 + ctzBits n (v / 2)
/-- One bits among the low `n` bits. -/
def popcBits : Nat → Nat → Nat
  | 0, _ => 0
  | n + 1, v => v % 2 + popcBits n (v / 2)

def clz (x : Word) : Word := BitVec.ofNat 64 (clzBits 64 x.toNat)
def ctz (x : Word) : Word := BitVec.ofNat 64 (ctzBits 64 x.toNat)
def popc (x : Word) : Word := BitVec.ofNat 64 (popcBits 64 x.toNat)
/-- The eight bytes in reverse order. -/
def bswp (x : Word) : Word := BitVec.ofNat 64 (leNat (leBytes 8 x.toNat).reverse)

/-! ### Shapes -/

/-- s[a] := f(s[b], s[c]), one 32-bit word long (06 R99). -/
def binary (f : Word → Word → Word) (a b c : SReg) : M Unit := do
  wr a (f (← rd b) (← rd c))
  retire 4
/-- The 32-bit variant: on the low halves, the result sign-extended (06 R99). -/
def onWords (f : BitVec 32 → BitVec 32 → BitVec 32) (x y : Word) : Word := sx (f (x.setWidth 32) (y.setWidth 32))
/-- s[a] := f(s[b]). -/
def unary (f : Word → Word) (a b : SReg) : M Unit := do
  wr a (f (← rd b))
  retire 4
/-- s[a] := f(s[b], imm12 sign-extended) (06 R101). -/
def withImm (f : Word → Word → Word) (a b : SReg) (imm : BitVec 12) : M Unit := do
  wr a (f (← rd b) (sx imm))
  retire 4
/-- s[a] := f(s[b]) for a shift count of the instruction (06 R101). -/
def shiftImm (f : Word → Nat → Word) (a b : SReg) (n : BitVec 6) : M Unit := do
  wr a (f (← rd b) n.toNat)
  retire 4

/-! ### Meanings -/

def execAdd (a b c : SReg) : State → Host.Outcome State Fault Refusal := run (binary (fun x y => x + y) a b c)
def execSub (a b c : SReg) : State → Host.Outcome State Fault Refusal := run (binary (fun x y => x - y) a b c)
def execAnd (a b c : SReg) : State → Host.Outcome State Fault Refusal := run (binary (fun x y => x &&& y) a b c)
def execIor (a b c : SReg) : State → Host.Outcome State Fault Refusal := run (binary (fun x y => x ||| y) a b c)
def execXor (a b c : SReg) : State → Host.Outcome State Fault Refusal := run (binary (fun x y => x ^^^ y) a b c)
def execLsl (a b c : SReg) : State → Host.Outcome State Fault Refusal := run (binary (fun x y => x <<< (y.toNat % 64)) a b c)
def execLsr (a b c : SReg) : State → Host.Outcome State Fault Refusal := run (binary (fun x y => x >>> (y.toNat % 64)) a b c)
def execAsr (a b c : SReg) : State → Host.Outcome State Fault Refusal := run (binary (fun x y => x.sshiftRight (y.toNat % 64)) a b c)
def execMul (a b c : SReg) : State → Host.Outcome State Fault Refusal := run (binary (fun x y => x * y) a b c)
def execMulhs (a b c : SReg) : State → Host.Outcome State Fault Refusal := run (binary (fun x y => mulHighS x y) a b c)
def execMulhn (a b c : SReg) : State → Host.Outcome State Fault Refusal := run (binary (fun x y => mulHighN x y) a b c)
def execDivs (a b c : SReg) : State → Host.Outcome State Fault Refusal := run (binary (fun x y => divSigned x y) a b c)
def execDivn (a b c : SReg) : State → Host.Outcome State Fault Refusal := run (binary (fun x y => divNatural x y) a b c)
def execRems (a b c : SReg) : State → Host.Outcome State Fault Refusal := run (binary (fun x y => remSigned x y) a b c)
def execRemn (a b c : SReg) : State → Host.Outcome State Fault Refusal := run (binary (fun x y => remNatural x y) a b c)
def execSlt (a b c : SReg) : State → Host.Outcome State Fault Refusal := run (binary (fun x y => flag (x.slt y)) a b c)
def execSltn (a b c : SReg) : State → Host.Outcome State Fault Refusal := run (binary (fun x y => flag (x.ult y)) a b c)
def execMins (a b c : SReg) : State → Host.Outcome State Fault Refusal := run (binary (fun x y => minSigned x y) a b c)
def execMaxs (a b c : SReg) : State → Host.Outcome State Fault Refusal := run (binary (fun x y => maxSigned x y) a b c)
def execMinn (a b c : SReg) : State → Host.Outcome State Fault Refusal := run (binary (fun x y => minNatural x y) a b c)
def execMaxn (a b c : SReg) : State → Host.Outcome State Fault Refusal := run (binary (fun x y => maxNatural x y) a b c)
def execAddw (a b c : SReg) : State → Host.Outcome State Fault Refusal := run (binary (onWords fun x y => x + y) a b c)
def execSubw (a b c : SReg) : State → Host.Outcome State Fault Refusal := run (binary (onWords fun x y => x - y) a b c)
def execLslw (a b c : SReg) : State → Host.Outcome State Fault Refusal := run (binary (onWords fun x y => x <<< (y.toNat % 32)) a b c)
def execLsrw (a b c : SReg) : State → Host.Outcome State Fault Refusal := run (binary (onWords fun x y => x >>> (y.toNat % 32)) a b c)
def execAsrw (a b c : SReg) : State → Host.Outcome State Fault Refusal := run (binary (onWords fun x y => x.sshiftRight (y.toNat % 32)) a b c)
def execMulw (a b c : SReg) : State → Host.Outcome State Fault Refusal := run (binary (onWords fun x y => x * y) a b c)
def execDivsw (a b c : SReg) : State → Host.Outcome State Fault Refusal := run (binary (onWords fun x y => divSigned x y) a b c)
def execDivnw (a b c : SReg) : State → Host.Outcome State Fault Refusal := run (binary (onWords fun x y => divNatural x y) a b c)
def execRemsw (a b c : SReg) : State → Host.Outcome State Fault Refusal := run (binary (onWords fun x y => remSigned x y) a b c)
def execRemnw (a b c : SReg) : State → Host.Outcome State Fault Refusal := run (binary (onWords fun x y => remNatural x y) a b c)
def execClz (a b : SReg) : State → Host.Outcome State Fault Refusal := run (unary clz a b)
def execCtz (a b : SReg) : State → Host.Outcome State Fault Refusal := run (unary ctz a b)
def execPopc (a b : SReg) : State → Host.Outcome State Fault Refusal := run (unary popc a b)
def execBswp (a b : SReg) : State → Host.Outcome State Fault Refusal := run (unary bswp a b)
def execAddi (a b : SReg) (imm : BitVec 12) : State → Host.Outcome State Fault Refusal := run (withImm (fun x i => x + i) a b imm)
def execAndi (a b : SReg) (imm : BitVec 12) : State → Host.Outcome State Fault Refusal := run (withImm (fun x i => x &&& i) a b imm)
def execIori (a b : SReg) (imm : BitVec 12) : State → Host.Outcome State Fault Refusal := run (withImm (fun x i => x ||| i) a b imm)
def execXori (a b : SReg) (imm : BitVec 12) : State → Host.Outcome State Fault Refusal := run (withImm (fun x i => x ^^^ i) a b imm)
def execSlti (a b : SReg) (imm : BitVec 12) : State → Host.Outcome State Fault Refusal := run (withImm (fun x i => flag (x.slt i)) a b imm)
def execLsli (a b : SReg) (n : BitVec 6) : State → Host.Outcome State Fault Refusal := run (shiftImm (fun x n => x <<< n) a b n)
def execLsri (a b : SReg) (n : BitVec 6) : State → Host.Outcome State Fault Refusal := run (shiftImm (fun x n => x >>> n) a b n)
def execAsri (a b : SReg) (n : BitVec 6) : State → Host.Outcome State Fault Refusal := run (shiftImm (fun x n => x.sshiftRight n) a b n)
/-- imm20 · 4,096 sign-extended from bit 31 (06 R102). -/
def execLih (a : SReg) (imm : BitVec 20) : State → Host.Outcome State Fault Refusal := run do
  wr a (sx (imm ++ 0#12))
  retire 4
/-- The instruction's own address plus imm20 · 4,096 (06 R102). -/
def execAddpc (a : SReg) (imm : BitVec 20) : State → Host.Outcome State Fault Refusal := run do
  wr a ((← hart).pc + sx (imm ++ 0#12))
  retire 4

end Sys2Proof.Machine
end

