-- ==== Sys2Proof/Machine/LoadStore.lean ====
section
/-! DEFINITION. Scalar loads, stores and atomics, majors 4 to 8 (06 R103 to R105, 05 R91, R93). -/
namespace Sys2Proof.Machine

/-! ### Accesses -/

/-- Bytes of an access (01 R11). -/
def memBytes : MemSize → Nat
  | .b | .bs => 1
  | .h | .hs => 2
  | .w | .ws => 4
  | .d => 8
def memSigned : MemSize → Bool
  | .bs | .hs | .ws => true
  | _ => false

/-- An `n`-byte value extended to a word (01 R11). -/
def extend (n : Nat) (signed : Bool) (v : Nat) : Word :=
  if signed && 2 ^ (8 * n - 1) ≤ v then BitVec.ofNat 64 (v + 2 ^ 64 - 2 ^ (8 * n)) else BitVec.ofNat 64 v

/-- A control-space access by a hart must be an aligned doubleword above user level (24 R355). -/
def ctlAllowed (ea : Word) (n : Nat) : M Unit := do
  if (← hart).level == .user || n != 8 || ea.toNat % 8 != 0 then trap 6 ea

/-- Data that an instruction uses, as they were read at `ea`: with a mark they raise cause 13 (08 R165). -/
def useBytes (ea : Word) (r : List Byte × Bool) : M (List Byte) := do
  if r.2 then trap 13 ea
  pure r.1

/-- The locations of the bytes of a misaligned access, all translated before any is accessed (05 R91). -/
def locateBytes (ea : Word) (acc : Access) : Nat → M (List Nat)
  | 0 => pure []
  | n + 1 => do
    let loc ← locate ea acc
    if regionOf loc = .control then trap 6 ea
    let rest ← locateBytes (ea + 1) acc n
    pure (loc :: rest)

/-- Loads the bytes of one location for a scalar register, at the address `ea`: a plain load through the read buffer, any other
load from memory. -/
def loadBytes (plain : Bool) (ea : Word) (loc n : Nat) : M (List Byte) := do
  useBytes ea (← modifyGet fun s => if plain then s.bufferedLoad loc n else s.stripLoad s.h.strip .scalar loc n)

/-- A misaligned plain load, byte by byte (05 R91). -/
def loadEach (ea : Word) : List Nat → M (List Byte)
  | [] => pure []
  | loc :: rest => do
    let b ← loadBytes true ea loc 1
    let bs ← loadEach ea rest
    pure (b ++ bs)

/-- A scalar load of `n` bytes (06 R103). -/
def scalarLoad (plain : Bool) (ea : Word) (n : Nat) : M Nat := do
  if ea.toNat % n = 0 then
    let loc ← locate ea .load
    if regionOf loc = .control then
      ctlAllowed ea n
      match ← modifyGet fun s => s.ctlLoad loc with
      | some v => pure v.toNat
      | none => trap 6 ea
    else
      awaitPillar false .virt ea.toNat (ea.toNat + n)
      return leNat (← loadBytes plain ea loc n)
  else if plain then
    let locs ← locateBytes ea .load n
    awaitPillar false .virt ea.toNat (ea.toNat + n)
    return leNat (← loadEach ea locs)
  else trap 2 ea

/-- One doubleword of a record that an instruction reads. -/
def recordWord (ea : Word) : M Word := do
  let loc ← locate ea .load
  if regionOf loc = .control then trap 6 ea
  awaitPillar false .virt ea.toNat (ea.toNat + 8)
  return BitVec.ofNat 64 (leNat (← loadBytes false ea loc 8))

/-- `n` doublewords of a record. -/
def recordWords (ea : Word) : Nat → M (List Word)
  | 0 => pure []
  | n + 1 => do
    let w ← recordWord ea
    let ws ← recordWords (ea + 8) n
    pure (w :: ws)

/-- One store of the hart in focus as a scalar access of the open strip. -/
def storeAt (loc : Nat) (bs : List Byte) : M Unit := modify fun s => s.stripStore .scalar loc bs

def storeEach : List Nat → List Byte → M Unit
  | l :: ls, b :: bs => do
    storeAt l [b]
    storeEach ls bs
  | _, _ => pure ()

/-- A scalar store of the low `n` bytes (06 R103). -/
def scalarStore (plain : Bool) (ea : Word) (n : Nat) (v : Word) : M Unit := do
  if ea.toNat % n = 0 then
    let loc ← locate ea .store
    if regionOf loc = .control then
      ctlAllowed ea n
      match ctlOf loc with
      | some c => modify fun s => s.ctlWrite v c
      | none => trap 6 ea
    else
      awaitPillar true .virt ea.toNat (ea.toNat + n)
      storeAt loc (leBytes n v.toNat)
  else if plain then
    let locs ← locateBytes ea .store n
    awaitPillar true .virt ea.toNat (ea.toNat + n)
    storeEach locs (leBytes n v.toNat)
  else trap 2 ea

/-- The effective address (06 R103). -/
def effAddr (b : SReg) (imm : BitVec 12) : M Word := return (← rd b) + sx imm

/-! ### Atomics -/

/-- A read-modify-write of the `n` bytes at `loc`, by a store of kind `k`, put where `mask` says (05 R93): `f` of what it finds. A
mark there raises cause 13 before anything is stored (08 R165). -/
def modifyAt (ea : Word) (k : StripKind) (loc n : Nat) (f : Nat → Nat) (mask : Nat) : M Nat := do
  if regionOf loc = .link then return leNat (← modifyGet fun s => s.remoteBytes n)
  let s ← get
  let r := s.sunk s.h.strip k true loc n (fun bs => leBytes n (f (leNat bs))) false mask
  let bs ← useBytes ea (r.seen, !r.found.isEmpty)
  modify fun s => s.perform loc r false
  pure (leNat bs)
/-- The same, put where the strip lets it go. -/
def modifyMemory (ea : Word) (k : StripKind) (loc n : Nat) (f : Nat → Nat) : M Nat := do
  let mask ← modifyGet fun s => s.stripMask s.h.strip k loc n
  modifyAt ea k loc n f mask

/-- One read-modify-write of `n` bytes (05 R93, 06 R104, R105): faults are those of a store. -/
def atomicRmw (ea : Word) (n : Nat) (f : Nat → Nat) : M Nat := do
  if ea.toNat % n ≠ 0 then trap 2 ea
  let loc ← locate ea .store
  if regionOf loc = .control then trap 6 ea
  awaitPillar true .virt ea.toNat (ea.toNat + n)
  modifyMemory ea .scalar loc n f

/-- An atomic of 06 R104: `f` on the word or the doubleword, given the operand. -/
def atomic (f : {n : Nat} → BitVec n → BitVec n → BitVec n) (o : AtOps) : M Unit := do
  if o.ord ≠ 0 then closeStrip
  if 2 ≤ o.ord.toNat then release
  let ea ← rd o.b
  let x ← rd o.c
  if o.dbl then
    let old ← atomicRmw ea 8 fun m => (f (BitVec.ofNat 64 m) x).toNat
    wr o.a (BitVec.ofNat 64 old)
  else
    let old ← atomicRmw ea 4 fun m => (f (BitVec.ofNat 32 m) (x.setWidth 32)).toNat
    wr o.a (sx (BitVec.ofNat 32 old))
  if o.ord ≠ 0 then closeStrip
  retire 4

/-! ### Meanings -/

def execLd (sz : MemSize) (a b : SReg) (imm : BitVec 12) : State → Host.Outcome State Fault Refusal := run do
  let ea ← effAddr b imm
  let v ← scalarLoad true ea (memBytes sz)
  wr a (extend (memBytes sz) (memSigned sz) v)
  retire 4
/-- An acquire that closes the strip (06 R103, 05 R81, R87). -/
def execLda (sz : MemSize) (a b : SReg) (imm : BitVec 12) : State → Host.Outcome State Fault Refusal := run do
  closeStrip
  let ea ← effAddr b imm
  let v ← scalarLoad false ea (memBytes sz)
  wr a (extend (memBytes sz) (memSigned sz) v)
  retire 4
def execSt (sz : MemSize) (a b : SReg) (imm : BitVec 12) : State → Host.Outcome State Fault Refusal := run do
  let ea ← effAddr b imm
  scalarStore true ea (memBytes sz) (← rd a)
  retire 4
/-- A release that closes the strip (06 R103, 05 R81, R87). -/
def execStl (sz : MemSize) (a b : SReg) (imm : BitVec 12) : State → Host.Outcome State Fault Refusal := run do
  closeStrip
  release
  let ea ← effAddr b imm
  scalarStore false ea (memBytes sz) (← rd a)
  closeStrip
  retire 4

def execAadd (o : AtOps) : State → Host.Outcome State Fault Refusal := run (atomic (fun m x => m + x) o)
def execAand (o : AtOps) : State → Host.Outcome State Fault Refusal := run (atomic (fun m x => m &&& x) o)
def execAior (o : AtOps) : State → Host.Outcome State Fault Refusal := run (atomic (fun m x => m ||| x) o)
def execAxor (o : AtOps) : State → Host.Outcome State Fault Refusal := run (atomic (fun m x => m ^^^ x) o)
def execAmins (o : AtOps) : State → Host.Outcome State Fault Refusal := run (atomic (fun m x => minSigned m x) o)
def execAmaxs (o : AtOps) : State → Host.Outcome State Fault Refusal := run (atomic (fun m x => maxSigned m x) o)
def execAminn (o : AtOps) : State → Host.Outcome State Fault Refusal := run (atomic (fun m x => minNatural m x) o)
def execAmaxn (o : AtOps) : State → Host.Outcome State Fault Refusal := run (atomic (fun m x => maxNatural m x) o)
def execAswp (o : AtOps) : State → Host.Outcome State Fault Refusal := run (atomic (fun _ x => x) o)
/-- The comparand is s[a], at 32 bits for a word; the write is made either way (06 R104). -/
def execAcas (o : AtOps) : State → Host.Outcome State Fault Refusal := run do
  let e ← rd o.a
  atomic (fun {n} m x => if m = e.setWidth n then x else m) o

end Sys2Proof.Machine
end

