-- ==== Sys2Proof/Machine/Number.lean ====
section
/-! DEFINITION. Number formats, exact values, rounding and conversion (04 R47 to R60, R64, R65). -/
namespace Sys2Proof.Machine

/-! ### Exact values -/

/-- A value of a format: a sign and an exact magnitude `n / d`, an infinity, or a NaN, signalling or quiet. -/
inductive Num where
  | fin (neg : Bool) (n d : Nat)
  | inf (neg : Bool)
  | nan (signalling : Bool)
  deriving DecidableEq, Repr

/-- Flags in the order of TE (04 R56): NX, UF, OF, DZ, NV. -/
abbrev Flags := BitVec 5
def NX : Flags := 1
def UF : Flags := 2
def OF : Flags := 4
def DZ : Flags := 8
def NV : Flags := 16

/-- An integer as an exact value. -/
def Num.ofInt (v : Int) : Num := .fin (v < 0) v.natAbs 1
def Num.zero : Num := .fin false 0 1

def Num.isNan : Num → Bool
  | .nan _ => true
  | _ => false
def Num.signals : Num → Bool
  | .nan s => s
  | _ => false
def Num.isZero : Num → Bool
  | .fin _ n _ => n == 0
  | _ => false
def Num.isInf : Num → Bool
  | .inf _ => true
  | _ => false
def Num.isFinite : Num → Bool
  | .fin .. => true
  | _ => false
def Num.neg? : Num → Bool
  | .fin s _ _ => s
  | .inf s => s
  | .nan _ => false
def Num.negate : Num → Num
  | .fin s n d => .fin (!s) n d
  | .inf s => .inf (!s)
  | .nan x => .nan x
def Num.abs : Num → Num
  | .fin _ n d => .fin false n d
  | .inf _ => .inf false
  | .nan x => .nan x
/-- The flag that a signalling operand raises (04 R48). -/
def nvIf (b : Bool) : Flags := if b then NV else 0

/-- The numerator of a finite value with its sign. -/
def signed (neg : Bool) (n : Nat) : Int := if neg then -(n : Int) else n

/-- A finite value of a signed numerator; `zneg` is the sign of a zero. -/
def Num.ofRat (v : Int) (d : Nat) (zneg : Bool := false) : Num := .fin (if v = 0 then zneg else v < 0) v.natAbs d

/-- The sum of two finite magnitudes with signs, as numerator and denominator. -/
def addRat (an : Int) (ad : Nat) (bn : Int) (bd : Nat) : Int × Nat :=
  if ad = bd then (an + bn, ad) else (an * bd + bn * ad, ad * bd)

/-- An exact sum of terms (04 R55): NaN for +∞ with −∞ and for a NaN term; an exact zero is +0, or −0 under RDN, unless every
term is a zero of the same sign. The second part holds the NV of a signalling term or of +∞ with −∞ (15 R268). -/
def sumOf (rdn : Bool) (ts : List Num) : Num × Flags :=
  let p := ts.any fun t => t.isInf && !t.neg?
  let m := ts.any fun t => t.isInf && t.neg?
  let nv := nvIf (ts.any (·.signals) || p && m)
  if ts.any (·.isNan) || p && m then (.nan false, nv)
  else if p || m then (.inf m, nv)
  else
    let (v, d) := ts.foldl (fun acc t => match t with
      | .fin s n d => addRat acc.1 acc.2 (signed s n) d
      | _ => acc) (0, 1)
    let same (s : Bool) : Bool := ts.all fun t => t.isZero && t.neg? == s
    (.ofRat v d (if same true then true else if same false then false else rdn), nv)

/-- An exact product; ∞ · 0 is NaN with NV (04 R47 to R48, 06 R107). -/
def mulOf (a b : Num) : Num × Flags :=
  let nv := nvIf (a.signals || b.signals)
  match a, b with
  | .nan _, _ => (.nan false, nv)
  | _, .nan _ => (.nan false, nv)
  | .inf s, .inf t => (.inf (s != t), nv)
  | .inf s, .fin t n _ => if n = 0 then (.nan false, nv ||| NV) else (.inf (s != t), nv)
  | .fin t n _, .inf s => if n = 0 then (.nan false, nv ||| NV) else (.inf (s != t), nv)
  | .fin s n d, .fin t m e => (.fin (s != t) (n * m) (d * e), nv)

/-- An exact quotient (06 R107): finite ≠ 0 by zero is an infinity with DZ; 0/0 and ∞/∞ are NaN with NV. -/
def divOf (a b : Num) : Num × Flags :=
  let nv := nvIf (a.signals || b.signals)
  match a, b with
  | .nan _, _ => (.nan false, nv)
  | _, .nan _ => (.nan false, nv)
  | .inf _, .inf _ => (.nan false, nv ||| NV)
  | .inf s, .fin t _ _ => (.inf (s != t), nv)
  | .fin s _ _, .inf t => (.fin (s != t) 0 1, nv)
  | .fin s n d, .fin t m e =>
    if m = 0 then (if n = 0 then (.nan false, nv ||| NV) else (.inf (s != t), nv ||| DZ))
    else (.fin (s != t) (n * e) (d * m), nv)

/-- Whether a finite or infinite value is below another; false with a NaN. -/
def Num.lt : Num → Num → Bool
  | .fin s n d, .fin t m e => signed s n * e < signed t m * d
  | .inf s, .inf t => s && !t
  | .inf s, .fin .. => s
  | .fin .., .inf t => !t
  | _, _ => false
/-- Equality of values, +0 = −0; false with a NaN. -/
def Num.eq : Num → Num → Bool
  | .fin s n d, .fin t m e => signed s n * e == signed t m * d
  | .inf s, .inf t => s == t
  | _, _ => false

/-- The minimum rule of 06 R107: −0 below +0; a quiet NaN beside a number gives the number; two NaNs the canonical NaN;
a signalling NaN raises NV. The third part says which operand was chosen (false the first). -/
def minOf (a b : Num) : Num × Flags × Bool :=
  let nv := nvIf (a.signals || b.signals)
  if a.isNan then (if b.isNan then .nan false else b, nv, true)
  else if b.isNan then (a, nv, false)
  else if b.lt a || (a.isZero && b.isZero && b.neg? && !a.neg?) then (b, nv, true)
  else (a, nv, false)
/-- The maximum rule of 06 R107. -/
def maxOf (a b : Num) : Num × Flags × Bool :=
  let nv := nvIf (a.signals || b.signals)
  if a.isNan then (if b.isNan then .nan false else b, nv, true)
  else if b.isNan then (a, nv, false)
  else if a.lt b || (a.isZero && b.isZero && a.neg? && !b.neg?) then (b, nv, true)
  else (a, nv, false)

/-! ### Formats -/

/-- What a NaN looks like in a floating format (04 R47, R48). -/
inductive NanKind where
  | ieee | e4m3 | none
  deriving DecidableEq, Repr

/-- A floating format: exponent and fraction bits, bias, whether it has infinity, its NaNs (04 R47). -/
structure FloatFmt where
  exp : Nat
  frac : Nat
  bias : Nat
  hasInf : Bool
  nan : NanKind
  deriving DecidableEq, Repr

def fp64 : FloatFmt := ⟨11, 52, 1023, true, .ieee⟩
def fp32 : FloatFmt := ⟨8, 23, 127, true, .ieee⟩
def fp16 : FloatFmt := ⟨5, 10, 15, true, .ieee⟩
def bf16 : FloatFmt := ⟨8, 7, 127, true, .ieee⟩
def e4m3 : FloatFmt := ⟨4, 3, 7, false, .e4m3⟩
def e5m2 : FloatFmt := ⟨5, 2, 15, true, .ieee⟩
def e2m3 : FloatFmt := ⟨2, 3, 1, false, .none⟩
def e3m2 : FloatFmt := ⟨3, 2, 3, false, .none⟩
def e2m1 : FloatFmt := ⟨2, 1, 1, false, .none⟩

/-- What a format code names (04 R51); an MX code has the element format and the flag `mx`. -/
inductive Fmt where
  | float (f : FloatFmt) (mx : Bool)
  | mxint8
  | e8m0
  | int (signed : Bool) (w : Nat) (sliced : Bool)
  | none
  | reserved
  deriving DecidableEq, Repr

/-- The format code table (04 R51). -/
def fmtOf (code : Nat) : Fmt :=
  match code with
  | 0 => .none
  | 1 => .float fp64 false | 2 => .float fp32 false | 3 => .float fp16 false | 4 => .float bf16 false
  | 5 => .float e4m3 false | 6 => .float e5m2 false | 7 => .float e2m3 false | 8 => .float e3m2 false
  | 9 => .float e2m1 false | 10 => .e8m0
  | 11 => .int true 8 false | 12 => .int true 16 false | 13 => .int true 32 false | 14 => .int true 64 false
  | 15 => .int false 8 false | 16 => .int false 16 false | 17 => .int false 32 false | 18 => .int false 64 false
  | 19 => .float e4m3 true | 20 => .float e5m2 true | 21 => .float e2m3 true | 22 => .float e3m2 true
  | 23 => .float e2m1 true | 24 => .mxint8
  | c => if 32 ≤ c ∧ c < 48 then .int true (c - 31) true else if 48 ≤ c ∧ c < 64 then .int false (c - 47) true else .reserved

/-- Bits of a value of a floating format. -/
def FloatFmt.bits (f : FloatFmt) : Nat := 1 + f.exp + f.frac

/-- Element width in bits: 6-bit formats occupy 8-bit elements (04 R47, R53). -/
def Fmt.width : Fmt → Nat
  | .float f _ => if f.bits = 6 then 8 else f.bits
  | .mxint8 | .e8m0 => 8
  | .int _ w _ => w
  | .none | .reserved => 0

/-- The low bits of a register that a value of the format occupies (10 R199); 6-bit formats leave bits 7 and 6 zero
(04 R47). -/
def Fmt.low (f : Fmt) (v : Nat) : Nat :=
  match f with
  | .float g _ => v % 2 ^ g.bits
  | f => v % 2 ^ f.width

/-- MX codes (04 R51). -/
def Fmt.isMx : Fmt → Bool
  | .float _ mx => mx
  | .mxint8 => true
  | _ => false
/-- The floating class of 10 R201. -/
def Fmt.isFloat : Fmt → Bool
  | .float .. | .mxint8 => true
  | _ => false
/-- The integer class of 10 R201. -/
def Fmt.isInt : Fmt → Bool
  | .int .. => true
  | _ => false
def Fmt.isSliced : Fmt → Bool
  | .int _ _ s => s
  | _ => false

/-- The largest finite code of a floating format. -/
def FloatFmt.maxCode (f : FloatFmt) : Nat :=
  match f.nan with
  | .ieee => (2 ^ f.exp - 1) * 2 ^ f.frac - 1
  | .e4m3 => 2 ^ (f.exp + f.frac) - 2
  | .none => 2 ^ (f.exp + f.frac) - 1

/-- The canonical NaN (04 R48). -/
def FloatFmt.canonical (f : FloatFmt) : Nat :=
  match f.nan with
  | .ieee => (2 ^ f.exp - 1) * 2 ^ f.frac + 2 ^ (f.frac - 1)
  | .e4m3 => 2 ^ (f.exp + f.frac) - 1
  | .none => 0

/-- The magnitude of a finite code. -/
def FloatFmt.magnitude (f : FloatFmt) (code : Nat) : Nat × Nat :=
  let e := code / 2 ^ f.frac
  let m := code % 2 ^ f.frac
  let sig := if e = 0 then m else 2 ^ f.frac + m
  let e' := if e = 0 then 1 else e          -- value sig · 2^(e' − bias − frac)
  let up := e' - (f.bias + f.frac)
  let down := f.bias + f.frac - e'
  (sig * 2 ^ up, 2 ^ down)

/-- The value of a bit pattern of a floating format (04 R47). -/
def FloatFmt.value (f : FloatFmt) (bits : Nat) : Num :=
  let code := bits % 2 ^ (f.exp + f.frac)
  let s := bits / 2 ^ (f.exp + f.frac) % 2 = 1
  if code ≤ f.maxCode then let m := f.magnitude code; .fin s m.1 m.2
  else match f.nan with
    | .ieee => if code = f.maxCode + 1 then .inf s else .nan (code / 2 ^ (f.frac - 1) % 2 = 0)
    | _ => .nan false

/-- A bit pattern of `w` bits as a signed or natural integer. -/
def intValue (signed : Bool) (w bits : Nat) : Int :=
  let v := bits % 2 ^ w
  if signed && 2 ^ w ≤ 2 * v then (v : Int) - 2 ^ w else v

/-- The value of an E8M0 code (04 R49). -/
def scaleValue (code : Nat) : Num :=
  if code % 256 = 255 then .nan false else .fin false (2 ^ (code % 256 - 127)) (2 ^ (127 - code % 256))

/-- The value of an element under a format; an MX element without its scale (04 R47 to R51). -/
def Fmt.value (f : Fmt) (bits : Nat) : Num :=
  match f with
  | .float g _ => g.value bits
  | .mxint8 => let v := intValue true 8 bits; .fin (v < 0) v.natAbs 64
  | .e8m0 => scaleValue bits
  | .int sg w _ => .ofInt (intValue sg w bits)
  | .none | .reserved => .zero

/-! ### Rounding -/

/-- The rounding modes (04 R52). -/
inductive Rm where
  | rne | rtz | rdn | rup | rna | stoch | odd
  deriving DecidableEq, Repr

def rmOf (n : Nat) : Rm :=
  match n with
  | 0 => .rne | 1 => .rtz | 2 => .rdn | 3 => .rup | 4 => .rna | 5 => .stoch | _ => .odd

/-- ⌊log₂(n / d)⌋ for a positive n / d. -/
def log2Rat (n d : Nat) : Int :=
  let e : Int := (n.log2 : Int) - d.log2
  let ge : Bool := if 0 ≤ e then d * 2 ^ e.toNat ≤ n else d ≤ n * 2 ^ (-e).toNat
  if ge then e else e - 1

/-- Kept part and discarded fraction `r / m` of n / d in units of 2^q. -/
def splitAt (n d : Nat) (q : Int) : Nat × Nat × Nat :=
  let n' := n * 2 ^ (-q).toNat
  let m := d * 2 ^ q.toNat
  (n' / m, n' % m, m)

/-- The kept part after rounding (04 R55, R65), with the random word of R64. -/
def roundKept (rm : Rm) (rnd : Nat) (neg : Bool) (kept r m : Nat) : Nat :=
  if r = 0 then kept else
  match rm with
  | .rne => if m < 2 * r ∨ (2 * r = m ∧ kept % 2 = 1) then kept + 1 else kept
  | .rtz => kept
  | .rdn => if neg then kept + 1 else kept
  | .rup => if neg then kept else kept + 1
  | .rna => if m ≤ 2 * r then kept + 1 else kept
  | .stoch => if 2 ^ 32 * m ≤ rnd * m + r * 2 ^ 32 then kept + 1 else kept
  | .odd => if kept % 2 = 0 then kept + 1 else kept

/-- Rounds n / d to a multiple of 2^q: the multiple, and whether it differs. -/
def roundTo (rm : Rm) (rnd : Nat) (neg : Bool) (n d : Nat) (q : Int) : Nat × Bool :=
  let (k, r, m) := splitAt n d q
  (roundKept rm rnd neg k r m, r != 0)

/-- A bit pattern and the flags that writing it raises. -/
structure Fitted where
  bits : Nat
  flags : Flags
  deriving DecidableEq, Repr

/-- The sign bit of a floating format. -/
def FloatFmt.signBit (f : FloatFmt) (neg : Bool) : Nat := if neg then 2 ^ (f.exp + f.frac) else 0

/-- A finite overflow (04 R58, R59); `up` says that the rounding step rounded up. Under SAT = 0 it raises OF and NX
(log 13). -/
def FloatFmt.overflow (f : FloatFmt) (rm : Rm) (sat neg up : Bool) : Fitted :=
  let max := f.signBit neg + f.maxCode
  if f.hasInf then
    let toInf := match rm with
      | .rne | .rna => true
      | .rtz | .odd => false
      | .rdn => neg
      | .rup => !neg
      | .stoch => up
    if !sat && toInf then ⟨max + 1, OF ||| NX⟩ else ⟨max, OF ||| NX⟩
  else if f.nan = .e4m3 && !sat then ⟨f.canonical, NV⟩
  else ⟨max, OF ||| NX⟩

/-- A finite exact value rounded to a floating format (04 R48, R55, R58, R59). -/
def FloatFmt.round (f : FloatFmt) (rm : Rm) (sat : Bool) (rnd : Nat) (neg : Bool) (n d : Nat) : Fitted :=
  if n = 0 then ⟨f.signBit neg, 0⟩ else
  let e := log2Rat n d
  let emin : Int := 1 - f.bias
  let q := max e emin - f.frac
  let (k, inexact) := roundTo rm rnd neg n d q
  let code := (k : Int) + (q + f.frac + f.bias - 1) * 2 ^ f.frac
  if (f.maxCode : Int) < code then f.overflow rm sat neg (k != (splitAt n d q).1)
  else
    let tiny : Bool := e < emin &&
      (let t := (roundTo rm rnd neg n d (e - f.frac)).1
       e + 1 < emin || t < 2 ^ (f.frac + 1))
    ⟨f.signBit neg + code.toNat, if inexact then (if tiny then NX ||| UF else NX) else 0⟩

/-- A value converted to a floating format (04 R58, R59). -/
def FloatFmt.fit (f : FloatFmt) (rm : Rm) (sat : Bool) (rnd : Nat) (v : Num) : Fitted :=
  match v with
  | .fin s n d => f.round rm sat rnd s n d
  | .inf s =>
    if f.hasInf then ⟨f.signBit s + f.maxCode + 1, 0⟩
    else if f.nan = .e4m3 && !sat then ⟨f.canonical, NV⟩
    else ⟨f.signBit s + f.maxCode, NV⟩
  | .nan sg => if f.nan = .none then ⟨0, NV⟩ else ⟨f.canonical, nvIf sg⟩

/-- The largest and smallest values of an integer format. -/
def intMin (signed : Bool) (w : Nat) : Int := if signed then -(2 ^ (w - 1) : Int) else 0
def intMax (signed : Bool) (w : Nat) : Int := if signed then 2 ^ (w - 1) - 1 else 2 ^ w - 1

/-- Two's complement bits of an integer at a width. -/
def wrapInt (w : Nat) (v : Int) : Nat := (v % (2 ^ w : Int)).toNat

/-- An integer result fitted to an integer format (04 R60). -/
def fitInt (signed : Bool) (w : Nat) (sat : Bool) (v : Int) : Nat :=
  wrapInt w (if sat then max (intMin signed w) (min (intMax signed w) v) else v)

/-- A floating value converted to an integer format (04 R60). -/
def roundInt (signed : Bool) (w : Nat) (rm : Rm) (rnd : Nat) (v : Num) : Fitted :=
  match v with
  | .nan _ => ⟨0, NV⟩
  | .inf s => ⟨wrapInt w (if s then intMin signed w else intMax signed w), NV⟩
  | .fin s n d =>
    let (k, inexact) := roundTo rm rnd s n d 0
    let v := if s then -(k : Int) else k
    if v < intMin signed w then ⟨wrapInt w (intMin signed w), NV⟩
    else if intMax signed w < v then ⟨wrapInt w (intMax signed w), NV⟩
    else ⟨wrapInt w v, if inexact then NX else 0⟩

/-- A value converted to E8M0 (04 R60); the sign is ignored. -/
def fitScale (rm : Rm) (rnd : Nat) (v : Num) : Fitted :=
  match v with
  | .nan sg => ⟨255, nvIf sg⟩
  | .inf _ => ⟨255, NV⟩
  | .fin _ n d =>
    if n = 0 then ⟨0, UF ||| NX⟩ else
    let e := log2Rat n d
    let (k, inexact) := roundTo rm rnd false n d e
    let e := if k = 2 then e + 1 else e
    if e < -127 then ⟨0, UF ||| NX⟩
    else if 127 < e then ⟨254, OF ||| NX⟩
    else ⟨(e + 127).toNat, if inexact then NX else 0⟩

/-- A value of the floating class, or an exact integer, converted to a destination format other than MX
(04 R58 to R60). `fromInt` says that the source is of the integer class. -/
def Fmt.fit (f : Fmt) (rm : Rm) (sat : Bool) (rnd : Nat) (fromInt : Bool) (v : Num) : Fitted :=
  match f with
  | .float g _ => g.fit rm sat rnd v
  | .int sg w _ =>
    if fromInt then (match v with
      | .fin s n _ => ⟨fitInt sg w sat (signed s n), 0⟩
      | _ => ⟨0, 0⟩)
    else roundInt sg w rm rnd v
  | .e8m0 => fitScale rm rnd v
  | .mxint8 | .none | .reserved => ⟨0, 0⟩

/-! ### Results that are not rational -/

/-- A result: an exact value, or an irrational one that lies between `lo / d` and `hi / d` for `enc w = (lo, hi, d)`, the
closer the larger `w`. -/
inductive Val where
  | num (v : Num)
  | irr (enc : Nat → Int × Int × Nat)

/-- Rounds an irrational value: the enclosure is refined until both ends round alike (log 12). -/
def settleIrr (g : Int → Nat → Fitted) (enc : Nat → Int × Int × Nat) : Nat → Nat → Fitted
  | 0, w => let (lo, _, d) := enc w; g lo d
  | fuel + 1, w =>
    let (lo, hi, d) := enc w
    let x := g lo d
    if x = g hi d then x else settleIrr g enc fuel (2 * w)

/-- A result converted to a destination (04 R58 to R60). -/
def Fmt.fitVal (f : Fmt) (rm : Rm) (sat : Bool) (rnd : Nat) (fromInt : Bool) (v : Val) : Fitted :=
  match v with
  | .num v => f.fit rm sat rnd fromInt v
  | .irr enc => settleIrr (fun v d => f.fit rm sat rnd fromInt (.ofRat v d)) enc 5 192

/-! ### Stochastic rounding (04 R64) -/

/-- One Philox round with its round key. -/
def philoxRound (k0 k1 : Nat) (c : Nat × Nat × Nat × Nat) : Nat × Nat × Nat × Nat :=
  let p0 := c.1 * 0xD2511F53
  let p1 := c.2.2.1 * 0xCD9E8D57
  ((p1 / 2 ^ 32) ^^^ c.2.1 ^^^ k0, p1 % 2 ^ 32, (p0 / 2 ^ 32) ^^^ c.2.2.2 ^^^ k1, p0 % 2 ^ 32)

/-- Philox-4×32: `n` rounds from keys that advance between rounds. -/
def philoxRounds : Nat → Nat → Nat → Nat × Nat × Nat × Nat → Nat
  | 0, _, _, c => c.1
  | n + 1, k0, k1, c => philoxRounds n ((k0 + 0x9E3779B9) % 2 ^ 32) ((k1 + 0xBB67AE85) % 2 ^ 32) (philoxRound k0 k1 c)

/-- The random word of element `i` for the primal (j = 0) or tangent j. -/
def philox (seed sbase sstep : Word) (i j : Nat) : Nat :=
  let c := (sbase.toNat + i) % 2 ^ 64
  philoxRounds 10 (seed.toNat % 2 ^ 32) (seed.toNat / 2 ^ 32) (c % 2 ^ 32, c / 2 ^ 32, sstep.toNat % 2 ^ 32, j)

/-! ### Conversions without an operation -/

/-- The value of a pattern converted from one format to another (04 R58 to R60). -/
def convert (src dst : Fmt) (rm : Rm) (sat : Bool) (rnd bits : Nat) : Fitted := dst.fit rm sat rnd src.isInt (src.value bits)

/-- The class of a value (06 R108). -/
def FloatFmt.classBit (f : FloatFmt) (bits : Nat) : Nat :=
  match f.value bits with
  | .nan true => 0
  | .nan false => 1
  | .inf s => if s then 3 else 2
  | .fin s n _ =>
    let sub := bits % 2 ^ (f.exp + f.frac) < 2 ^ f.frac
    if n = 0 then (if s then 9 else 8) else if sub then (if s then 7 else 6) else (if s then 5 else 4)

end Sys2Proof.Machine
end

