-- ==== Sys2Proof/Machine/Flags.lean ====
section
/-! DEFINITION. The floating-point flags: accumulation in FCSR and the floating-point trap (04 R56, R57; 06 R109). -/
namespace Sys2Proof.Machine

/-- FCSR with flags accumulated (04 R56). -/
def raise (fcsr : Word) (f : Flags) : Word := fcsr ||| (zx f <<< 8)
/-- Flags whose trap is enabled in FCSR.TE (04 R56). -/
def enabled (fcsr : Word) (f : Flags) : Flags := f &&& fcsr.setWidth 5
/-- FCSR.DRM (04 R56). -/
def dynamicRm (fcsr : Word) : Rm := rmOf (fcsr.toNat / 65536 % 8)

/-- The trap of an enabled flag: nothing is accumulated (04 R57, 06 R109). -/
def checkFlags (f : Flags) : M Unit := do
  if enabled (← hart).fcsr f ≠ 0 then trap 14 (zx f)
/-- Accumulates flags (04 R56). -/
def addFlags (f : Flags) : M Unit := modHart fun h => { h with fcsr := raise h.fcsr f }

end Sys2Proof.Machine
end

