-- ==== Sys2Proof/Machine/Operands.lean ====
section
/-! DEFINITION. The operands of vector-shaped instructions: shape, type and length, windows and their dispatch checks, the
format word, where elements live, masks and load queues (09 R169 to R182, 04 R52 to R54, R61). -/
namespace Sys2Proof.Machine

/-! ### Placement, shape, type and length (09 R169, R173) -/

/-- VPART.BASE and LEN in granules. -/
def Hart.partBase (h : Hart) : Nat := h.vpart.toNat % 8192
def Hart.partLen (h : Hart) : Nat := h.vpart.toNat / 65536 % 8192
/-- The lane count and the first lane. -/
def Hart.lanes (h : Hart) : Nat := 8 * 2 ^ (h.vpart.toNat / 2 ^ 40 % 4)
def Hart.lane0 (h : Hart) : Nat := 8 * (h.vpart.toNat / 2 ^ 32 % 8)
/-- VSHAPE.B. -/
def Hart.refBytes (h : Hart) : Nat := h.vshape.toNat % 65536

/-- Element width of an SEW code, 0 for a reserved one (09 R173). -/
def sewBits (code : Nat) : Nat :=
  if code < 16 then code + 1
  else match code with | 16 => 8 | 17 => 16 | 18 => 32 | 19 => 64 | 20 => 4 | _ => 0

def Hart.sewCode (h : Hart) : Nat := h.vtype.toNat % 32
def Hart.sew (h : Hart) : Nat := sewBits h.sewCode
def Hart.sliced (h : Hart) : Bool := h.sewCode < 16
def Hart.group (h : Hart) : Nat := 2 ^ (h.vtype.toNat / 32 % 4)
def Hart.tailOnes (h : Hart) : Bool := h.vtype.getLsbD 7
def Hart.maskOnes (h : Hart) : Bool := h.vtype.getLsbD 8
def Hart.ill (h : Hart) : Bool := h.vtype.getLsbD 63
def Hart.length (h : Hart) : Nat := h.vl.toNat
def Hart.start (h : Hart) : Nat := h.vstart.toNat

/-- min(65,536, G · L · k) for a well-formed type (09 R174). -/
def vlmaxFor (h : Hart) (vt : Nat) : Nat :=
  min 65536 (2 ^ (vt / 32 % 4) * h.lanes * (8 * h.refBytes / sewBits (vt % 32)))
/-- VLMAX under the VTYPE in force, 0 while ILL is set (09 R174). -/
def Hart.vlmax (h : Hart) : Nat := if h.ill then 0 else vlmaxFor h h.vtype.toNat
/-- C, the elements of one register (09 R176). -/
def Hart.perReg (h : Hart) : Nat := h.lanes * (8 * h.refBytes / h.sew)

/-- The ill-formed types (09 R174). -/
def illFormed (h : Hart) (vt : Word) : Bool :=
  let code := vt.toNat % 32
  let w := sewBits code
  vt.toNat / 512 ≠ 0 || w = 0 || h.refBytes = 0 || h.refBytes % 2 = 1 || 2 * h.partLen < h.refBytes
    || (code < 16 && h.refBytes % w ≠ 0) || 8 * h.refBytes / w = 0

/-- The dispatch check of R175. -/
def Hart.badType (h : Hart) : Bool := h.ill || h.vlmax < h.length || h.length < h.start

/-! ### Windows (09 R171, R178) -/

/-- A window: its descriptor's control-register number, and BASE and LEN in granules. -/
structure Window where
  cr : Nat
  base : Nat
  len : Nat
  deriving DecidableEq, Repr

def windowOf (cr : Nat) (d : Word) : Window := ⟨cr, d.toNat % 8192, d.toNat / 65536 % 8192⟩
def Hart.vwin (h : Hart) (v : Nat) : Window := windowOf (0x020 + v) h.vw[v]!
def Hart.mwin (h : Hart) (m : Nat) : Window := windowOf (0x03C + m) h.mw[m]!
def Hart.gwin (h : Hart) (g : Nat) : Window := windowOf (0x044 + g) h.gw[g]!
def Hart.iwin (h : Hart) (i : Nat) : Window := windowOf (0x054 + i) h.iw[i]!
/-- GMASK of a geometry window. -/
def Hart.gmask (h : Hart) (g : Nat) : Nat := h.gw[g]!.toNat / 2 ^ 32 % 32

/-- First per-lane byte, and length in bytes. -/
def Hart.firstByte (h : Hart) (w : Window) : Nat := 2 * (h.partBase + w.base)
def Window.bytes (w : Window) : Nat := 2 * w.len

/-- Whether two windows share a byte; a window of LEN 0 has none (09 R171). -/
def Window.overlaps (a b : Window) : Bool := max a.base b.base < min (a.base + a.len) (b.base + b.len)
def Window.same (a b : Window) : Bool := a.base == b.base && a.len == b.len

/-- The windows an operand uses, each with the bytes per lane it needs as `num / den`; `bad` names the descriptor of a
group that is no group: one past v27 or of unequal LEN, whose windows take part in the overlap checks all the same. -/
structure Use where
  parts : List (Window × Nat × Nat)
  bad : Option Nat
  deriving DecidableEq, Repr

def Use.windows (u : Use) : List Window := u.parts.map (·.1)

/-- Vector registers from `v` as one operand, each of which needs `num / den` bytes per lane. R178 has TRAPVAL name "the failing
descriptor" of a group that reaches past v27 or has unequal LEN, and no register of it fails alone: the model names the group's
first register (DESIGN CHOICE, log 72). -/
def Hart.groupUse (h : Hart) (v : Nat) (vs : List Nat) (num den : Nat) : Use :=
  let ws := (vs.filter (· < 28)).map h.vwin
  ⟨ws.map (·, num, den), if vs.any (27 < ·) || ws.any (·.len != (ws.headD (h.vwin v)).len) then some (0x020 + v) else none⟩
/-- A group of vector registers of element width `e` (09 R176, R178). -/
def Hart.vuse (h : Hart) (v e : Nat) : Use := h.groupUse v ((List.range h.group).map (v + ·)) (h.refBytes * e) h.sew
/-- A mask register: ⌈VLMAX / 8L⌉ bytes (09 R178). -/
def Hart.muse (h : Hart) (m : Nat) : Use := ⟨[(h.mwin m, (h.vlmax + 8 * h.lanes - 1) / (8 * h.lanes), 1)], none⟩
/-- The scale register of a format word: ⌈⌈VLMAX / 32⌉ / L⌉ bytes (04 R61). -/
def Hart.svuse (h : Hart) (v : Nat) : Use :=
  ⟨[(h.vwin v, ((h.vlmax + 31) / 32 + h.lanes - 1) / h.lanes, 1)], none⟩

/-- The first row of R178 that one window fails on its own. -/
def Hart.tooSmall (h : Hart) (p : Window × Nat × Nat) (k : Nat) : Bool :=
  h.partLen < p.1.base + (k + 1) * p.1.len || p.1.bytes * p.2.2 < p.2.1

/-- The checks of R178 on one operand: group, bounds with `k` tangents, size, then overlaps with `others` that are not
identical and with `never`. The descriptor of the first failure. -/
def Hart.checkUse (h : Hart) (u : Use) (k : Nat) (others never : List Window) : Option Nat :=
  match u.bad with
  | some cr => some cr
  | none =>
    (u.parts.find? fun p => h.tooSmall p k || (others.any fun w => p.1.overlaps w && !p.1.same w)
      || (never.any fun w => p.1.overlaps w)).map (·.1.cr)

/-- The first failure of a list of checks. -/
def firstFailure : List (Option Nat) → Option Nat
  | [] => none
  | some c :: _ => some c
  | none :: rest => firstFailure rest

/-- Raises the window violation when a check failed (09 R178). -/
def windowCheck (r : Option Nat) : M Unit := do
  match r with
  | some cr => trap 9 (BitVec.ofNat 64 cr)
  | none => pure ()

/-- The tangent-overlap check of 11 R227: windows in the order destination, b, c, m0, the tangent range of the first
three kinds against primal and tangent ranges of every other named window. -/
def tangentClash (k : Nat) (named : List (Window × Bool)) : Option Nat :=
  let hits (a b : Window × Bool) : Bool :=
    !a.1.same b.1 && a.2 && (
      let lo := a.1.base + a.1.len
      let hi := a.1.base + (k + 1) * a.1.len
      let hi' := if b.2 then b.1.base + (k + 1) * b.1.len else b.1.base + b.1.len
      lo < hi && b.1.base < hi' && lo < hi' && b.1.base < hi)
  (named.find? fun a => named.any fun b => hits a b).map (·.1.cr)

/-! ### The format word (04 R52 to R54) -/

structure FormatWord where
  df : Nat
  af : Nat
  bf : Nat
  rm : Nat
  sat : Bool
  ord : Bool
  sv : Nat
  high : Nat
  deriving DecidableEq, Repr

def formatWord (w : Word) : FormatWord :=
  let v := w.toNat
  ⟨v % 64, v / 2 ^ 6 % 64, v / 2 ^ 12 % 64, v / 2 ^ 18 % 8, w.getLsbD 21, w.getLsbD 22, v / 2 ^ 23 % 32, v / 2 ^ 28⟩

/-- Which operands an instruction names, and what it accepts, for the conditions of R54. -/
structure FormatUse where
  d : Bool := true
  b : Bool := true
  c : Bool := true
  stoch : Bool := false
  ordered : Bool := false
  e8m0 : Bool := false

def fmtSliced (code : Nat) : Bool := 32 ≤ code

/-- The conditions of R54 that do not depend on the instruction's own table. -/
def badFormat (fw : FormatWord) (u : FormatUse) (sliced : Bool) : Bool :=
  let codes := [(fw.df, u.d), (fw.af, u.b), (fw.bf, u.c)]
  let mx := (codes.filter fun c => (fmtOf c.1).isMx).length
  fw.high ≠ 0 || codes.any (fun c => fmtOf c.1 == .reserved) || fw.rm = 7
    || codes.any (fun c => (c.1 != 0) != c.2)
    || codes.any (fun c => c.1 != 0 && fmtSliced c.1 != sliced)
    || 1 < mx || (mx = 1 && 28 ≤ fw.sv) || (mx = 0 && fw.sv ≠ 31)
    || (fw.rm = 5 && !u.stoch) || (fw.ord && !u.ordered) || (!u.e8m0 && codes.any (fun c => c.1 = 10))

/-! ### Register memory (09 R176, R177) -/

/-- Bits of an element, with the TRAPVAL of their consumption when they carry a mark (08 R165). -/
structure Bits where
  val : Nat
  bad : Option Word
  deriving DecidableEq, Repr

/-- TRAPVAL of poisoned register memory (08 R165). -/
def regAddress (lane off : Nat) : Word := BitVec.ofNat 64 (0x8000000000000000 + lane * 16384 + off % 16384)

/-- The number in `n` bytes of a lane. -/
def State.laneRead (s : State) (stop lane off n : Nat) : Bits :=
  let loc := regLoc stop lane off
  ⟨s.regs.readNat loc n, if !s.regPoison.isEmpty && marked s.regPoison loc n then some (regAddress lane off) else none⟩
def State.laneWrite (s : State) (stop lane off n v : Nat) (bad : Bool := false) : State :=
  let loc := regLoc stop lane off
  { s with regs := s.regs.writeNat loc n v, regPoison := remark s.regPoison loc n bad }

/-- One bit of a byte of a lane. -/
def State.laneBit (s : State) (stop lane off bit : Nat) : Bits :=
  let b := s.laneRead stop lane off 1
  ⟨b.val / 2 ^ bit % 2, b.bad⟩
def setBits (old lo n v : Nat) : Nat := old - (old / 2 ^ lo % 2 ^ n) * 2 ^ lo + v % 2 ^ n * 2 ^ lo
def State.laneSetBit (s : State) (stop lane off bit v : Nat) (bad : Bool := false) : State :=
  s.laneWrite stop lane off 1 (setBits (s.laneRead stop lane off 1).val bit 1 v) bad

/-- Register position `r` of an operand of width `e` whose first byte is `base` (09 R176, R177). -/
def State.posRead (s : State) (h : Hart) (base e : Nat) (sliced : Bool) (r : Nat) : Bits :=
  let lane := h.lane0 + r % h.lanes
  let j := r / h.lanes
  if sliced then
    let plane := h.refBytes / h.sew
    (List.range e).foldr (fun k acc =>
      let b := s.laneBit h.stop lane (base + k * plane + j / 8) (j % 8)
      ⟨b.val + 2 * acc.val, if b.bad.isSome then b.bad else acc.bad⟩) ⟨0, none⟩
  else if e = 4 then
    let b := s.laneRead h.stop lane (base + j / 2) 1
    ⟨b.val / 16 ^ (j % 2) % 16, b.bad⟩
  else s.laneRead h.stop lane (base + j * (e / 8)) (e / 8)

def State.posWrite (s : State) (h : Hart) (base e : Nat) (sliced : Bool) (r v : Nat) (bad : Bool := false) : State :=
  let lane := h.lane0 + r % h.lanes
  let j := r / h.lanes
  if sliced then
    let plane := h.refBytes / h.sew
    (List.range e).foldl (fun t k => t.laneSetBit h.stop lane (base + k * plane + j / 8) (j % 8) (v / 2 ^ k % 2) bad) s
  else if e = 4 then
    let old := (s.laneRead h.stop lane (base + j / 2) 1).val
    s.laneWrite h.stop lane (base + j / 2) 1 (setBits old (4 * (j % 2)) 4 v) bad
  else s.laneWrite h.stop lane (base + j * (e / 8)) (e / 8) v bad

/-- The first byte of tangent `t` (0 the primal) of the register that holds element `i` of a group (11 R226). -/
def Hart.elemBase (h : Hart) (v i t : Nat) : Nat :=
  let w := h.vwin (v + i / h.perReg)
  h.firstByte w + t * w.bytes

/-- Element `i` of the vector register group `v`, or its tangent `t`. -/
def State.vread (s : State) (h : Hart) (v e : Nat) (sliced : Bool) (i t : Nat) : Bits :=
  s.posRead h (h.elemBase v i t) e sliced (i % h.perReg)
def State.vwrite (s : State) (h : Hart) (v e : Nat) (sliced : Bool) (i t val : Nat) (bad : Bool := false) : State :=
  s.posWrite h (h.elemBase v i t) e sliced (i % h.perReg) val bad

/-- Bit `i` of a mask register (09 R176). -/
def State.mread (s : State) (h : Hart) (m i : Nat) : Bits :=
  s.laneBit h.stop (h.lane0 + i % h.lanes) (h.firstByte (h.mwin m) + i / h.lanes / 8) (i / h.lanes % 8)
def State.mwrite (s : State) (h : Hart) (m i v : Nat) (bad : Bool := false) : State :=
  s.laneSetBit h.stop (h.lane0 + i % h.lanes) (h.firstByte (h.mwin m) + i / h.lanes / 8) (i / h.lanes % 8) v bad

/-- The scale of block `b` in the register SV (04 R61). -/
def State.svread (s : State) (h : Hart) (v b : Nat) : Bits :=
  s.laneRead h.stop (h.lane0 + b % h.lanes) (h.firstByte (h.vwin v) + b / h.lanes) 1
def State.svwrite (s : State) (h : Hart) (v b code : Nat) : State :=
  s.laneWrite h.stop (h.lane0 + b % h.lanes) (h.firstByte (h.vwin v) + b / h.lanes) 1 code

/-- Uses bits as data: poisoned bits raise cause 13 (08 R165). -/
def consume (b : Bits) : M Nat := do
  match b.bad with
  | some v => trap 13 v
  | none => pure b.val

/-- Whether element `i` is active: unmasked, or its m0 bit is 1 (09 R179). -/
def active (vm : Bool) (i : Nat) : M Bool := do
  if vm then pure true
  else
    let s ← get
    let b ← consume (s.mread s.h 0 i)
    pure (b == 1)

/-! ### Load queues (09 R181, R182) -/

/-- The binding of queue `q` in the set in use. -/
def Hart.queue (h : Hart) (q : Nat) : Option QBind := (h.queues[4 * h.queueSet + q]?).getD none
def Hart.setQueue (h : Hart) (q : Nat) (b : Option QBind) : Hart := { h with queues := h.queues.set! (4 * h.queueSet + q) b }

/-- Whether a vector source names a bound queue. -/
def Hart.queued (h : Hart) (v : Nat) : Bool := 24 ≤ v && v < 28 && (h.queue (v - 24)).isSome

/-- A width-`w` string of bits `i · w …` at `base`, byte by byte (09 R185). -/
def bitBytes (base i w : Nat) : Nat × Nat × Nat :=
  let lo := i * w
  (base + lo / 8, (lo + w - 1) / 8 - lo / 8 + 1, lo % 8)

/-- `n` bytes at a location as a vector load of the hart reads them, and whether they are poisoned. -/
def vectorLoad (loc n : Nat) : M (Nat × Bool) := do
  let r ← modifyGet fun s => s.stripLoad s.h.strip .vector loc n
  pure (leNat r.1, r.2)

/-- The locations of consecutive bytes as runs, each a location and a length: more than one only across pages. -/
def byteRuns : List Nat → List (Nat × Nat)
  | [] => []
  | l :: ls => match byteRuns ls with
    | [] => [(l, 1)]
    | (l', n) :: rest => if l' = l + 1 then (l, n + 1) :: rest else (l, 1) :: (l', n) :: rest

/-- Loads runs as one number, each run untorn (05 R81, R91), and whether any byte carries a mark. -/
def loadRuns : List (Nat × Nat) → M (Nat × Bool)
  | [] => pure (0, false)
  | (loc, n) :: rest => do
    let b ← vectorLoad loc n
    let r ← loadRuns rest
    pure (b.1 + 256 ^ n * r.1, b.2 || r.2)

/-- The bytes of an element at several locations in order, and whether any carries a mark. -/
def loadLocs (locs : List Nat) : M (Nat × Bool) := loadRuns (byteRuns locs)

/-- The locations of `n` bytes of memory that a vector load of the hart reads. -/
def byteLocs (va : Word) : Nat → M (List Nat)
  | 0 => pure []
  | n + 1 => do
    let loc ← locate va .load
    if regionOf loc = .control then trap 6 va
    let locs ← byteLocs (va + 1) n
    pure (loc :: locs)

/-- An aligned element of `n` bytes as a vector load of the hart reads it, and whether it is poisoned. -/
def elemLoad (va : Word) (n : Nat) : M (Nat × Bool) := do
  if va.toNat % n ≠ 0 then trap 2 va
  let loc ← locate va .load
  if regionOf loc = .control then trap 6 va
  vectorLoad loc n

/-- Element `i` of a queued load as its consumer reads it: the value fetched at issue, or a value fetched now where they
differ, unless a release has settled it (05 R87); after an interruption it is fetched again, as a load of the strip in which
the consumer resumes (09 R181, R182), which waits for earlier transfers (05 R85). -/
def queueRead (b : QBind) (i : Nat) : M Bits := do
  match b.elems[i]? with
  | none => pure ⟨0, none⟩
  | some e =>
    match e.va with
    | none => pure ⟨0, none⟩
    | some va =>
      let addr := BitVec.ofNat 64 va
      let (a, n, sh) := if b.unit then bitBytes b.base i b.width else (va, b.width / 8, 0)
      let fresh : M (Nat × Bool) := if b.unit then do
          let r ← loadLocs (← byteLocs (BitVec.ofNat 64 a) n)
          pure (r.1 / 2 ^ sh % 2 ^ b.width, r.2)
        else elemLoad addr n
      let r ← (match e.bits with
        | none => do
          awaitPillar false .virt a (a + n)
          fresh
        | some held => do
          let now ← if e.host || b.settled then pure (held, e.bad) else tryCatch fresh fun _ => pure (held, e.bad)
          let k ← if (held, e.bad) = now then pure 0 else choose 2
          pure (if k = 0 then (held, e.bad) else now))
      pure ⟨r.1, if r.2 then some addr else none⟩

/-- A vector source element as data to be moved, whose mark goes with the bits: from its queue if one is bound, else from its
window. The spec does not say what a consumer reads whose operand width differs from the element width of the queued load: it
reads the element's low bits, with zeros above them (DESIGN CHOICE, log 69). -/
def movedElem (v e : Nat) (sliced : Bool) (i t : Nat) : M Bits := do
  let s ← get
  if s.h.queued v then
    match s.h.queue (v - 24) with
    | some b =>
      if t = 0 then
        let x ← queueRead b i
        pure { x with val := x.val % 2 ^ e }
      else pure ⟨0, none⟩
    | none => pure ⟨0, none⟩
  else pure (s.vread s.h v e sliced i t)

/-- A vector source element as the instruction uses it. -/
def sourceElem (v e : Nat) (sliced : Bool) (i t : Nat) : M Nat := do consume (← movedElem v e sliced i t)

/-- The consumer of queues ends their bindings when it retires (09 R181). -/
def endBindings (vs : List Nat) : M Unit := modHart fun h =>
  vs.foldl (fun h v => if h.queued v then h.setQueue (v - 24) none else h) h

/-! ### Full-empty bits (09 R195) -/

/-- The registers of a group. -/
def Hart.groupRegs (h : Hart) (v : Nat) : List Nat := (List.range h.group).map (v + ·)

/-- Waits until every register is full; the first read of a pushed register acquires and clears its mark. -/
def awaitFull (reads writes : List Nat) : M Unit := do
  let h ← hart
  if (reads ++ writes).any fun v => v < 28 && !h.full.getLsbD v then stall
  if reads.any fun v => v < 28 && h.pushed.getLsbD v then
    modHart fun h => { h.acquire with pushed := reads.foldl (fun p v => p &&& ~~~(BitVec.ofNat 28 (2 ^ v))) h.pushed }

/-- Waits for pushes that still read a window about to be written, or one of its tangents 1 to `k` (05 R84, R85). -/
def awaitPushes (ws : List Window) (k : Nat := 0) : M Unit := do
  let s ← get
  if ws.any fun w => s.conflict s.h.key true .regs (s.h.firstByte w) (s.h.firstByte w + (k + 1) * w.bytes) then stall

end Sys2Proof.Machine
end

