-- ==== Sys2Proof/Machine/Transcend.lean ====
section
/-! DEFINITION. Square roots, powers and logarithms to base 2, and the sine and cosine of a square root, as exact values or
as enclosures that can be refined (04 R71, R72; 15 R272, R273; 18 R290). -/
namespace Sys2Proof.Machine

/-! ### Square roots -/

def isqrtLoop (n : Nat) : Nat → Nat → Nat
  | 0, r => r
  | k + 1, r => isqrtLoop n k (if (r + 2 ^ k) * (r + 2 ^ k) ≤ n then r + 2 ^ k else r)
/-- ⌊√n⌋. -/
def isqrt (n : Nat) : Nat := isqrtLoop n (n.log2 / 2 + 1) 0

/-- ±√(n / d) for n / d ≥ 0, exact where it is rational. -/
def sqrtRat (neg : Bool) (n d : Nat) : Val :=
  let r := isqrt (n * d)
  if r * r = n * d then .num (.fin neg r d)
  else .irr fun w =>
    let p := ((w : Int) - log2Rat n d / 2).toNat
    let r := isqrt (n * 4 ^ p / d)
    if neg then (-(r + 1 : Int), -(r : Int), 2 ^ p) else (r, r + 1, 2 ^ p)

/-! ### Logarithms and powers to base 2 -/

/-- The series of artanh z at scale 2^w from its term `t` at index `k`, where z² = a / b. -/
def artanhSum (a b : Nat) : Nat → Nat → Nat → Nat
  | 0, _, _ => 0
  | fuel + 1, k, t => t / (2 * k + 1) + artanhSum a b fuel (k + 1) (t * a / b)

/-- ln(n / d) for 1 ≤ n / d < 2 at scale 2^w, below and above: twice artanh((n − d) / (n + d)). -/
def lnEnc (n d w : Nat) : Nat × Nat :=
  let terms := w / 3 + 4
  let s := artanhSum ((n - d) * (n - d)) ((n + d) * (n + d)) terms 0 (2 ^ w * (n - d) / (n + d))
  (2 * s, 2 * (s + 2 * terms + 2))
/-- ln 2 at scale 2^w: twice artanh(1/3). -/
def ln2Enc (w : Nat) : Nat × Nat :=
  let terms := w / 3 + 4
  let s := artanhSum 1 9 terms 0 (2 ^ w / 3)
  (2 * s, 2 * (s + 2 * terms + 2))

/-- log₂(n / d) for n / d > 0, exact for a power of two; for 1 it is +0 under every RM (DEDUCED, log 56). -/
def log2Val (n d : Nat) : Val :=
  let e := log2Rat n d
  let n' := n * 2 ^ (-e).toNat
  let d' := d * 2 ^ e.toNat
  if n' = d' then .num (.ofInt e)
  else .irr fun w =>
    let l := lnEnc n' d' w
    let t := ln2Enc w
    (e * 2 ^ w + (l.1 * 2 ^ w / t.2 : Nat), e * 2 ^ w + (l.2 * 2 ^ w / t.1 + 1 : Nat), 2 ^ w)

/-- The exponential series of y at scale 2^w from its term `t` at index `k`. -/
def expSum (y w : Nat) : Nat → Nat → Nat → Nat
  | 0, _, _ => 0
  | fuel + 1, k, t => t + expSum y w fuel (k + 1) (t * y / (2 ^ w * (k + 1)))

/-- 2^(n / d) for 0 ≤ n / d < 1 at scale 2^w. -/
def exp2Enc (n d w : Nat) : Nat × Nat :=
  let t := ln2Enc w
  let y := n * t.1 / d
  let y' := n * t.2 / d + 1
  let terms := w / 4 + 16
  let s := expSum y w terms 0 (2 ^ w)
  (s, s + 2 * terms + 2 + 2 * (y' - y))

/-- An exponent beyond every format's range changes no result (04 R58). -/
def clampExp (e : Int) : Int := max (-20000) (min 20000 e)

/-- v · 2^e. -/
def scaleRat (v : Int) (d : Nat) (e : Int) : Int × Nat := (v * 2 ^ e.toNat, d * 2 ^ (-e).toNat)

/-- Whole part and fraction of v / d. -/
def wholeFrac (v : Int) (d : Nat) : Int × Nat := (v / d, (v % d).toNat)

/-- 2^(v / d), exact for an integral exponent. -/
def exp2Val (v : Int) (d : Nat) : Val :=
  let (i, f) := wholeFrac v d
  let e := clampExp i
  if f = 0 then let (n, m) := scaleRat 1 1 e; .num (.ofRat n m)
  else .irr fun w =>
    let s := exp2Enc f d w
    let (lo, m) := scaleRat s.1 (2 ^ w) e
    let (hi, _) := scaleRat s.2 (2 ^ w) e
    (lo, hi, m)

/-- ln 2 · 2^(v / d) · (p / q) (11 R228). -/
def exp2Tangent (v : Int) (d : Nat) (p : Int) (q : Nat) : Val :=
  let (i, f) := wholeFrac v d
  let e := clampExp i
  .irr fun w =>
    let s := exp2Enc f d w
    let t := ln2Enc w
    let (lo, m) := scaleRat (s.1 * t.1 * p) (2 ^ w * 2 ^ w * q) e
    let (hi, _) := scaleRat (s.2 * t.2 * p) (2 ^ w * 2 ^ w * q) e
    (min lo hi, max lo hi, m)

/-- (p / q) / ((v / d) · ln 2) for v ≠ 0 (11 R228). -/
def log2Tangent (v : Int) (d : Nat) (p : Int) (q : Nat) : Val :=
  let n := if v < 0 then -p * d else p * d
  .irr fun w =>
    let t := ln2Enc w
    let m := q * v.natAbs * t.1 * t.2
    let lo := n * 2 ^ w * t.1
    let hi := n * 2 ^ w * t.2
    (min lo hi, max lo hi, m)

/-! ### Sine and cosine of a square root -/

/-- The alternating series with terms t, t·A/((k+1)(k+2)), … at scale 2^w, A = a / b. -/
def altSum (a b : Nat) : Nat → Nat → Int → Nat → Int
  | 0, _, _, _ => 0
  | fuel + 1, k, sg, t => sg * t + altSum a b fuel (k + 2) (-sg) (t * a / (b * (k + 1) * (k + 2)))

/-- `m` doublings: C(4A) = 2·C(A)² − 1 and S(4A) = S(A)·C(A), with error bounds. -/
def doubleAngle (w : Nat) : Nat → Int × Nat × Int × Nat → Int × Nat × Int × Nat
  | 0, x => x
  | m + 1, (c, ec, s, es) => doubleAngle w m (2 * c * c / 2 ^ w - 2 ^ w, 4 * ec + 8, s * c / 2 ^ w, es + ec + 4)

/-- cos √A and sin √A / √A for A = a / b > 0: values at a scale, their error bounds, and the scale. -/
def cosSin (a b w : Nat) : Int × Nat × Int × Nat × Nat :=
  let m := ((log2Rat a b + 4) / 2).toNat
  let w' := w + 2 * m + 32
  let b' := b * 4 ^ m
  let terms := w' / 4 + 16
  let c := altSum a b' terms 0 1 (2 ^ w')
  let s := altSum a b' terms 1 1 (2 ^ w')
  let (c, ec, s, es) := doubleAngle w' m (c, 2 * terms + 2, s, 2 * terms + 2)
  (c, ec, s, es, w')

/-- (q · sin √A / √A + r · cos √A) / k for A = a / b; exact only where q = r = 0 or A = 0. -/
def trigVal (a b : Nat) (q r : Int) (k : Nat) : Val :=
  if a = 0 then .num (.ofRat (q + r) k)
  else if q = 0 ∧ r = 0 then .num .zero
  else .irr fun w =>
    let (c, ec, s, es, w') := cosSin a b w
    let mid := q * s + r * c
    let err : Nat := q.natAbs * es + r.natAbs * ec
    (mid - err, mid + err, k * 2 ^ w')

end Sys2Proof.Machine
end

