-- ==== Sys2Proof/Machine/Vector.lean ====
section
/-! DEFINITION. The common mould of the vector instructions: dispatch, the element loop, masks and tails, tangents
(10 R199 to R201, R375; 11 R224 to R228; 04 R61 to R66). -/
namespace Sys2Proof.Machine

/-! ### The element loop (09 R179, 10 R200) -/

/-- What dispatch leaves of an instruction: how to perform one active element, what an agnostic element becomes, and what
happens when it retires. -/
structure VBody where
  vm : Bool
  elem : Nat → M Unit
  fill : Nat → M Unit
  finish : M Unit
  /-- MP fills this inactive element -/
  refill : Nat → Bool := fun _ => true
  /-- the first position of the tail, from VL -/
  tailFrom : Nat → M Nat := pure
  /-- performs the present elements of one block of 32 at once (04 R62, R63) -/
  block : Option (Nat → List Nat → M Unit) := none
  /-- the length of the instruction's words -/
  len : Word := 4

/-- Records progress: the first element not done (08 R163). -/
def setStart (i : Nat) : M Unit := modHart fun h => { h with vstart := BitVec.ofNat 64 i }

/-- One element of the loop: performed, or filled with ones, or kept. -/
def VBody.at (b : VBody) (ones : Bool) (i : Nat) : M Unit := do
  setStart i
  if ← active b.vm i then b.elem i else if ones && b.refill i then b.fill i

/-- The active elements among a list. -/
def actives (vm : Bool) : List Nat → M (List Nat)
  | [] => pure []
  | i :: is => do
    let r ← actives vm is
    if ← active vm i then pure (i :: r) else pure r

/-- One block of the loop of an instruction that works block by block: block `k`, of which elements from `start` to
`stop` − 1 are performed. -/
def VBody.atBlock (b : VBody) (f : Nat → List Nat → M Unit) (ones : Bool) (start stop k : Nat) : M Unit := do
  setStart (32 * k)
  let is := (List.range 32).map (32 * k + ·) |>.filter fun i => start ≤ i && i < stop
  let on ← actives b.vm is
  f k on
  if ones then (is.filter fun i => !on.contains i).forM b.fill

/-- Runs `f` on the numbers from `a` to `a + n − 1`, or only on the first `part` + 1 of them when the instruction stops
part-way: then `mark` records the first that is not done (08 R163, log 24). It answers whether all are done. -/
def upTo (f : Nat → M Unit) (mark : Nat → M Unit) (a n : Nat) : M Bool := do
  match (← get).part with
  | some k =>
    if k + 1 < n then
      upFrom f a (k + 1)
      mark (a + (k + 1))
      pure false
    else
      upFrom f a n
      pure true
  | none =>
    upFrom f a n
    pure true

/-- Elements VSTART to VL − 1, then the tail, then retirement with VSTART = 0 (10 R200). -/
def runVector (b : VBody) : M Unit := do
  let h ← hart
  let done ← match b.block with
    | none => upTo (b.at h.maskOnes) setStart h.start (h.length - h.start)
    | some f =>
      let first := h.start / 32
      upTo (b.atBlock f h.maskOnes h.start h.length) (fun k => setStart (32 * k)) first ((h.length + 31) / 32 - first)
  if done then
    if 0 < h.length && h.tailOnes then
      let t ← b.tailFrom h.length
      upFrom b.fill t (h.vlmax - t)
    setStart 0
    b.finish
    retire b.len

/-! ### Dispatch -/

/-- What an instruction of the mould accepts and touches. -/
structure VSpec where
  use : FormatUse
  accept : FormatWord → Bool
  /-- the operand forms of R375 -/
  forms : List Nat := [0, 1, 2]
  /-- the vm restriction of R375 -/
  vmOk : Bool → Bool := fun _ => true
  /-- the destination is a mask register -/
  toMask : Bool := false
  /-- the destination shares no byte with a source (10 R214) -/
  noShare : Bool := false
  /-- the destination shares no byte with c (10 R217) -/
  noShareC : Bool := false
  /-- VSTART must be 0 (10 R218) -/
  atZero : Bool := false
  /-- carries tangents (11 R224) -/
  tangents : Bool := true
  /-- the width at which b and c are sized, when it is not their format's (10 R209) -/
  wide : Option Nat := none
  /-- the old value of the destination is an operand (10 R202) -/
  readsD : Bool := false
  /-- an SEW the instruction requires -/
  sewOk : Nat → Bool := fun _ => true

/-- A dispatched instruction: its operands, format word, tangent count and the hart's state at dispatch. -/
structure VCtx where
  o : VOps
  fw : FormatWord
  k : Nat
  h : Hart

def VCtx.rm (cx : VCtx) : Rm := rmOf cx.fw.rm
def VCtx.rdn (cx : VCtx) : Bool := cx.fw.rm == 2
def VCtx.df (cx : VCtx) : Fmt := fmtOf cx.fw.df
def VCtx.af (cx : VCtx) : Fmt := fmtOf cx.fw.af
def VCtx.bf (cx : VCtx) : Fmt := fmtOf cx.fw.bf
/-- The random word of an element under STOCH (04 R64). -/
def VCtx.rnd (cx : VCtx) (i j : Nat) : Nat :=
  if cx.fw.rm = 5 then philox cx.h.seed cx.h.sbase cx.h.sstep i j else 0

/-- The tangent count of an instruction that can carry tangents (11 R224). -/
def State.tanFor (s : State) (able : Bool) : Nat :=
  match s.tanPrefix with
  | some 0 => s.h.tanCount
  | some j => j
  | none => if able && s.h.tan then s.h.tanCount else 0

/-- The scalar register s24 + n (04 R52). -/
def Hart.formatReg (h : Hart) (n : BitVec 3) : Word := h.get (24 + n.zeroExtend 5)

/-- The vector windows that field b and c name as sources, queues left out. -/
def Hart.sourceUse (h : Hart) (named : Bool) (v e : Nat) : List Use :=
  if named && !h.queued v then [h.vuse v e] else []

/-- The descriptor that an operand-form violation names (10 R375). -/
def destDescriptor (toMask : Bool) (a : Nat) : Nat := if toMask then 0x03C + a % 8 else 0x020 + a

/-- The dispatch of the mould: causes 7, 8, 12 and 9 in the order of 03 R45, then the waits of full-empty bits and pushes. R178
does not say whether the register that an MX destination writes through SV is a destination of its own: the model checks it
against the sources and, in a masked instruction, against m0 (DEDUCED, log 73). -/
def dispatch (spec : VSpec) (o : VOps) : M VCtx := do
  let s ← get
  let h := s.h
  if h.badType || !spec.sewOk h.sewCode || (spec.atZero && h.start ≠ 0) then trap 7 h.vtype
  let word := h.formatReg o.n
  let fw := formatWord word
  let k := s.tanFor spec.tangents
  let mxb := o.form != 0 && (fmtOf fw.af).isMx
  let tanMx := 0 < k && [fw.df, fw.af, fw.bf].any fun c => (fmtOf c).isMx || c == 10
  if badFormat fw spec.use h.sliced || !spec.accept fw || mxb || tanMx then trap 8 word
  let wB := spec.wide.getD (fmtOf fw.af).width
  let wC := spec.wide.getD (fmtOf fw.bf).width
  let dest := if spec.toMask then h.muse (o.a.toNat % 8) else h.vuse o.a.toNat (fmtOf fw.df).width
  let b := h.sourceUse (spec.use.b && o.form == 0) o.b.toNat wB
  let c := h.sourceUse spec.use.c o.c.toNat wC
  let m0 := if o.vm then [] else [h.muse 0]
  let sv := if fw.sv < 28 then [h.svuse fw.sv] else []
  let srcs := (b ++ c).flatMap Use.windows
  let m0w := m0.flatMap Use.windows
  if 0 < k then
    let named := (dest.windows.map (·, !spec.toMask)) ++ srcs.map (·, true) ++ m0w.map (·, false)
    match tangentClash k named with
    | some cr => trap 12 (BitVec.ofNat 64 cr)
    | none => pure ()
  if !spec.forms.contains o.form.toNat || !spec.vmOk o.vm then
    trap 9 (BitVec.ofNat 64 (destDescriptor spec.toMask o.a.toNat))
  let svw := sv.flatMap Use.windows
  let guard := (if spec.noShare then srcs else if spec.noShareC then c.flatMap Use.windows else []) ++ (if spec.toMask && o.a.toNat % 8 == 0 then [] else m0w)
  windowCheck (firstFailure
    ([h.checkUse dest (if spec.toMask then 0 else k) (srcs ++ svw) guard]
      ++ b.map (h.checkUse · k [] []) ++ c.map (h.checkUse · k [] [])
      ++ m0.map (h.checkUse · 0 [] [])
      ++ sv.map fun u => if (fmtOf fw.df).isMx then h.checkUse u 0 srcs m0w else h.checkUse u 0 [] []))
  let regs (named : Bool) (v : Nat) : List Nat := if named && !h.queued v then h.groupRegs v else []
  let mxd := (fmtOf fw.df).isMx
  let old := if spec.toMask then [] else h.groupRegs o.a.toNat
  awaitFull (regs (spec.use.b && o.form == 0) o.b.toNat ++ regs spec.use.c o.c.toNat ++ (if spec.readsD then old else [])
      ++ (if fw.sv < 28 && !mxd then [fw.sv] else []))
    (old ++ (if fw.sv < 28 && mxd then [fw.sv] else []))
  awaitPushes dest.windows (if spec.toMask then 0 else k)
  if mxd then awaitPushes svw
  pure ⟨o, fw, k, h⟩

/-! ### Operands as values -/

/-- Register operand `v` under a format, as bits consumed by the instruction. -/
def VCtx.regBits (cx : VCtx) (v : Nat) (f : Fmt) (i t : Nat) : M Nat := sourceElem v f.width cx.h.sliced i t

/-- imm5 converted to AF as VCVT converts an INT64 value, STOCH as RNE, no flag (10 R199). -/
def VCtx.immBits (cx : VCtx) : Nat :=
  (cx.af.fit (if cx.fw.rm = 5 then .rne else cx.rm) cx.fw.sat 0 true (.ofInt cx.o.b.toInt)).bits

/-- The bits of b for an element, or its tangent `t` (10 R199, 11 R228). -/
def VCtx.bBits (cx : VCtx) (i t : Nat) : M Nat := do
  if cx.o.form = 0 then cx.regBits cx.o.b.toNat cx.af i t
  else if cx.o.form = 1 then
    let h ← hart
    let w : Word := if t = 0 then h.get cx.o.b else if cx.o.b = 0 then 0 else (h.stan[stanIdx (t - 1) cx.o.b]?).getD 0
    pure (cx.af.low w.toNat)
  else pure (if t = 0 then cx.immBits else 0)

/-- The bits of c. -/
def VCtx.cBits (cx : VCtx) (i t : Nat) : M Nat := cx.regBits cx.o.c.toNat cx.bf i t

/-- A value under an MX format times its block's scale (04 R61). -/
def scaled (v sc : Num) : Num :=
  match sc with
  | .nan _ => .nan false
  | .inf _ => v
  | .fin _ n d => match v with
    | .fin s m e => .fin s (m * n) (e * d)
    | _ => v

/-- An element's value under its operand's format, scaled when the format is MX. -/
def VCtx.value (cx : VCtx) (f : Fmt) (bits i : Nat) : M Num := do
  if f.isMx then
    let s ← get
    let b ← consume (s.svread cx.h cx.fw.sv (i / 32))
    pure (scaled (f.value bits) (scaleValue b))
  else pure (f.value bits)

def VCtx.bNum (cx : VCtx) (i t : Nat) : M Num := do cx.value cx.af (← cx.bBits i t) i
def VCtx.cNum (cx : VCtx) (i t : Nat) : M Num := do cx.value cx.bf (← cx.cBits i t) i
/-- The destination's old value, read under DF. -/
def VCtx.dBits (cx : VCtx) (i t : Nat) : M Nat := do
  let s ← get
  consume (s.vread cx.h cx.o.a.toNat cx.df.width cx.h.sliced i t)
def VCtx.dNum (cx : VCtx) (i t : Nat) : M Num := return cx.df.value (← cx.dBits i t)

/-! ### Results -/

/-- What an element writes: bits, the flags raised, whether the bits carry a mark, and its tangents. -/
structure Out where
  bits : Nat
  flags : Flags := 0
  bad : Bool := false
  tans : List Nat := []
  /-- the tangents that carry a mark -/
  tanBad : List Nat := []

/-- Writes the tangents of an element from tangent `t` upward. -/
def State.writeTans (s : State) (h : Hart) (a w i : Nat) (bad : List Nat) : Nat → List Nat → State
  | _, [] => s
  | t, v :: vs => (s.vwrite h a w h.sliced i t v (bad.contains t)).writeTans h a w i bad (t + 1) vs

/-- Writes an element of the destination with its tangents (11 R228). -/
def VCtx.put (cx : VCtx) (i : Nat) (out : Out) : M Unit := modify fun s =>
  (s.vwrite cx.h cx.o.a.toNat cx.df.width cx.h.sliced i 0 out.bits out.bad).writeTans cx.h cx.o.a.toNat cx.df.width i
    out.tanBad 1 out.tans

/-- All ones in an element and its tangents (09 R179, 11 R228). R47 has bits [7:6] of an E2M3 or E3M2 element written as zero and
R179 has the fill write ones in every bit: the fill writes 0xFF (DEDUCED, log 74). -/
def VCtx.fill (cx : VCtx) (i : Nat) : M Unit :=
  let ones := 2 ^ cx.df.width - 1
  cx.put i { bits := ones, tans := List.replicate cx.k ones }

/-- The consumer of its queues retires; SSTEP advances under STOCH (04 R66). -/
def VCtx.finish (cx : VCtx) (spec : VSpec) : M Unit := do
  endBindings ((if spec.use.b && cx.o.form == 0 then [cx.o.b.toNat] else []) ++ (if spec.use.c then [cx.o.c.toNat] else []))
  if cx.fw.rm = 5 then modHart fun h => { h with sstep := (h.sstep + 1) &&& 0xFFFFFFFF }

/-- An instruction of the mould with a vector destination (10 R200). -/
def mould (spec : VSpec) (compute : VCtx → Nat → M Out) (o : VOps) : M VBody := do
  let cx ← dispatch spec o
  pure {
    vm := o.vm
    elem := fun i => do
      let out ← compute cx i
      checkFlags out.flags
      addFlags out.flags
      cx.put i out
    fill := cx.fill
    finish := cx.finish spec }

/-- An instruction of the mould with a mask destination (10 R212). -/
def mouldMask (spec : VSpec) (compute : VCtx → Nat → M Out) (o : VOps) : M VBody := do
  let cx ← dispatch { spec with toMask := true, tangents := false } o
  let m := o.a.toNat % 8
  pure {
    vm := o.vm
    elem := fun i => do
      let out ← compute cx i
      checkFlags out.flags
      addFlags out.flags
      modify fun s => s.mwrite cx.h m i out.bits
    fill := fun i => modify fun s => s.mwrite cx.h m i 1
    finish := cx.finish spec }

/-! ### Arithmetic with values and tangents (11 R228) -/

/-- An exact operation of b, c and the old d. -/
abbrev VOp := VCtx → Num → Num → Num → Val × Flags
/-- A tangent rule: the operands, their tangents, and the operand chosen by a minimum or maximum. -/
abbrev VTan := VCtx → Num × Num × Num → Num × Num × Num → Val

/-- Whether a result is a NaN, as the exact value or as the destination holds it. -/
def resultNan (f : Fmt) (v : Val) (bits : Nat) : Bool :=
  (match v with | .num x => x.isNan | .irr _ => false) || (f.isFloat && (f.value bits).isNan)

/-- A tangent rounded to DF; the canonical NaN beside a NaN primal (11 R228). -/
def VCtx.fitTan (cx : VCtx) (nan : Bool) (i t : Nat) (v : Val) : Nat :=
  (cx.df.fitVal cx.rm cx.fw.sat (cx.rnd i t) false (if nan then .num (.nan false) else v)).bits

/-- The tangents 1 to k of an element by a rule on operand values. -/
def VCtx.tangentsOf (cx : VCtx) (spec : VSpec) (readsD : Bool) (rule : VTan) (x : Num × Num × Num) (nan : Bool) (i : Nat) :
    Nat → M (List Nat)
  | 0 => pure []
  | n + 1 => do
    let t := cx.k - n
    let tx ← if spec.use.b then cx.bNum i t else pure .zero
    let ty ← if spec.use.c then cx.cNum i t else pure .zero
    let td ← if readsD then cx.dNum i t else pure .zero
    let v := cx.fitTan nan i t (rule cx x (tx, ty, td))
    let rest ← cx.tangentsOf spec readsD rule x nan i n
    pure (v :: rest)

/-- Element arithmetic: the exact operation fitted to DF, with its tangents; an integer destination has tangents +0. -/
def numeric (spec : VSpec) (readsD : Bool) (op : VOp) (rule : VTan) (cx : VCtx) (i : Nat) : M Out := do
  let x ← if spec.use.b then cx.bNum i 0 else pure .zero
  let y ← if spec.use.c then cx.cNum i 0 else pure .zero
  let d ← if readsD then cx.dNum i 0 else pure .zero
  let (v, f) := op cx x y d
  let out := cx.df.fitVal cx.rm cx.fw.sat (cx.rnd i 0) (cx.af.isInt && cx.df.isInt) v
  let tans ← if cx.df.isInt then pure (List.replicate cx.k 0)
    else cx.tangentsOf spec readsD rule (x, y, d) (resultNan cx.df v out.bits) i cx.k
  pure { bits := out.bits, flags := f ||| out.flags, tans := tans }

/-- A term with a tangent factor: exactly +0 when the factor is zero (11 R228). -/
def tterm (t v : Num) : Num := if t.isZero then .zero else (mulOf t v).1
def one : Num := .fin false 1 1
def minusOne : Num := .fin true 1 1
/-- An exact sum of tangent terms. -/
def tsum (cx : VCtx) (ts : List Num) : Val := .num (sumOf cx.rdn ts).1
def exact (r : Num × Flags) : Val × Flags := (.num r.1, r.2)

/-- No tangent: +0. -/
def tanNone : VTan := fun _ _ _ => .num .zero

end Sys2Proof.Machine
end

