-- ==== Sys2Proof/Machine/VectorMemory.lean ====
section
/-! DEFINITION. Vector loads and stores, scatter-reductions and binning: majors 24 to 28 (09 R183 to R194). -/
namespace Sys2Proof.Machine

/-! ### The probe pass (09 R186) -/

/-- Virtual pages translated so far in a pass, each with its frame or the cause of its fault. -/
abbrev PageCache := List (Nat × Except Nat Nat)

/-- What the pass finds for each element: the locations of its parts, or how the element stops. -/
abbrev ProbeTable := List (Nat × Except Stop (List Nat))

/-- The location of an address. With `once` a page is translated where it is first touched; the core-local window has no
pages (05 R74). The control space refuses vector accesses (24 R355). -/
def locateOnce (once : Bool) (acc : Access) (cache : PageCache) (va : Word) : M (Except Fail Nat × PageCache) := do
  let plain (r : Except Fail Nat) : Except Fail Nat := match r with
    | .ok loc => if regionOf loc = .control then .error (6, va) else .ok loc
    | e => e
  let look : M (Except Fail Nat) := modifyGet fun s => s.locate s.h.space va acc
  if !once || localBase ≤ va.toNat then return (plain (← look), cache)
  let off := va.toNat % 65536
  match cache.find? (·.1 == va.toNat / 65536) with
  | some p => return (plain (match p.2 with | .ok f => .ok (f + off) | .error c => .error (c, va)), cache)
  | none =>
    let r ← look
    return (plain r, (va.toNat / 65536, match r with | .ok loc => .ok (loc - off) | .error f => .error f.1) :: cache)

/-- Translates the parts of an element, each an address and a size. -/
def probeParts (once : Bool) (acc : Access) : List (Word × Nat) → PageCache → M (List (Except Fail Nat) × PageCache)
  | [], cache => pure ([], cache)
  | p :: ps, cache => do
    let (r, cache) ← locateOnce once acc cache p.1
    let (rs, cache) ← probeParts once acc ps cache
    pure (r :: rs, cache)

/-- The fault of an element whose parts were found so: misaligned, then a page fault, then any other (R186). -/
def elementFault (ps : List ((Word × Nat) × Except Fail Nat)) : Option Fail :=
  let fails := ps.filterMap fun p => match p.2 with | .error f => some f | .ok _ => none
  match ps.find? fun p => p.1.1.toNat % p.1.2 ≠ 0 with
  | some p => some (2, p.1.1)
  | none => match fails.find? fun f => f.1 == 3 || f.1 == 4 with
    | some f => some f
    | none => fails.head?

/-- Waits for the entries that the parts of an element conflict with (05 R85). -/
def awaitParts (write : Bool) (ps : List (Word × Nat)) : M Unit :=
  ps.forM fun p => awaitPillar write .virt p.1.toNat (p.1.toNat + p.2)

/-- The pass over some elements, up to the first that faults; `parts` gives the addresses of an active element. Where the
parts are no elements of their own (`whole`), their faults are ordered together. -/
def probePass (whole once : Bool) (acc : Access) (vm : Bool) (parts : Nat → M (List (Word × Nat))) :
    List Nat → PageCache → M ProbeTable
  | [], _ => pure []
  | i :: is, cache => do
    let one : M (Except Stop (List Nat × PageCache)) := do
      if ← active vm i then
        let ps ← parts i
        let (rs, cache) ← probeParts once acc ps cache
        match if whole then elementFault (ps.zip rs) else (ps.zip rs).findSome? fun p => elementFault [p] with
        | some (c, v) => pure (.error (.trap c v))
        | none =>
          awaitParts (acc == .store) ps
          pure (.ok (rs.filterMap fun r => match r with | .ok loc => some loc | .error _ => none, cache))
      else pure (.ok ([], cache))
    let r ← tryCatch one fun e => match e with
      | .trap c v => pure (.error (.trap c v))
      | .wait => stall
    match r with
    | .error e => pure [(i, .error e)]
    | .ok (locs, cache) => return (i, .ok locs) :: (← probePass whole once acc vm parts is cache)

/-- The locations that the pass found for an element; the fault it found is taken when the element is reached. -/
def found (t : ProbeTable) (i : Nat) : M (List Nat) :=
  match t.find? (·.1 == i) with
  | some (_, .ok locs) => pure locs
  | some (_, .error e) => throw e
  | none => stall

/-- Elements VSTART to VL − 1. -/
def Hart.elements (h : Hart) : List Nat := (List.range (h.length - h.start)).map (h.start + ·)

/-! ### Dispatch (09 R178, R183, R185) -/

/-- A vector memory instruction after dispatch: the hart, the element width, the base, the stride, and what its probe pass
found. -/
structure MemPlan where
  o : VmOps
  h : Hart
  width : Nat
  k : Nat
  base : Word
  stride : Word
  table : ProbeTable := []

/-- Whether the elements are bits of one string: eew 100 under a sliced or 4-bit SEW (09 R185). -/
def MemPlan.bits (p : MemPlan) : Bool := p.o.eew == 4 && (p.h.sliced || p.h.sew == 4)

/-- The width rules of R185. -/
def badWidth (h : Hart) (o : VmOps) : Bool :=
  let odd := h.sliced || h.sew == 4
  (o.eew.toNat < 4 && h.sliced) || (o.mode == 2 && odd) || (o.mode != 0 && o.eew == 4 && odd)

/-- The data register's descriptor; a queue's register is v(24 + n) (09 R181). -/
def dataDescriptor (a : BitVec 5) : Nat := 0x020 + (if a.toNat < 28 then a.toNat else a.toNat - 4)

/-- What the data register of an instruction is. -/
inductive DataRole where
  | dest | source | none
  deriving DecidableEq, Repr

/-- Address of element `i` (09 R183). -/
def MemPlan.addr (p : MemPlan) (i : Nat) : M Word := do
  if p.o.mode = 0 then pure (p.base + BitVec.ofNat 64 (i * (p.width / 8)))
  else if p.o.mode = 1 then pure (p.base + BitVec.ofNat 64 i * p.stride)
  else
    let x ← sourceElem p.o.c.toNat p.h.sew false i 0
    pure (p.base + BitVec.ofNat 64 x)

/-- The first address of an element: that of its first byte for bits of a string. -/
def MemPlan.first (p : MemPlan) (i : Nat) : M Word :=
  if p.bits then pure (BitVec.ofNat 64 (bitBytes p.base.toNat i p.width).1) else p.addr i

/-- The parts of element `i`: one of its size, or the bytes that its bits touch. -/
def MemPlan.parts (p : MemPlan) (i : Nat) : M (List (Word × Nat)) := do
  let va ← p.first i
  if p.bits then pure ((List.range (bitBytes p.base.toNat i p.width).2.1).map fun k => (va + BitVec.ofNat 64 k, 1))
  else pure [(va, p.width / 8)]

/-- Dispatch of an instruction with a vector data register: causes 7, 12, 9, then the waits, then the probe pass over `is`,
or over the elements from VSTART. -/
def memDispatch (o : VmOps) (role : DataRole) (accepted : VmOps → Bool) (tangented : Bool := true) (is : Option (List Nat) := none) :
    M MemPlan := do
  let s ← get
  let h := s.h
  if h.badType || badWidth h o then trap 7 h.vtype
  let width := if o.eew.toNat < 4 then 8 * 2 ^ o.eew.toNat else h.sew
  let k := s.tanFor tangented
  let a := o.a.toNat
  let data := match role with
    | .dest => [h.vuse a width]
    | .source => if h.queued a then [] else [h.vuse a width]
    | .none => []
  let idx := h.sourceUse (o.mode == 2) o.c.toNat h.sew
  let m0 := if o.vm then [] else [h.muse 0]
  let dataW := data.flatMap Use.windows
  let idxW := idx.flatMap Use.windows
  let m0W := m0.flatMap Use.windows
  if 0 < k then
    match tangentClash k (dataW.map (·, true) ++ idxW.map (·, true) ++ m0W.map (·, false)) with
    | some cr => trap 12 (BitVec.ofNat 64 cr)
    | none => pure ()
  if !accepted o then trap 9 (BitVec.ofNat 64 (dataDescriptor o.a))
  let others := if role = .dest then idxW else []
  let never := if role = .dest then m0W else []
  windowCheck (firstFailure (data.map (h.checkUse · k others never) ++ idx.map (h.checkUse · k [] [])
    ++ m0.map (h.checkUse · 0 [] [])))
  let regs := if data.isEmpty then [] else h.groupRegs a
  awaitFull ((if role = .source then regs else []) ++ (if idx.isEmpty then [] else h.groupRegs o.c.toNat))
    (if role = .dest then regs else [])
  if role = .dest then awaitPushes dataW k
  let p : MemPlan := { o := o, h := h, width := width, k := k, base := h.get o.b
                       stride := if o.mode = 1 then h.get (o.c.setWidth 5) else 0 }
  let table ← probePass true (o.mode != 2) (if role = .source then .store else .load) o.vm p.parts (is.getD h.elements) []
  pure { p with table := table }

/-! ### Elements -/

/-- Reads element `i` of memory, and whether it carries a mark. -/
def MemPlan.read (p : MemPlan) (i : Nat) : M (Nat × Bool) := do
  let locs ← found p.table i
  if p.bits then
    let r ← loadLocs locs
    pure (r.1 / 2 ^ (bitBytes p.base.toNat i p.width).2.2 % 2 ^ p.width, r.2)
  else vectorLoad (locs.headD 0) (p.width / 8)

/-- Poison is no data for the scalar data memory (08 R165). -/
def checkSdm (loc : Nat) (bad : Option Word) : M Unit := do
  if regionOf loc = .sdm && bad.isSome then
    let _ ← consume ⟨0, bad⟩

/-- Stores the bytes of an element at a location. -/
def putElement (kind : StripKind) (loc : Nat) (bs : List Byte) (bad : Option Word) : M Unit := do
  checkSdm loc bad
  modify fun s => s.stripStore kind loc bs bad.isSome

/-- Stores `n` bits from bit `lo` of the first run of bytes, each run untorn; a run of which some bits are kept is one
read-modify-write (09 R187, 05 R91). -/
def putRuns (kind : StripKind) (lo n v : Nat) (bad : Option Word) : List (Nat × Nat) → M Unit
  | [] => pure ()
  | (loc, len) :: rest => do
    let cnt := min (8 * len - lo) n
    checkSdm loc bad
    modify fun s => (s.stripModify kind (lo != 0 || cnt != 8 * len) loc len
      (fun bs => leBytes len (setBits (leNat bs) lo cnt v)) bad.isSome).2
    putRuns kind 0 (n - cnt) (v / 2 ^ cnt) bad rest

/-- Stores `n` bits from bit `lo` of the first of some bytes. -/
def putBits (kind : StripKind) (lo n v : Nat) (bad : Option Word) (locs : List Nat) : M Unit :=
  putRuns kind lo n v bad (byteRuns locs)

/-- The data element of a store: its bits and its mark. -/
def MemPlan.data (p : MemPlan) (i : Nat) : M Bits := movedElem p.o.a.toNat p.width p.h.sliced i 0

/-- Writes element `i` to memory (09 R187). -/
def MemPlan.write (p : MemPlan) (kind : StripKind) (i : Nat) : M Unit := do
  let locs ← found p.table i
  let d ← p.data i
  if p.bits then putBits kind (bitBytes p.base.toNat i p.width).2.2 p.width d.val d.bad locs
  else putElement kind (locs.headD 0) (leBytes (p.width / 8) d.val) d.bad

/-- Writes an element of the data register; the tangents of a load become +0 (11 R230). -/
def MemPlan.put (p : MemPlan) (i v : Nat) (bad : Bool) : M Unit := modify fun s =>
  (s.vwrite p.h p.o.a.toNat p.width p.h.sliced i 0 v bad).writeTans p.h p.o.a.toNat p.width i [] 1 (List.replicate p.k 0)

def MemPlan.fill (p : MemPlan) (i : Nat) : M Unit := modify fun s =>
  let ones := 2 ^ p.width - 1
  (s.vwrite p.h p.o.a.toNat p.width p.h.sliced i 0 ones).writeTans p.h p.o.a.toNat p.width i [] 1 (List.replicate p.k ones)

/-- Ends the bindings of the queues read. -/
def MemPlan.finish (p : MemPlan) (source : Bool) : M Unit :=
  endBindings ((if source then [p.o.a.toNat] else []) ++ (if p.o.mode = 2 then [p.o.c.toNat] else []))

/-- A body that leaves inactive and tail elements alone. -/
def keepBody (vm : Bool) (elem : Nat → M Unit) (finish : M Unit) : VBody :=
  { vm := vm, elem := elem, fill := fun _ => pure (), finish := finish, refill := fun _ => false
    tailFrom := fun _ => pure 65536 }

/-- A body that stores: no tail and nothing for inactive elements (09 R187); its elements follow one another in the strip
(05 R94). -/
def storeBody (vm : Bool) (elem : Nat → M Unit) (finish : M Unit) : VBody :=
  keepBody vm elem do modHart Hart.endElements; finish

/-! ### Loads (09 R181, R187 to R189) -/

/-- The formats of VLD, VLDFF, VST and VSTU: eew 000 to 100. -/
def plainEew (o : VmOps) : Bool := o.eew.toNat ≤ 4
def unitStride (o : VmOps) : Bool := o.mode == 0

/-- A load of the elements `is`, or of those from VSTART. -/
def loadOn (is : Option (List Nat)) (o : VmOps) (accepted : VmOps → Bool) : M VBody := do
  let p ← memDispatch o .dest accepted true is
  pure {
    vm := o.vm
    elem := fun i => do
      let r ← p.read i
      p.put i r.1 r.2
    fill := p.fill
    finish := p.finish false }

def loadBody (o : VmOps) (accepted : VmOps → Bool) : M VBody := loadOn none o accepted
def vldBody (o : VmOps) : M VBody := loadBody o plainEew

/-- What a queued load holds of element `i`. -/
def MemPlan.queueElem (p : MemPlan) (i : Nat) : M QElem := do
  if ← active p.o.vm i then
    let va ← p.first i
    let r ← p.read i
    let locs ← found p.table i
    pure ⟨some va.toNat, some r.1, r.2, regionOf (locs.headD 0) == .host⟩
  else pure ⟨none, none, false, false⟩

/-- Elements `i` to `i + n − 1` of a queued load. -/
def MemPlan.queueElems (p : MemPlan) (i : Nat) : Nat → M (List QElem)
  | 0 => pure []
  | n + 1 => do
    let e ← p.queueElem i
    let es ← p.queueElems (i + 1) n
    pure (e :: es)

/-- The binding of a queued load whose elements from VSTART are `es`; the bindings that the load consumed end first
(09 R181). -/
def MemPlan.bind (p : MemPlan) (es : List QElem) : M Unit := do
  p.finish false
  modHart fun h => h.setQueue (p.o.a.toNat - 28)
    (some ⟨p.width, p.bits, p.base.toNat, List.replicate p.h.start ⟨none, none, false, false⟩ ++ es, false⟩)
  retire 4

/-- Binds a queue: the probe pass runs over every element before the load retires, and a fault leaves VSTART = 0
(09 R181). -/
def bindQueue (p : MemPlan) : M Unit := do
  setStart 0
  p.bind (← p.queueElems p.h.start (p.h.length - p.h.start))

def execVld (o : VmOps) : State → Host.Outcome State Fault Refusal := run do
  if o.a.toNat < 28 then vldBody o >>= runVector
  else
    bindQueue (← memDispatch o .none plainEew)

/-- Runs `m` and answers how it stopped, if it did by a trap. -/
def attempt (m : M Unit) : M (Option (Nat × Word)) :=
  tryCatch (do m; pure none) fun e => match e with
    | .trap c v => pure (some (c, v))
    | .wait => stall

/-- The loop of VLDFF: the element at which it ends early, if it does; `first` says that no active element has been
performed (09 R188). A page-table entry that carries a mark (cause 13) is not among the faults of R186: above the first active
element it ends the loop as they do (DESIGN CHOICE, log 79). -/
def faultFirst (elem fill : Nat → M Unit) (vm ones : Bool) (first : Bool) (i : Nat) : Nat → M (Option Nat)
  | 0 => pure none
  | n + 1 => do
    setStart i
    if ← active vm i then
      match ← attempt (elem i) with
      | some (c, v) => if first || c = 2 then trap c v else pure (some i)
      | none => faultFirst elem fill vm ones false (i + 1) n
    else
      if ones then fill i
      faultFirst elem fill vm ones first (i + 1) n

def fffEew (o : VmOps) : Bool := plainEew o && unitStride o

/-- The longest faultless beginning of a queued VLDFF; what ends it above the first active element is what ends `faultFirst`
(DESIGN CHOICE, log 79). -/
def MemPlan.queueFirst (p : MemPlan) (first : Bool) (i : Nat) : Nat → M (List QElem)
  | 0 => pure []
  | n + 1 => do
    let on ← active p.o.vm i
    let r ← tryCatch (do return some (← p.queueElem i)) fun e => match e with
      | .trap c v => if first || c = 2 then trap c v else pure none
      | .wait => stall
    match r with
    | none => pure []
    | some e =>
      let es ← p.queueFirst (first && !on) (i + 1) n
      pure (e :: es)

def execVldff (o : VmOps) : State → Host.Outcome State Fault Refusal := run do
  let h ← hart
  let shorten (f : Nat) : M Unit := modHart fun h => { h with vl := BitVec.ofNat 64 f }
  if o.a.toNat < 28 then
    let b ← loadBody o fffEew
    let n := h.length - h.start
    let k := (((← get).part.map (· + 1)).getD n)
    let r ← faultFirst b.elem b.fill o.vm h.maskOnes true h.start (min k n)
    if r.isNone && k < n then setStart (h.start + k)
    else
      match r with
      | some f => shorten f
      | none => pure ()
      let vl := r.getD h.length
      if 0 < vl && h.tailOnes then upFrom b.fill vl (h.vlmax - vl)
      setStart 0
      b.finish
      retire 4
  else
    let p ← memDispatch o .none fffEew
    setStart 0
    let es ← p.queueFirst true h.start (h.length - h.start)
    if es.length < h.length - h.start then shorten (h.start + es.length)
    p.bind es

/-! ### Masks (09 R189) -/

/-- Dispatch of VLDM and VSTM: the hart and what the probe pass found. A queue is no mask register, so VLDM of q0 to q3, which 03 R34
lets encode, is cause 9 like every combination that R183 does not list, with the descriptor of that queue (DEDUCED, log 58). -/
def maskMemDispatch (o : VmOps) (load : Bool) : M (Hart × ProbeTable) := do
  let h ← hart
  if h.badType || badWidth h o then trap 7 h.vtype
  let m := o.a.toNat % 8
  if load && 28 ≤ o.a.toNat then trap 9 (BitVec.ofNat 64 (dataDescriptor o.a))
  if o.mode ≠ 0 || o.eew ≠ 5 || !o.vm then trap 9 (BitVec.ofNat 64 (0x03C + m))
  windowCheck (h.checkUse (h.muse m) 0 [] [])
  if load then awaitPushes [h.mwin m]
  let base := h.get o.b
  let table ← probePass true true (if load then .load else .store) true (fun i => pure [(base + BitVec.ofNat 64 (i / 8), 1)]) h.elements []
  pure (h, table)

def vldmBody (o : VmOps) : M VBody := do
  let (h, table) ← maskMemDispatch o true
  let m := o.a.toNat % 8
  pure {
    vm := true
    elem := fun i => do
      let r ← loadLocs (← found table i)
      modify fun s => s.mwrite h m i (r.1 / 2 ^ (i % 8) % 2) r.2
    fill := fun i => modify fun s => s.mwrite h m i 1
    finish := pure () }

def vstmBody (o : VmOps) : M VBody := do
  let (h, table) ← maskMemDispatch o false
  let m := o.a.toNat % 8
  pure (storeBody true (fun i => do
    let locs ← found table i
    let b := (← get).mread h m i
    putBits .element (i % 8) 1 b.val b.bad locs) (pure ()))

def execVldm (o : VmOps) : State → Host.Outcome State Fault Refusal := run (vldmBody o >>= runVector)
def execVstm (o : VmOps) : State → Host.Outcome State Fault Refusal := run (vstmBody o >>= runVector)

/-! ### Stores -/

/-- VST, or VSTU, of the elements `is` or of those from VSTART. The elements of VSTU are unordered (05 R94). -/
def storeOn (is : Option (List Nat)) (kind : StripKind) (o : VmOps) : M VBody := do
  let p ← memDispatch o .source plainEew true is
  pure (storeBody o.vm (p.write kind) (p.finish true))
def vstBody (o : VmOps) : M VBody := storeOn none .element o
def vstuBody (o : VmOps) : M VBody := storeOn none .vector o

def execVst (o : VmOps) : State → Host.Outcome State Fault Refusal := run (vstBody o >>= runVector)
def execVstu (o : VmOps) : State → Host.Outcome State Fault Refusal := run (vstuBody o >>= runVector)

/-! ### Spill and fill (09 R190) -/

/-- The registers of a spill with their per-lane first bytes and lengths. -/
def spillRegs (h : Hart) (v n : Nat) : List (Nat × Nat) :=
  (List.range n).map fun k => (h.firstByte (h.vwin (v + k)), (h.vwin (v + k)).bytes)

/-- Lane and per-lane byte of a stream position (09 R190). -/
def streamPlace (lane0 lanes : Nat) : List (Nat × Nat) → Nat → Nat × Nat
  | [], _ => (lane0, 0)
  | (base, len) :: rest, q => if q < len * lanes then (lane0 + q % lanes, base + q / lanes) else streamPlace lane0 lanes rest (q - len * lanes)

/-- Bytes of the stream. -/
def streamBytes (lanes : Nat) (regs : List (Nat × Nat)) : Nat := (regs.map fun r => r.2 * lanes).foldl (· + ·) 0

/-- A VSPILL or VFILL after dispatch: the hart, the registers, and what the probe pass found of the stream's bytes. -/
structure SpillPlan where
  h : Hart
  regs : List (Nat × Nat)
  table : ProbeTable

def SpillPlan.total (p : SpillPlan) : Nat := streamBytes p.h.lanes p.regs

/-- Dispatch of VSPILL and VFILL. Only eew 000 to 011 give a count that does not depend on VTYPE (R175, R190). VSPILL reads the windows also of v24 to v27 whose queue is bound: it moves registers, and
R181 names it among no consumers (DEDUCED, log 59). R227 does not say whether these two, which move whole registers, check for
tangents under HCTL.TAN: they make none of its checks (DESIGN CHOICE, log 80). -/
def spillDispatch (o : VmOps) (fill : Bool) : M SpillPlan := do
  let h ← hart
  if 4 ≤ o.eew.toNat && (h.ill || badWidth h o && o.mode ≠ 0) then trap 7 h.vtype
  let n := if o.eew.toNat < 4 then 2 ^ o.eew.toNat else h.group
  let v := o.a.toNat
  if o.mode ≠ 0 || 4 < o.eew.toNat || !o.vm || 27 < v + n - 1 then trap 9 (BitVec.ofNat 64 (dataDescriptor o.a))
  let ws := (List.range n).map fun k => h.vwin (v + k)
  windowCheck ((ws.find? fun w => h.partLen < w.base + w.len).map (·.cr))
  let names := (List.range n).map (v + ·)
  awaitFull (if fill then [] else names) (if fill then names else [])
  if fill then awaitPushes ws
  let regs := spillRegs h v n
  let base := h.get o.b
  let table ← probePass true true (if fill then .load else .store) true (fun q => pure [(base + BitVec.ofNat 64 q, 1)])
    ((List.range (streamBytes h.lanes regs - h.start)).map (h.start + ·)) []
  pure ⟨h, regs, table⟩

/-- Moves the bytes from VSTART on, recording progress, then retires. -/
def moveStream (p : SpillPlan) (f : Nat → M Unit) : M Unit := do
  if ← upTo (fun q => do setStart q; f q) setStart p.h.start (p.total - p.h.start) then
    setStart 0
    modHart Hart.endElements
    retire 4

/-- Stores byte `q` of the stream of a spill. -/
def spillByte (p : SpillPlan) (q : Nat) : M Unit := do
  let locs ← found p.table q
  let (lane, off) := streamPlace p.h.lane0 p.h.lanes p.regs q
  let b := (← get).laneRead p.h.stop lane off 1
  putElement .element (locs.headD 0) [BitVec.ofNat 8 b.val] b.bad

/-- Loads byte `q` of the stream of a fill. -/
def fillByte (p : SpillPlan) (q : Nat) : M Unit := do
  let r ← loadLocs (← found p.table q)
  let (lane, off) := streamPlace p.h.lane0 p.h.lanes p.regs q
  modify fun s => s.laneWrite p.h.stop lane off 1 r.1 r.2

def execVspill (o : VmOps) : State → Host.Outcome State Fault Refusal := run do
  let p ← spillDispatch o false
  moveStream p (spillByte p)

def execVfill (o : VmOps) : State → Host.Outcome State Fault Refusal := run do
  let p ← spillDispatch o true
  moveStream p (fillByte p)

/-! ### Scatter-reductions (09 R191, 05 R94, R95, 07 R145) -/

/-- The element format of FADD. -/
def reduceFmt (w : Nat) : FloatFmt := if w = 16 then bf16 else if w = 32 then fp32 else fp64

/-- One application of op3 `op` at width `w` (09 R191). -/
def redApply (op w old x : Nat) : Nat :=
  let pickInt (signed : Bool) (least : Bool) : Nat :=
    if (intValue signed w x < intValue signed w old) = least && intValue signed w x ≠ intValue signed w old then x else old
  match op with
  | 0 => (old + x) % 2 ^ w
  | 1 => let f := reduceFmt w; (f.fit .rne false 0 (sumOf false [f.value old, f.value x]).1).bits
  | 2 => pickInt true true
  | 3 => pickInt true false
  | 4 => pickInt false true
  | 5 => pickInt false false
  | 6 => old &&& x
  | _ => old ||| x

/-- An element of a scatter-reduction: its address, its location and its value, and where its store goes in the strip. -/
structure Hit where
  va : Word
  loc : Nat
  value : Nat
  mask : Nat := 0

/-- Element `i` with its value; faults are those of a store (09 R191). -/
def MemPlan.hit (p : MemPlan) (i : Nat) : M Hit := do
  let locs ← found p.table i
  let va ← p.addr i
  let v ← sourceElem p.o.a.toNat p.width p.h.sliced i 0
  pure { va := va, loc := locs.headD 0, value := v }

/-- Element `i` of a scatter-reduction that combines elements before it stores: those of one location, of which `before` came
earlier, go to one place of the strip, where a mark raises cause 13 (08 R165). -/
def MemPlan.placed (p : MemPlan) (before : List Hit) (i : Nat) : M Hit := do
  let x ← p.hit i
  match before.find? (·.loc == x.loc) with
  | some y => pure { x with mask := y.mask }
  | none =>
    let n := p.width / 8
    let mask ← modifyGet fun s => s.stripMask s.h.strip .element x.loc n
    let s ← get
    let r := s.sunk s.h.strip .element true x.loc n id false mask
    let _ ← useBytes x.va (r.seen, !r.found.isEmpty)
    pure { x with mask := mask }

/-- Whether no location named by an element before `j` is named by one from `j` on. -/
def MemPlan.splitsAt (p : MemPlan) (j : Nat) : Bool :=
  let locs (t : ProbeTable) : List Nat := t.flatMap fun e => match e.2 with | .ok ls => ls | .error _ => []
  let before := locs (p.table.filter (·.1 < j))
  (locs (p.table.filter (j ≤ ·.1))).all fun l => !before.contains l

/-- A scatter-reduction is atomic as a whole at each location (05 R95): one that stops part-way does so at the next place
where what it has applied and what remains share no location. -/
def MemPlan.settlePart (p : MemPlan) : M Unit := modify fun s =>
  { s with part := s.part.bind fun k => (List.range (p.h.length - p.h.start)).find? fun m => k ≤ m && p.splitsAt (p.h.start + m + 1) }

/-- Applies one element at its place, in one read-modify-write (05 R93). -/
def MemPlan.apply (p : MemPlan) (op : Nat) (x : Hit) : M Unit := do
  let _ ← modifyMemory x.va .element x.loc (p.width / 8) fun old => redApply op p.width old x.value

/-- Room for a pending contribution (07 R145). -/
def State.hasRoom (s : State) (loc : Nat) : Bool :=
  if regionOf loc = .device then
    (s.contribs.filter fun c => regionOf c.pa == .device && homeDie c.pa == homeDie loc).length < 1048576
  else (s.contribs.filter fun c => regionOf c.pa == .scratch && c.pa / 0x400000 == loc / 0x400000).length < 65536

/-- Holds a contribution of a deterministic launch until its convoy closes (07 R145). -/
def MemPlan.hold (p : MemPlan) (op i : Nat) (x : Hit) : M Unit := do
  if marked (← get).poison x.loc (p.width / 8) then trap 13 x.va
  if !(← get).hasRoom x.loc then trap 19 (← freeWord)
  modify fun s => { s with
    nextId := s.nextId + 1
    contribs := s.contribs ++ [{ lid := p.h.key.lid, member := p.h.key.member.toNat, seq := s.nextId
                                 key := (s.h.sbase.toNat + i) % 2 ^ 64, pa := x.loc, op := op, bytes := p.width / 8, value := x.value }] }

/-- Combines a list two at a time in an order left open (05 R94). -/
def combineAny {α : Type} (d : α) (f : α → α → α) : Nat → List α → M α
  | 0, l => pure (l.headD d)
  | fuel + 1, l => do
    match l with
    | [] => pure d
    | [x] => pure x
    | [x, y] => pure (f x y)
    | l =>
      let i ← choose l.length
      let x := (l[i]?).getD d
      let l := l.eraseIdx i
      let j ← choose l.length
      let y := (l[j]?).getD d
      combineAny d f fuel (f x y :: l.eraseIdx j)

/-- The elements that come before a fault, and the fault with its element. -/
def MemPlan.gather (p : MemPlan) (before : List Hit) (i : Nat) : Nat → M (List Hit × Option (Nat × Nat × Word))
  | 0 => pure ([], none)
  | n + 1 => do
    let on ← active p.o.vm i
    if on then
      let r ← tryCatch (do return Except.ok (← p.placed before i)) fun e => match e with
        | .trap c v => pure (Except.error (c, v))
        | .wait => stall
      match r with
      | .error (c, v) => pure ([], some (i, c, v))
      | .ok x =>
        let (xs, f) ← p.gather (before ++ [x]) (i + 1) n
        pure (x :: xs, f)
    else p.gather before (i + 1) n

/-- Applies the contributions to each location in any order and any tree, in one read-modify-write (05 R94, R95). -/
def MemPlan.applyAny (p : MemPlan) (op : Nat) (xs : List Hit) (locs : List Nat) : M Unit := do
  locs.forM fun loc => do
    let hits := xs.filter (·.loc == loc)
    let vs : List (Nat → Nat) := hits.map fun x => fun _ => x.value
    let f ← combineAny id (fun f g old => redApply op p.width (f old) (g old)) (vs.length + 1) (id :: vs)
    hits.head?.forM fun x => do
      let _ ← modifyAt x.va .element loc (p.width / 8) f x.mask
  modHart Hart.endElements

/-- FADD at eew 000 and any operation at eew 100 are refused (09 R191). -/
def reduceEew (op : Nat) (o : VmOps) : Bool := o.mode == 2 && o.eew.toNat < 4 && !(op == 1 && o.eew == 0)

/-- The loop of VSREDO, or of VSRED, of operation `op`: each element is applied, or held under DET. Scatter-reductions are
no loads or stores of R224, so they carry no tangents: DEDUCED, log 60. -/
def scatterBody (ordered : Bool) (op : Nat) (o : VmOps) : M VBody := do
  let p ← memDispatch o .source (reduceEew op) false
  p.settlePart
  pure (storeBody o.vm (fun i => do
    let x ← p.hit i
    if !ordered && p.h.det && (regionOf x.loc == .device || regionOf x.loc == .scratch) then p.hold op i x
    else p.apply op x) (p.finish true))

/-- VSRED of FADD without DET: the elements before a fault are combined in any order (05 R94). -/
def scatterAny (op : Nat) (o : VmOps) : M Unit := do
  let p ← memDispatch o .source (reduceEew op) false
  p.settlePart
  let n := p.h.length - p.h.start
  let k := (((← get).part.map (· + 1)).getD n)
  let (xs, f) ← p.gather [] p.h.start (min k n)
  p.applyAny op xs (xs.map (·.loc)).eraseDups
  match f with
  | some (i, c, v) =>
    setStart i
    trap c v
  | none =>
    if k < n then setStart (p.h.start + k)
    else
      setStart 0
      p.finish true
      retire 4

/-- VSREDO, or VSRED, of operation `op`. -/
def scatter (ordered : Bool) (op : Nat) (o : VmOps) : State → Host.Outcome State Fault Refusal := run do
  if !ordered && op = 1 && !(← hart).det then scatterAny op o
  else scatterBody ordered op o >>= runVector

def execVsredIadd (o : VmOps) : State → Host.Outcome State Fault Refusal := scatter false 0 o
def execVsredFadd (o : VmOps) : State → Host.Outcome State Fault Refusal := scatter false 1 o
def execVsredMins (o : VmOps) : State → Host.Outcome State Fault Refusal := scatter false 2 o
def execVsredMaxs (o : VmOps) : State → Host.Outcome State Fault Refusal := scatter false 3 o
def execVsredMinn (o : VmOps) : State → Host.Outcome State Fault Refusal := scatter false 4 o
def execVsredMaxn (o : VmOps) : State → Host.Outcome State Fault Refusal := scatter false 5 o
def execVsredAnd (o : VmOps) : State → Host.Outcome State Fault Refusal := scatter false 6 o
def execVsredIor (o : VmOps) : State → Host.Outcome State Fault Refusal := scatter false 7 o
def execVsredoIadd (o : VmOps) : State → Host.Outcome State Fault Refusal := scatter true 0 o
def execVsredoFadd (o : VmOps) : State → Host.Outcome State Fault Refusal := scatter true 1 o
def execVsredoMins (o : VmOps) : State → Host.Outcome State Fault Refusal := scatter true 2 o
def execVsredoMaxs (o : VmOps) : State → Host.Outcome State Fault Refusal := scatter true 3 o
def execVsredoMinn (o : VmOps) : State → Host.Outcome State Fault Refusal := scatter true 4 o
def execVsredoMaxn (o : VmOps) : State → Host.Outcome State Fault Refusal := scatter true 5 o
def execVsredoAnd (o : VmOps) : State → Host.Outcome State Fault Refusal := scatter true 6 o
def execVsredoIor (o : VmOps) : State → Host.Outcome State Fault Refusal := scatter true 7 o

/-! ### VBIN (09 R192 to R194) -/

/-- The table record's fields that VBIN only reads, and the pages that its probe pass translated. -/
structure BinTable where
  place : Word
  base : Nat
  lsz : Nat
  limit : Nat
  mode : Nat
  policy : Nat
  tag : Nat
  cap : Nat
  cache : PageCache

/-- Translates an address in the probe pass; a fault is a store page fault (09 R194). -/
def binProbePage (cache : PageCache) (va : Word) : M (Nat × PageCache) := do
  let (r, cache) ← locateOnce true .store cache va
  match r with
  | .ok loc => pure (loc, cache)
  | .error f => trap 4 f.2

/-- Translates several addresses. -/
def binProbes : List Word → PageCache → M PageCache
  | [], cache => pure cache
  | va :: vas, cache => do
    let (_, cache) ← binProbePage cache va
    binProbes vas cache

/-- The addresses, rising, that stand for `size` bytes at `base` in a probe pass: one for each page, and in the core-local
window one for each of the 192 banks, which hold 8 bytes in turn (05 R75, R77). A page that begins among those bytes begins at
one of them. -/
def probePoints (base size : Nat) : List Word :=
  let pages := (List.range ((base + size - 1) / 65536 + 1 - base / 65536)).map fun p => max base ((base / 65536 + p) * 65536)
  let lo := max base localBase
  let banks := if lo < base + size then (List.range (min 192 ((base + size - lo + 7) / 8))).map fun k => lo + 8 * k else []
  (pages.filter (· < lo) ++ banks ++ pages.filter (lo ≤ ·)).map (BitVec.ofNat 64 ·)

/-- Reads `n` bytes of the table or its record. -/
def binRead (cache : PageCache) (va : Word) (n : Nat) : M Nat := do
  let (loc, _) ← binProbePage cache va
  return leNat (← useBytes va (← modifyGet fun s => s.stripLoad s.h.strip .table loc n))
def binWrite (cache : PageCache) (va : Word) (n v : Nat) : M Unit := do
  let (loc, _) ← binProbePage cache va
  modify fun s => s.stripStore .table loc (leBytes n v)
/-- Adds one to a counter of the record. -/
def binCount (cache : PageCache) (va : Word) (n : Nat) : M Unit := do
  binWrite cache va n (((← binRead cache va n) + 1) % 2 ^ (8 * n))

/-- Reads and checks the record (09 R192), then runs the probe pass over the table (R194). -/
def binTable (rec : Word) : M BinTable := do
  if rec.toNat % 64 ≠ 0 then trap 6 rec
  let cache ← binProbes (probePoints rec.toNat 64) []
  let base ← binRead cache rec 8
  let b ← binRead cache (rec + 8) 8
  let cap ← binRead cache (rec + 16) 4
  let last ← binRead cache (rec + 56) 8
  let t : BinTable := ⟨rec, base, b % 256, b / 2 ^ 8 % 256, b / 2 ^ 16 % 256, b / 2 ^ 24 % 256, b / 2 ^ 32 % 256, cap, cache⟩
  if base % 16 ≠ 0 || 28 < t.lsz || t.limit = 0 || 8 < t.limit || 1 < t.mode || 1 < t.policy || 15 < t.tag
      || b / 2 ^ 40 ≠ 0 || last ≠ 0 then trap 6 rec
  awaitPillar true .virt base (base + 16 * 2 ^ t.lsz)
  let cache ← binProbes (probePoints base (16 * 2 ^ t.lsz)) cache
  pure { t with cache := cache }

/-- Writes a won entry: key, payload, tag and occupied bit. -/
def binEnter (t : BinTable) (va : Word) (key i : Nat) : M Unit := do
  let h ← hart
  binWrite t.cache va 4 key
  binWrite t.cache (va + 4) 4 ((h.sbase.toNat + i) % 2 ^ 32)
  binWrite t.cache (va + 8) 8 (128 + t.tag)

/-- The probes of one element from probe `j`: won, lost, or neither (09 R193). -/
def binProbe (t : BinTable) (key i h : Nat) : Nat → Nat → M (Option Bool)
  | _, 0 => pure none
  | j, n + 1 => do
    let va := BitVec.ofNat 64 (t.base + 16 * ((h + j) % 2 ^ t.lsz))
    let e ← binRead t.cache va 8
    let m ← binRead t.cache (va + 8) 1
    let d := (t.tag + 16 - m % 16) % 16
    if m / 128 = 0 then
      let occ ← binRead t.cache (t.place + 20) 4
      if t.cap ≤ occ then pure none
      else
        binEnter t va key i
        binCount t.cache (t.place + 20) 4
        binCount t.cache (t.place + 24) 8
        pure (some true)
    else if t.policy = 1 && 1 ≤ d && d ≤ 7 then
      binEnter t va key i
      binCount t.cache (t.place + 32) 8
      pure (some true)
    else if e % 2 ^ 32 = key then
      binCount t.cache (t.place + 40) 8
      pure (some false)
    else binProbe t key i h (j + 1) n

/-- One element of VBIN: whether its key won (09 R193). -/
def binElement (t : BinTable) (key i : Nat) : M Bool := do
  let hash := key * 0x9E3779B1 % 2 ^ 32 / 2 ^ (32 - t.lsz)
  match ← binProbe t key i hash 0 t.limit with
  | some w => pure w
  | none =>
    if t.mode = 0 then
      binCount t.cache (t.place + 48) 8
      pure false
    else trap 19 t.place

def vbinBody (m : BitVec 3) (b : SReg) (v : BitVec 5) : M VBody := do
  let h ← hart
  if h.badType || h.sewCode ≠ 18 then trap 7 h.vtype
  let d := m.toNat
  let key := h.sourceUse true v.toNat 32
  let keyW := key.flatMap Use.windows
  windowCheck (firstFailure (h.checkUse (h.muse d) 0 keyW [] :: key.map (h.checkUse · 0 [] [])))
  awaitFull (if key.isEmpty then [] else h.groupRegs v.toNat) []
  awaitPushes [h.mwin d]
  let rec' := h.get b
  awaitPillar true .virt rec'.toNat (rec'.toNat + 64)
  let t ← binTable rec'
  pure {
    vm := true
    elem := fun i => do
      let k ← sourceElem v.toNat 32 false i 0
      let won ← binElement t k i
      modify fun s => s.mwrite h d i (if won then 1 else 0)
    fill := fun i => modify fun s => s.mwrite h d i 1
    finish := endBindings [v.toNat] }

def execVbin (m : BitVec 3) (b : SReg) (v : BitVec 5) : State → Host.Outcome State Fault Refusal := run (vbinBody m b v >>= runVector)

end Sys2Proof.Machine
end

