-- ==== Sys2Proof/Machine/Push.lean ====
section
/-! DEFINITION. Full-empty bits and pushes between harts: VPUSH, its delivery, VFE (09 R195 to R198). -/
namespace Sys2Proof.Machine

/-- A hart of a core's slot that holds the slot: a saved pre-empting hart has surrendered it (07 R140). -/
def State.inSlot (s : State) (stop slot : Nat) : Option Hart := s.harts.find? fun h => h.stop == stop && h.slot == slot && !h.saved

/-- The fields of a destination descriptor (09 R196). -/
structure PushTarget where
  node : Nat
  stop : Nat
  slot : Nat
  first : Nat
  count : Nat

/-- The descriptor's fields, none when one is outside its limits. -/
def pushTarget (d : Word) : Option PushTarget :=
  let v := d.toNat
  let core := v / 2 ^ 24 % 64
  let slot := v / 2 ^ 16 % 16
  let first := v / 2 ^ 8 % 32
  let count := v % 16
  if v / 2 ^ 40 ≠ 0 || 40 ≤ core || 8 < slot || v / 2 ^ 20 % 16 ≠ 0 || v / 2 ^ 13 % 8 ≠ 0 || v / 2 ^ 4 % 16 ≠ 0
      || count = 0 || 8 < count || 27 < first + count - 1 then none
  else some ⟨v / 2 ^ 32 % 256, v / 2 ^ 30 % 4 * 40 + core, slot, first, count⟩

/-- Whether registers of a hart are reserved by an accepted push (09 R198). -/
def State.reserved (s : State) (k : HKey) (first count : Nat) : Bool :=
  s.pushes.any fun p => p.dest == some k && p.first < first + count && first < p.first + p.count

/-- Whether every register of a range is empty and not reserved. -/
def State.canAccept (s : State) (h : Hart) (first count : Nat) : Bool :=
  ((List.range count).all fun j => !h.full.getLsbD (first + j)) && !s.reserved h.key first count

/-- The hart that accepts the push, `some none` for a package over the links; none while the push waits. -/
def acceptPush (t : PushTarget) : M (Option (Option HKey)) := do
  if t.node = 0 then
    let s ← get
    match s.inSlot t.stop t.slot with
    | some d => pure (if s.canAccept d t.first t.count then some (some d.key) else none)
    | none => pure none
  else
    let i ← choose 2
    pure (if i = 0 then some none else none)

/-- The Pillar read entry of a VPUSH on its source windows. -/
def pushEntry (srcs : List (Nat × Nat)) : M Nat := do
  let h ← hart
  let lo := srcs.foldl (fun m s => min m s.1) 16384
  let hi := srcs.foldl (fun m s => max m (s.1 + s.2)) 0
  heldEntry fun id => { id := id, stop := h.stop, owner := h.key, write := false, space := .regs, lo := lo, hi := hi }

/-- VPUSH (09 R196). Its source group has the descriptor's count of registers, since VPUSH does not depend on VTYPE (R175). Two
points are the model's: a source group whose registers differ in LEN is moved as R190 lays it out
(DESIGN CHOICE, log 64); and, as VSPILL, it reads the windows of v24 to v27 also while their queues are bound (log 59). -/
def execVpush (b : SReg) (v : BitVec 5) : State → Host.Outcome State Fault Refusal := run do
  let h ← hart
  let r := v.toNat
  let d := h.get b
  match pushTarget d with
  | none => trap 6 d
  | some t =>
    if 27 < r + t.count - 1 then trap 9 (BitVec.ofNat 64 (0x020 + r))
    let ws := (List.range t.count).map fun k => h.vwin (r + k)
    windowCheck ((ws.find? fun w => h.partLen < w.base + w.len).map (·.cr))
    if t.node ≠ 0 && !(← get).reaches t.node then trap 6 d
    awaitFull ((List.range t.count).map (r + ·)) []
    let srcs := spillRegs h r t.count
    let id ← pushEntry srcs
    match ← acceptPush t with
    | none => stall
    | some dest =>
      modHart Hart.settle
      modify fun s => { s with pushes := s.pushes ++ [⟨id, h.stop, h.key, h.lane0, h.lanes, srcs, t.node, dest, t.first, t.count⟩] }
      retire 4

/-- The entry of a VPUSH that neither waits nor is accepted, or of a tile transfer that performs rows no more, is freed: it was
interrupted. -/
def State.sweepPillars (s : State) : State :=
  { s with pillars := s.pillars.filter fun p => (p.space != .regs && !p.running) || s.pushes.any (·.id == p.id)
      || s.harts.any fun h => h.begun.any (·.doing == .entry p.id) }

/-- Moves `n` bytes of a stream from the pusher's registers to the destination's (09 R196). Where a destination window reaches past
the destination hart's partition, VFILL would raise cause 9 and the spec does not say what a delivery does: the bytes are
written all the same (DESIGN CHOICE, log 71). -/
def State.copyStream (p : Push) (d : Hart) (s : State) (n : Nat) : State :=
  let regs := spillRegs d p.first p.count
  (List.range n).foldl (fun s q =>
    let (lane, off) := streamPlace p.lanes p.laneCount p.srcs q
    let (lane', off') := streamPlace d.lane0 d.lanes regs q
    let b := s.laneRead p.stop lane off 1
    s.laneWrite d.stop lane' off' 1 b.val b.bad.isSome) s

/-- The registers of a delivered push become full and pushed (09 R195). -/
def Hart.receive (h : Hart) (first count : Nat) : Hart :=
  let bits : BitVec 28 := BitVec.ofNat 28 ((2 ^ count - 1) * 2 ^ first)
  { h with full := h.full ||| bits, pushed := h.pushed ||| bits }

/-- Delivery of an accepted push (09 R196): its source is read, so its Pillar entry is freed (05 R86). -/
def State.deliver (s : State) (id : Nat) : State :=
  match s.pushes.find? (·.id == id) with
  | none => s
  | some p =>
    let s' := { s.freePillars id with pushes := s.pushes.filter (·.id != id) }
    match p.dest.bind s.hartOf? with
    | none => s'
    | some d =>
      let n := min (streamBytes p.laneCount p.srcs) (streamBytes d.lanes (spillRegs d p.first p.count))
      (s'.copyStream p d n).onKey d.key (·.receive p.first p.count)

/-- The hart that can accept a push that arrives over the links (23 R352, log 20). -/
def State.inboundDest (s : State) (p : InPush) : Option (Hart × PushTarget) :=
  match pushTarget p.desc with
  | none => none
  | some t => match s.inSlot t.stop t.slot with
    | none => none
    | some d => if s.reaches p.node && s.canAccept d t.first t.count then some (d, t) else none

/-- A push that arrives over the links is accepted and delivered whole (23 R352, R353); one that no hart can accept waits
outside. -/
def State.deliverInbound (s : State) (p : InPush) : State :=
  match s.inboundDest p with
  | none => s
  | some (d, t) =>
    let regs := spillRegs d t.first t.count
    let n := min p.data.length (streamBytes d.lanes regs)
    ((List.range n).foldl (fun s q =>
      let (lane, off) := streamPlace d.lane0 d.lanes regs q
      let (b, bad) := (p.data[q]?).getD (0, false)
      s.laneWrite d.stop lane off 1 b.toNat bad) s).onKey d.key (·.receive t.first t.count)

/-- Delivery of a push: of the package itself, or of another package. -/
def execVpushDelivery (id : Nat) (s : State) : Host.Outcome State Fault Refusal :=
  .next (match s.outside with
    | some (.push p) => s.deliverInbound p
    | _ => s.deliver id)

/-- VFE empties registers once no push into them is undelivered and no earlier push of the hart has still to read them
(09 R197). -/
def execVfe (v : BitVec 5) (n : BitVec 3) : State → Host.Outcome State Fault Refusal := run do
  let h ← hart
  let count := n.toNat + 1
  if 27 < v.toNat + count - 1 then trap 9 (BitVec.ofNat 64 (0x020 + v.toNat))
  if (← get).reserved h.key v.toNat count then stall
  awaitPushes ((List.range count).map fun k => h.vwin (v.toNat + k))
  modHart fun h => { h with full := h.full &&& ~~~(BitVec.ofNat 28 ((2 ^ count - 1) * 2 ^ v.toNat)) }
  retire 4

end Sys2Proof.Machine
end

