-- ==== Sys2Proof/Machine/Crew.lean ====
section
/-! DEFINITION. Harts and crews: launches, placement and pre-emption, farms, posts, barriers and convoys (07 R121 to R145,
01 R9, R14, R15). -/
namespace Sys2Proof.Machine

/-! ### Launch ids and entries (07 R123, R124) -/

/-- The launch id of an entry (07 R123). -/
def Launch.lid (l : Launch) : BitVec 32 := BitVec.ofNat 32 (l.die * 2 ^ 30 + l.gen * 2 ^ 12 + l.idx)
def State.launchOf (s : State) (lid : BitVec 32) : Option Launch := s.launches.find? (·.lid == lid)
def State.onLaunch (s : State) (lid : BitVec 32) (f : Launch → Launch) : State :=
  { s with launches := updateFirst (·.lid == lid) f s.launches }

/-- Whether a predecessor id counts as completed (07 R124). Of an id that names a launch accepted later, R124's definition says that it
counts as completed, since its generation differs or its entry is FREE, and R124's last sentence that the launch waits for ever: the
model follows the definition (DESIGN CHOICE, log 86). -/
def State.completed (s : State) (lid : BitVec 32) : Bool :=
  match s.launchOf lid with
  | some l => l.st == .free
  | none => true

/-- Indices of a die's entries in use, ascending. -/
def State.usedEntries (s : State) (die : Nat) : List Nat :=
  (s.launches.filter fun l => l.die == die && l.st != .free).foldl (fun is l => insertSorted is l.idx) []

/-- The generation that an entry gets when it is taken (07 R123). -/
def State.nextGen (s : State) (die idx : Nat) : Nat :=
  match s.launches.find? fun l => l.die == die && l.idx == idx with
  | some l => (l.gen + 1) % 0x3FFFF
  | none => 0

/-! ### Launch records (01 R14, 07 R126) -/

def launchRec (ws : List Word) : LaunchRec :=
  let w (i : Nat) : Word := (ws[i]?).getD 0
  { entry := w 0, args := w 1, done := w 2, value := w 3, countVa := w 4
    preds := [(w 5).extractLsb' 0 32, (w 5).extractLsb' 32 32, (w 6).extractLsb' 0 32, (w 6).extractLsb' 32 32]
    crew := (w 7).toNat % 2 ^ 16
    shape := (w 7).toNat / 2 ^ 16 % 256
    prio := (w 7).toNat / 2 ^ 24 % 256
    regs := (w 7).toNat / 2 ^ 32 % 256
    banks := (w 7).toNat / 2 ^ 40 % 256
    flags := (w 7).extractLsb' 48 8
    reserved := (w 7).toNat / 2 ^ 56 }

def LaunchRec.isGang (r : LaunchRec) : Bool := r.flags.getLsbD 0
def LaunchRec.det (r : LaunchRec) : Bool := r.flags.getLsbD 1
def LaunchRec.tan (r : LaunchRec) : Bool := r.flags.getLsbD 2
def LaunchRec.realTime (r : LaunchRec) : Bool := r.flags.getLsbD 3

/-- A field outside its limits (01 R14); the count word's alignment is LAUNCHI's own check (07 R127). -/
def LaunchRec.outOfLimits (r : LaunchRec) : Bool :=
  r.entry.toNat % 2 ≠ 0 || r.done.toNat % 8 ≠ 0 || r.crew = 0 || !([1, 2, 4, 8].contains r.shape) || 224 < r.regs
    || 192 < r.banks || r.flags.toNat / 16 ≠ 0 || r.reserved ≠ 0

/-- How many such members an empty core holds (02 R19 to R21). -/
def LaunchRec.perCore (r : LaunchRec) : Nat :=
  let byClusters := 8 / r.shape
  if r.banks = 0 then byClusters else if 176 < r.banks then 1 else min byClusters (176 / r.banks)

/-- A gang of `crew` members that an empty die could not hold (07 R126). -/
def LaunchRec.neverFits (r : LaunchRec) (crew : Nat) : Bool := r.isGang && 40 * r.perCore < crew

/-! ### Acceptance and eligibility (07 R124 to R127) -/

/-- An entry whose predecessors have completed becomes READY; a count word is read now (07 R127). The spec does not say what the part
does with a mark on that word: it takes the bits (DESIGN CHOICE, log 87). -/
def State.becomeReady (s : State) (lid : BitVec 32) : State :=
  match s.launchOf lid with
  | none => s
  | some l =>
    match l.countPa with
    | none => s.onLaunch lid fun l => { l with st := .ready }
    | some (pa, _) =>
      let r := s.rawRead pa 4
      let n := leNat r.1
      r.2.onLaunch lid fun l =>
        if n = 0 then { l with st := .draining, crew := 0, status := 0 }
        else if l.record.crew < n || l.record.neverFits n then { l with st := .draining, crew := 0, status := 3 }
        else { l with st := .ready, crew := n }

/-- Whether every predecessor of a launch has completed. -/
def State.eligible (s : State) (l : Launch) : Bool := l.record.preds.all s.completed

/-- Accepts a record into entry `idx` of a die's table: the launch id, and the state. The order of acceptance, in which the
placer takes the launches of a class (07 R137), is the order in which LAUNCH took the records, as R124 uses the word, not that
in which the entries became READY, as R146 does: DESIGN CHOICE, log 65. -/
def State.accept (s : State) (h : Hart) (idx : Nat) (r : LaunchRec) (countPa : Option (Nat × Bool)) : BitVec 32 × State :=
  let l : Launch :=
    { die := h.die, stop := h.stop, idx := idx, gen := s.nextGen h.die idx, st := .waiting, record := r, countPa := countPa, asid := h.asid
      ptbase := h.ptbase, seq := s.nextId, crew := r.crew, placed := 0, gone := 0, lost := false, status := 0
      barsDone := 0, convoysDone := 0 }
  let t := { s with
    nextId := s.nextId + 1
    launches := s.launches.filter (fun x : Launch => !(x.die == h.die && x.idx == idx)) ++ [l] }
  (l.lid, if t.eligible l then t.becomeReady l.lid else t)

/-- The record of a LAUNCH or LAUNCHI and the place of its count word (07 R126, R127): they are read once. -/
def readLaunch (b : SReg) (counted : Bool) : M (LaunchRec × Option (Nat × Bool)) := do
  match (← hart).doing with
  | some (.launch r countPa) => pure (r, countPa)
  | _ =>
    let ea ← rd b
    if ea.toNat % 64 ≠ 0 then trap 2 ea
    let r := launchRec (← recordWords ea 8)
    if counted then
      if r.countVa.toNat % 4 ≠ 0 then trap 2 r.countVa
      let loc ← locate r.countVa .load
      if regionOf loc = .control then trap 6 r.countVa
      pure (r, some (loc, (← get).isGlobal r.countVa.toNat loc))
    else pure (r, none)

/-- LAUNCH and LAUNCHI (07 R126 to R128). They release (05 R87). -/
def launchWith (a b : SReg) (counted : Bool) : M Unit := do
  release
  let (r, countPa) ← readLaunch b counted
  let s ← get
  let used := s.usedEntries s.h.die
  let id ← if r.outOfLimits || r.neverFits r.crew then pure (BitVec.allOnes 64)
    else if 4096 ≤ used.length then
      if r.realTime then
        begin (.launch r countPa)
        stall
      else pure (BitVec.allOnes 64)
    else do
      let i ← choose (4096 - used.length)
      let lid ← modifyGet fun s => s.accept s.h (nthFree used i) r countPa
      pure (zx lid)
  wr a id
  retire 4

def execLaunch (a b : SReg) : State → Host.Outcome State Fault Refusal := run (launchWith a b false)
def execLaunchi (a b : SReg) : State → Host.Outcome State Fault Refusal := run (launchWith a b true)

def execLaunchReady (lid : BitVec 32) (s : State) : Host.Outcome State Fault Refusal := .next (s.becomeReady lid)

/-- LWAIT (07 R130). A matching entry that no launch has used yet has no status: the value is open (log 31). -/
def execLwait (a b : SReg) : State → Host.Outcome State Fault Refusal := run do
  let v ← rd b
  if 2 ^ 32 ≤ v.toNat then illegal (codeRR 21 10 a b 0)
  closeStrip
  let s ← get
  let lid := v.setWidth 32
  let used := s.launches.any fun l => l.die == v.toNat / 2 ^ 30 && l.idx == v.toNat % 4096
  match s.launchOf lid with
  | some l => if l.st = .free then wr a (BitVec.ofNat 64 l.status) else stall
  | none => if !used && v.toNat / 4096 % 0x40000 = 0 then wr a (← freeWord) else wr a 2
  retire 4

/-! ### Room on a core (07 R137, 02 R20, R21) -/

/-- The first cluster and the number of clusters of a hart. -/
def Hart.cluster0 (h : Hart) : Nat := h.vpart.toNat / 2 ^ 32 % 8
def Hart.clusters (h : Hart) : Nat := 2 ^ (h.vpart.toNat / 2 ^ 40 % 4)
/-- Whether a hart is bound to one of `n` clusters from `k` upward. -/
def Hart.onClusters (h : Hart) (k n : Nat) : Bool := h.cluster0 < k + n && k < h.cluster0 + h.clusters
/-- Whether a hart holds one of `n` scratchpad banks from `b` upward. -/
def Hart.onBanks (h : Hart) (b n : Nat) : Bool := spBase h.vpart < b + n && b < spBase h.vpart + spLen h.vpart

/-- Every hart bound to a core, saved ones included (07 R140). -/
def State.residents (s : State) (stop : Nat) : List Hart := s.harts.filter (·.stop == stop)

/-- Free hart slots of a core. -/
def State.freeSlots (s : State) (stop : Nat) : List Nat :=
  (List.range 8).filter fun i => (s.residents stop).all (·.slot != i)

/-- The lowest free aligned clusters of a shape. -/
def State.freeCluster (s : State) (stop shape : Nat) : Option Nat :=
  ((List.range (8 / shape)).map (· * shape)).find? fun k => (s.residents stop).all fun h => !h.onClusters k shape

/-- The lowest free run of scratchpad banks. -/
def State.freeBanks (s : State) (stop banks : Nat) : Option Nat :=
  if banks = 0 then some 0
  else (List.range ((if 176 < banks then 192 else 176) + 1 - banks)).find? fun b =>
    (s.residents stop).all fun h => !h.onBanks b banks

/-- Clusters and banks for a member on a core with a free slot. The clusters are the member's alone, so the lowest free
per-lane offset is 0. -/
def State.roomOn (s : State) (stop : Nat) (r : LaunchRec) : Option (Nat × Nat) :=
  if s.failed.contains stop || (s.freeSlots stop).isEmpty then none
  else match s.freeCluster stop r.shape, s.freeBanks stop r.banks with
    | some k, some b => some (k, b)
    | _, _ => none

/-- The first core of a die, in ascending stop order, with room: stop, cluster, bank. -/
def State.findRoom (s : State) (die : Nat) (r : LaunchRec) : Option (Nat × Nat × Nat) :=
  (List.range 40).findSome? fun i => (s.roomOn (40 * die + i) r).map (40 * die + i, ·)

/-! ### Creating a member (01 R9, 07 R122, 09 R170) -/

/-- Where a member is bound. -/
structure Seat where
  stop : Nat
  slot : Nat
  cluster : Nat
  base : Nat               -- granules
  len : Nat
  bank : Nat
  banks : Nat
  deriving DecidableEq, Repr

/-- The storage without the bytes that a predicate names: they read as zero. -/
def Memory.erase (m : Memory) (p : Nat → Bool) : Memory := ⟨m.cells.filter fun c => !p c.1⟩

/-- Whether a place of register memory lies in a seat's partition. -/
def Seat.ownsReg (p : Seat) (shape loc : Nat) : Bool :=
  let off := loc % 16384
  let lane := loc / 16384 % 64
  loc / 16384 / 64 == p.stop && 8 * p.cluster ≤ lane && lane < 8 * (p.cluster + shape)
    && 2 * p.base ≤ off && off < 2 * (p.base + p.len)
/-- Whether a location lies in a seat's scratchpad banks (05 R77). -/
def Seat.ownsScratch (p : Seat) (loc : Nat) : Bool :=
  let bank := (loc - scratchLoc p.stop) / 8 % 192
  scratchLoc p.stop ≤ loc && loc < scratchLoc p.stop + 0x300000 && p.bank ≤ bank && bank < p.bank + p.banks

/-- The partition and the banks of a seat read as zero (09 R170). -/
def State.clearSeat (s : State) (p : Seat) (shape : Nat) : State :=
  { s with
    regs := s.regs.erase (p.ownsReg shape)
    regPoison := s.regPoison.filter fun w => !p.ownsReg shape (8 * w)
    mem := s.mem.erase p.ownsScratch
    poison := s.poison.filter fun w => !p.ownsScratch (8 * w) }

/-- VPART of a seat (09 R169). -/
def Seat.vpart (p : Seat) (shape : Nat) : Word :=
  BitVec.ofNat 64 (p.base + p.len * 2 ^ 16 + p.cluster * 2 ^ 32 + shape.log2 * 2 ^ 40 + p.bank * 2 ^ 48 + p.banks * 2 ^ 56)

/-- A member at its entry (01 R9). -/
def Launch.member (l : Launch) (p : Seat) : Hart :=
  { live := true
    key := ⟨l.lid, BitVec.ofNat 16 l.placed⟩
    stop := p.stop
    slot := p.slot
    prio := l.record.prio
    gang := l.record.isGang
    s := ((Vector.replicate 32 (0 : Word)).set 4 l.record.args).set 5 (BitVec.ofNat 64 l.placed)
    pc := l.record.entry
    vpart := p.vpart l.record.shape
    hctl := (if l.record.det then 1 else 0) ||| (if l.record.tan then 2 else 0)
    asid := l.asid
    ptbase := l.ptbase }

/-- Binds the next member of a launch to a seat; the last one makes it RUNNING. -/
def State.bind (s : State) (l : Launch) (p : Seat) : State :=
  let t := s.clearSeat p l.record.shape
  { t with others := t.others ++ [l.member p] }.onLaunch l.lid fun l =>
    { l with placed := l.placed + 1, st := if l.placed + 1 = l.crew then .running else l.st }

/-! ### The placer (07 R131, R137) -/

/-- Whether the placer takes one READY launch before another. -/
def Launch.ahead (a b : Launch) : Bool :=
  if a.record.prio ≠ b.record.prio then b.record.prio < a.record.prio
  else if a.record.realTime ≠ b.record.realTime then a.record.realTime
  else a.seq < b.seq

/-- The READY launch that the placer of a die takes next. -/
def State.nextLaunch (s : State) (die : Nat) : Option Launch :=
  (s.launches.filter fun l => l.die == die && l.st == .ready).foldl
    (fun best l => match best with | none => some l | some b => if l.ahead b then some l else some b) none

/-- A member placed where there is room. -/
def State.seatMember (s : State) (l : Launch) : Option State :=
  match s.findRoom l.die l.record with
  | none => none
  | some (stop, k, b) =>
    let slots := s.freeSlots stop
    let (i, s) := s.choose slots.length
    some (s.bind l ⟨stop, pick 0 slots i, k, 0, 32 * l.record.regs, b, l.record.banks⟩)

/-! ### Pre-emption (07 R138 to R141, 02 R21) -/

/-- What R138 asks of a launch that may pre-empt. -/
def State.mayPreempt (s : State) (l : Launch) : Bool :=
  (s.die l.die).pmin.toNat ≤ l.record.prio && l.record.regs ≤ 32 && l.record.banks ≤ 16

/-- The pre-empting hart that holds a core's pre-emption slot. -/
def State.slotHolder (s : State) (stop : Nat) : Option Hart := (s.residents stop).find? fun h => h.preempting && !h.saved

/-- The harts of ordinary slots that hold one of the clusters. -/
def State.holders (s : State) (stop k n : Nat) : List Hart :=
  (s.residents stop).filter fun h => !h.preempting && h.onClusters k n

/-- A candidate of R138: the core, the clusters, the highest victim priority and the number of victims. -/
structure Candidate where
  stop : Nat
  cluster : Nat
  top : Nat
  count : Nat
  deriving DecidableEq, Repr

/-- Whether a launch may freeze victims on a core where harts have surrendered the pre-emption slot: they made room for it, and
every push accepted into their registers is delivered; otherwise the next hart there is the saved one (07 R140, 09 R198). -/
def State.slotFor (s : State) (l : Launch) (stop : Nat) : Bool :=
  let saved := (s.residents stop).filter (·.saved)
  saved.isEmpty || (saved.any (fun h => h.asked == some l.lid) && saved.all fun h => s.pushes.all (·.dest != some h.key))

/-- One core and cluster set: none when it is no candidate. `held` asks for cores whose slot is held. -/
def State.candidate (s : State) (l : Launch) (held : Bool) (stop k : Nat) : Option Candidate :=
  let ordinary := (s.residents stop).filter (!·.preempting)
  let hs := s.holders stop k l.record.shape
  let slot := s.slotHolder stop
  let victims := hs ++ slot.toList
  if s.failed.contains stop || ordinary.any (·.onBanks 176 16) || hs.isEmpty || slot.isSome != held || !(held || s.slotFor l stop)
      || victims.any (fun h => l.record.prio ≤ h.prio) then none
  else some ⟨stop, k, victims.foldl (fun m h => max m h.prio) 0, victims.length⟩

def Candidate.better (a b : Candidate) : Bool :=
  if a.top ≠ b.top then a.top < b.top else if a.count ≠ b.count then a.count < b.count else a.stop < b.stop

/-- The candidates of one core. -/
def State.candidatesAt (s : State) (l : Launch) (held : Bool) (stop : Nat) : List Candidate :=
  ((List.range (8 / l.record.shape)).map (· * l.record.shape)).filterMap (s.candidate l held stop)

/-- The candidate that the placer takes among some cores (07 R138); among sets of one core that tie, the lowest. -/
def State.bestAmong (s : State) (l : Launch) (held : Bool) (stops : List Nat) : Option Candidate :=
  (stops.flatMap (s.candidatesAt l held)).foldl
    (fun best c => match best with | none => some c | some b => if c.better b then some c else some b) none
def State.bestCandidate (s : State) (l : Launch) (held : Bool) : Option Candidate :=
  s.bestAmong l held ((List.range 40).map (40 * l.die + ·))

/-- The candidate at the cores whose slot was surrendered to a launch: it pre-empts there (07 R140). -/
def State.askedCandidate (s : State) (l : Launch) : Option Candidate :=
  s.bestAmong l false (((List.range 40).map (40 * l.die + ·)).filter fun t =>
    (s.slotHolder t).isNone && (s.residents t).any fun h => h.saved && h.asked == some l.lid)

/-- Changes every hart. -/
def State.onAll (s : State) (f : Hart → Hart) : State :=
  { s with h := if s.h.live then f s.h else s.h, others := s.others.map f }

/-- What a boundary holds before a freeze: the debug halt that is due, or gang loss (08 R159). -/
def Hart.beforeFreeze (h : Hart) (svec : Word) : Hart :=
  if h.haltReq && !h.halted then h.halt
  else match h.gangLost with
    | t :: rest => if h.level = .user && !h.halted then { h with gangLost := rest }.trapEntry svec 17 (BitVec.ofNat 64 t) else h
    | [] => h

/-- Freezing a victim (07 R139, 09 R182). -/
def Hart.freeze (h : Hart) (svec : Word) : Hart := 
  { (h.beforeFreeze svec).dropQueued with frozen := true, lane := none, pillarAt := none }

/-- Freezes the victims and starts the pre-empting hart in the reserved partition (07 R139). -/
def State.preemptAt (s : State) (l : Launch) (c : Candidate) : State :=
  let t := s.onAll fun h =>
    if h.stop = c.stop && h.preempting && h.saved then { h with asked := none }
    else if h.stop = c.stop && !h.preempting && h.onClusters c.cluster l.record.shape then h.freeze (s.die l.die).svec
    else h
  t.bind l ⟨c.stop, 8, c.cluster, 7168, 1024, 176, 16⟩

/-- A member placed on the core whose pre-empting hart must first surrender its slot: the trial of R138 goes on as if it
had done so. -/
def State.pretendSaved (s : State) (stop : Nat) (lid : BitVec 32) : State :=
  s.onAll fun h => if h.stop = stop && h.preempting && !h.saved then { h with saved := true, asked := some lid } else h

/-- How far the placer may go: room only, free pre-emption slots, held ones. -/
inductive Reach where
  | room | slots | held
  deriving DecidableEq, Repr

/-- The next member of a launch placed, and the core whose slot it needs surrendered. A slot that was surrendered to it comes
first. -/
def State.planMember (s : State) (l : Launch) (r : Reach) : Option (State × List Nat) :=
  match if r = .room || !s.mayPreempt l then none else s.askedCandidate l with
  | some c => some (s.preemptAt l c, [])
  | none => match s.seatMember l with
  | some t => some (t, [])
  | none =>
    if r = .room || !s.mayPreempt l then none
    else match s.bestCandidate l false with
      | some c => some (s.preemptAt l c, [])
      | none =>
        if r = .slots then none
        else (s.bestCandidate l true).map fun c => ((s.pretendSaved c.stop l.lid).preemptAt l c, [c.stop])

/-- The next `n` members placed. -/
def State.planMembers (lid : BitVec 32) (r : Reach) : Nat → State → List Nat → Option (State × List Nat)
  | 0, s, stops => some (s, stops)
  | n + 1, s, stops =>
    match s.launchOf lid with
    | none => none
    | some l =>
      match s.planMember l r with
      | none => none
      | some (t, more) => State.planMembers lid r n t (stops ++ more)

/-- What the placer does with the next launch of a die: a gang whole, otherwise one member (07 R131, R137). -/
def State.plan (s : State) (l : Launch) (r : Reach) : Option (State × List Nat) :=
  State.planMembers l.lid r (if l.record.isGang then l.crew - l.placed else 1) s []

/-- Placement within a reach; nothing changes when there is none. -/
def State.placeWithin (s : State) (lid : BitVec 32) (r : Reach) : State :=
  match s.launchOf lid with
  | none => s
  | some l => match s.plan l r with | some (t, _) => t | none => s

def execPlacement (lid : BitVec 32) (s : State) : Host.Outcome State Fault Refusal := .next (s.placeWithin lid .room)
def execPreEmption (lid : BitVec 32) (s : State) : Host.Outcome State Fault Refusal := .next (s.placeWithin lid .slots)

/-- The pre-empting hart of a core is told to surrender its slot (07 R140). -/
def execSlotEviction (stop : Nat) (lid : BitVec 32) (s : State) : Host.Outcome State Fault Refusal :=
  .next (s.onAll fun h => if h.stop = stop && h.preempting && !h.saved then { h with evict := some (zx lid) } else h)

/-- YIELD surrenders the slot in the handler of R140; elsewhere it only advances (07 R142). The handler that a re-placed hart
enters (cause 19 with TRAPVAL[63] = 1) counts as elsewhere: R140 and R142 leave that open (DESIGN CHOICE, log 66). -/
def execYield : State → Host.Outcome State Fault Refusal := run do
  retire 4
  modHart fun h => if h.asked.isSome && h.level != .user then { h with saved := true } else h

/-- Register files whose contents the spec does not state: free values (log 32). -/
def Hart.scramble (h : Hart) (n : Nat) : Hart :=
  let w (i : Nat) : Word := BitVec.ofNat 64 (Config.free (n + i))
  { h with
    s := (Vector.ofFn fun i : Fin 32 => w i).set 0 0
    b := Vector.ofFn fun i : Fin 8 => w (32 + i)
    alt := Vector.ofFn fun i : Fin 8 => w (40 + i)
    stan := Vector.ofFn fun i : Fin 128 => if i.val % 32 = 0 then 0 else w (48 + i)
    altStan := Vector.ofFn fun i : Fin 32 => w (176 + i) }

/-- The seat of a pre-empting hart. -/
def Hart.seat (h : Hart) : Seat := ⟨h.stop, 8, h.cluster0, 7168, 1024, 176, 16⟩

/-- A saved hart is re-placed on its clusters and enters its handler with cause 19, TRAPVAL[63] = 1 (07 R140); the other
bits of TRAPVAL are open. -/
def State.replace (s : State) (k : HKey) : State :=
  match s.hartOf? k with
  | none => s
  | some h =>
    let t := s.clearSeat h.seat h.clusters
    let val := 0x8000000000000000 ||| BitVec.ofNat 64 (Config.free (s.tick + 208))
    { t with tick := t.tick + 209 }.onKey k fun h =>
      { h.scramble s.tick with saved := false, asked := none, level := .supervisor }.trapEntry (s.die h.die).svec 19 val
def execSavedHartReplacement (k : HKey) (s : State) : Host.Outcome State Fault Refusal := .next (s.replace k)

/-- A frozen hart whose clusters no pre-empting hart, resident or saved, holds any more (07 R141). -/
def State.released (s : State) (h : Hart) : Bool :=
  h.frozen && (s.residents h.stop).all fun p => !(p.preempting && p.onClusters h.cluster0 h.clusters)
def execVictimResume (stop : Nat) (s : State) : Host.Outcome State Fault Refusal :=
  .next (s.onAll fun h => if h.stop = stop && s.released h then { h with frozen := false } else h)

/-! ### The Shaft ring (07 R135, 02 R23) -/

/-- Whether a message has passed a stop already. -/
def RingMsg.passed (m : RingMsg) (stop : Nat) : Bool := (m.next + 159 - stop) % 160 < 160 - m.left
/-- Whether a message has still to leave the stop that sent it. -/
def RingMsg.queuedAt (m : RingMsg) (stop : Nat) : Bool := m.next == stop && m.left == 160
/-- Whether a message is a post to a farm. -/
def RingMsg.postsTo (m : RingMsg) (home entry : Nat) : Bool :=
  match m.kind with
  | .post h e _ => h == home && e == entry
  | _ => false

/-! ### Farms (07 R132 to R135, 01 R15) -/

def State.farm? (s : State) (home entry : Nat) : Option Farm := s.farms.find? fun f => f.stop == home && f.entry == entry
def State.onFarm (s : State) (home entry : Nat) (f : Farm → Farm) : State :=
  { s with farms := updateFirst (fun x => x.stop == home && x.entry == entry) f s.farms }

/-- Entries in use of a core's farm table, ascending. -/
def State.usedFarms (s : State) (stop : Nat) : List Nat :=
  (s.farms.filter (·.stop == stop)).foldl (fun is f => insertSorted is f.entry) []

/-- The place of one of FARM's stores of the state bytes; a page that refuses it reports cause 3 (07 R132). -/
def farmPlace (ea : Word) : M Nat := tryCatch (locate ea .store) fun e => match e with
  | .trap 4 x => trap 3 x
  | .trap c x => trap c x
  | .wait => stall

/-- FARM (07 R132). -/
def execFarm (b : SReg) : State → Host.Outcome State Fault Refusal := run do
  let ea ← rd b
  if ea.toNat % 32 ≠ 0 then trap 2 ea
  let ws ← recordWords ea 4
  let w (i : Nat) : Word := (ws[i]?).getD 0
  let s ← get
  let used := s.usedFarms s.h.stop
  let len := (w 1).toNat % 2 ^ 32
  if 64 ≤ used.length || w 2 ≠ 0 || w 3 ≠ 0 || len = 0 then trap 19 ea
  let i ← choose (64 - used.length)
  let entry := nthFree used i
  let lo ← farmPlace (ea + 16)
  let hi ← farmPlace (ea + 24)
  awaitPillar true .virt (ea.toNat + 16) (ea.toNat + 32)
  storeAt lo (leBytes 8 (0x8000000000000000 + entry * 65536 + s.h.stop))
  storeAt hi (leBytes 8 0)
  modify fun t => { t with farms := t.farms ++
    [⟨s.h.stop, entry, s.h.key, ea.toNat, s.h.asid, s.h.ptbase, 0, (w 0).toNat, len, 0, 0⟩] }
  retire 4

/-- A write in an address space at supervisor level, without the U check, of the control space or of a page that refuses it
nothing (log 37). -/
def State.writeAs (s : State) (asid ptbase : Word) (stop : Nat) (va : Word) (bs : List Byte) : State :=
  match s.locate ⟨.supervisor, asid, ptbase, stop, 0, false⟩ va .store with
  | (.ok loc, t) => if regionOf loc = .control then t else t.rawWrite none loc bs
  | (.error _, t) => t

/-- A strip request to a farm that has ended: its home answers −1, whatever farm its entry holds by then (07 R133). -/
def RingMsg.orphan (m : RingMsg) (home entry : Nat) : RingMsg :=
  match m.kind with
  | .strip k id h e => if h = home && e = entry then { m with kind := .strip k id h 64 } else m
  | _ => m

/-- A farm ends: its entry is freed, its state bytes are zero again, its waiters wake (07 R132). The state bytes are translated
when they are written, as a completion word is (log 37). -/
def State.endFarm (s : State) (f : Farm) : State :=
  let t := { s with
    farms := s.farms.filter fun x => !(x.stop == f.stop && x.entry == f.entry)
    ring := (s.ring.filter fun m : RingMsg => !m.postsTo f.stop f.entry).map fun m : RingMsg => m.orphan f.stop f.entry }
  (t.writeAs f.asid f.ptbase f.stop (BitVec.ofNat 64 (f.recVa + 16)) (List.replicate 16 0)).onAll fun h => match h.waitReg with
    | some w => if w.home = f.stop && w.entry = f.entry then { h with waitReg := some { w with woken := true } } else h
    | none => h

/-- The state word of a farm record: home in [15:0], entry in [21:16] (07 R132). -/
def farmHome (w : Word) : Nat := w.toNat % 65536
def farmEntry (w : Word) : Nat := w.toNat / 65536 % 64

/-- The home gives the next strip index, or −1 (07 R133). -/
def State.takeStrip (s : State) (home entry : Nat) : Word × State :=
  match s.farm? home entry with
  | none => (BitVec.allOnes 64, s)
  | some f =>
    if f.counter < (f.trip + f.len - 1) / f.len then
      (BitVec.ofNat 64 f.counter, s.onFarm home entry fun f => { f with counter := f.counter + 1 })
    else (BitVec.allOnes 64, s)

/-- The state word of a farm record, which FSTRIP, POST and WAITI read; the control space refuses it (24 R355). The spec names no trap
for a record that is not aligned to 32: the state word is read where it lies, and only an address that is no multiple of 8 is
misaligned (DESIGN CHOICE, log 67). -/
def farmWord (ea : Word) : M Word := do
  if ea.toNat % 8 ≠ 0 then trap 2 ea
  recordWord ea

/-- FSTRIP (07 R133): a request travels the ring behind the core's earlier messages; at the home itself, with none before it,
the index comes at once. State bytes that name no core are not FARM's, and the answer is open (log 33). Of the state bytes only the state word is
read: they count as zero where it is, whatever follows it (DESIGN CHOICE, log 83). -/
def execFstrip (a b : SReg) : State → Host.Outcome State Fault Refusal := run do
  let finish (v : Word) : M Unit := do
    wr a v
    retire 4
  match (← hart).doing with
  | some (.strip _ (some v)) => finish v
  | some (.strip _ none) => stall
  | _ =>
    let w ← farmWord ((← rd b) + 16)
    let s ← get
    if w = 0 then finish (BitVec.allOnes 64)
    else if 160 ≤ farmHome w then finish (← freeWord)
    else if farmHome w = s.h.stop && !s.ring.any (·.queuedAt s.h.stop) then
      finish (← modifyGet fun s => s.takeStrip (farmHome w) (farmEntry w))
    else
      let id ← freshId
      modify fun s => { s with ring := s.ring ++ [⟨.strip s.h.key id (farmHome w) (farmEntry w), s.h.stop, 160⟩] }
      begin (.strip id none)
      stall

/-- The answer to a strip request reaches its hart. -/
def Hart.answered (h : Hart) (id : Nat) (v : Word) : Hart :=
  { h with
    begun := h.begun.map fun b => if b.doing == .strip id none then { b with doing := .strip id (some v) } else b
    blocked := false }

/-- Whether a request of a hart is due at the next stop of the ring. -/
def RingMsg.asks (m : RingMsg) (k : HKey) : Bool :=
  match m.kind with
  | .strip k' _ _ _ => k' == k
  | _ => false

/-- Records an iteration: the window shifts past every recorded one at its foot (07 R134). -/
def slideWindow : Nat → Farm → Farm
  | 0, f => f
  | n + 1, f => if f.window.getLsbD 0 then slideWindow n { f with window := f.window >>> 1, front := f.front + 1 } else f
def Farm.post (f : Farm) (k : Nat) : Farm :=
  if f.front ≤ k && k < f.front + 64 && k < f.trip then
    slideWindow 64 { f with window := f.window ||| BitVec.ofNat 64 (2 ^ (k - f.front)) }
  else f

/-- Whether an iteration counts as recorded at the home (07 R134). -/
def Farm.recorded (f : Farm) (k : Nat) : Bool :=
  f.trip ≤ k || k < f.front || (k < f.front + 64 && f.window.getLsbD (k - f.front))

/-- Records the posts to a farm among some messages. -/
def Farm.postAll (f : Farm) (home entry : Nat) (ms : List RingMsg) : Farm :=
  ms.foldl (fun f m => match m.kind with
    | .post home' entry' k => if home' = home && entry' = entry then f.post k else f
    | _ => f) f

/-- The farm as a message that leaves a core now finds it at the least (07 R135, log 48): the posts that are on the links
between the core and the home have been recorded, the nearest to the home first, then those queued at the core itself. A post
queued at a stop on the way, or about to pass the core, may come later. -/
def State.farmAhead (s : State) (home entry stop : Nat) (f : Farm) : Farm :=
  let onWay := (List.range ((home + 160 - stop) % 160)).flatMap fun d =>
    s.ring.filter fun m => m.left ≠ 160 && (home + 160 - m.next) % 160 == d
  (f.postAll home entry onWay).postAll home entry (s.ring.filter (·.queuedAt stop))

/-- POST (07 R134, R135). A record that is not aligned to 32, and state bytes whose word at 16 alone is zero, are taken as FSTRIP
takes them (DESIGN CHOICE, logs 67 and 83). -/
def execPost (b c : SReg) : State → Host.Outcome State Fault Refusal := run do
  closeStrip
  release
  let w ← farmWord ((← rd b) + 16)
  let k ← rd c
  let s ← get
  match s.farm? (farmHome w) (farmEntry w) with
  | none => pure ()
  | some g =>
    let f := s.farmAhead (farmHome w) (farmEntry w) s.h.stop g
    if w = 0 || k.toNat < f.front || f.trip ≤ k.toNat then pure ()
    else if f.front + 64 ≤ k.toNat then trap 19 k
    else modify fun s => { s with ring := s.ring ++ [⟨.post (farmHome w) (farmEntry w) k.toNat, s.h.stop, 160⟩] }
  retire 4

/-- A hart that a passing post wakes, at its stop. -/
def Hart.wakeBy (h : Hart) (stop home entry k : Nat) : Hart :=
  match h.waitReg with
  | some w => if h.stop = stop && w.home = home && w.entry = entry && w.k = k
      then { h with waitReg := some { w with woken := true }, blocked := false } else h
  | none => h

/-- What a message does at a stop: the home records a post and serves a request, and a post wakes the waiters there. -/
def State.atStop (s : State) (stop : Nat) : RingKind → RingKind × State
  | .post home entry k =>
    let t := if stop = home then s.onFarm home entry (·.post k) else s
    (.post home entry k, t.onAll (·.wakeBy stop home entry k))
  | .strip k id home entry =>
    if stop = home then
      let r := s.takeStrip home entry
      (.answer k id r.1, r.2)
    else (.strip k id home entry, s)
  | x => (x, s)

/-- The end of a message's turn: an answer is back at its hart. -/
def State.landMsg (s : State) : RingKind → State
  | .answer k id v => s.onKey k (·.answered id v)
  | _ => s

/-- A message passes the next stop of the ring (07 R133, R135). A request from the home's own core is answered there. -/
def State.passMessage (s : State) (i : Nat) : State :=
  match s.ring[i]? with
  | none => s
  | some m =>
    let (kind, t) := s.atStop m.next m.kind
    let local' := match kind with | .answer _ _ _ => m.left == 160 | _ => false
    let t := { t with ring := t.ring.eraseIdx i }
    if m.left ≤ 1 || local' then t.landMsg kind
    else { t with ring := t.ring ++ [⟨kind, (m.next + 1) % 160, m.left - 1⟩] }
def execPostMessage (i : Nat) (s : State) : Host.Outcome State Fault Refusal := .next (s.passMessage i)

/-- Places of the messages that may pass a stop next: a link, and the post buffer of a stop, keep their messages in order
(07 R135). -/
def ringHeads : List RingMsg → List (Nat × Bool) → Nat → List Nat
  | [], _, _ => []
  | m :: ms, busy, i =>
    let link := (m.next, m.left == 160)
    if busy.contains link then ringHeads ms busy (i + 1) else i :: ringHeads ms (link :: busy) (i + 1)

/-- The place of the request of a hart that may pass a stop next: of an interrupted FSTRIP and its handler's, one at the head
of its link. -/
def State.stripHead (s : State) (k : HKey) : Option Nat :=
  (ringHeads s.ring [] 0).find? fun i => match s.ring[i]? with
    | some m => m.asks k
    | none => false

/-- The request of a hart passes the next stop; the home serves it (07 R133). -/
def execStripRequest (k : HKey) (s : State) : Host.Outcome State Fault Refusal :=
  .next (match s.stripHead k with
    | some i => s.passMessage i
    | none => s)

/-- Whether the message of a POST of `k` has passed a stop already. -/
def RingMsg.postPassed (m : RingMsg) (home entry k stop : Nat) : Bool := m.kind == .post home entry k && m.passed stop

/-- WAITI (07 R134, R135). It registers the farm and the iteration at its stop when it is first executed. A record that is not
aligned to 32, and state bytes whose word at 16 alone is zero, are taken as FSTRIP takes them (DESIGN CHOICE, logs 67 and 83). -/
def execWaiti (b c : SReg) : State → Host.Outcome State Fault Refusal := run do
  closeStrip
  let reg ← match (← hart).waitReg with
    | some r => pure r
    | none => do
      let w ← farmWord ((← rd b) + 16)
      let k ← rd c
      pure ⟨farmHome w, farmEntry w, k.toNat, w == 0⟩
  let s ← get
  let isOver := reg.woken || (match s.farm? reg.home reg.entry with
    | none => true
    | some f => f.recorded reg.k || s.ring.any (·.postPassed reg.home reg.entry reg.k s.h.stop))
  if isOver then
    modHart fun h => { h.acquire with waitReg := none }
    retire 4
  else
    modHart fun h => { h with waitReg := some reg }
    stall

/-! ### Barriers and convoys (07 R136, R144, R145) -/

/-- The members of a launch that are placed and present. -/
def State.members (s : State) (lid : BitVec 32) : List Hart := s.harts.filter (·.key.lid == lid)

/-- Whether the arrival of some member at the n-th BAR of a launch has still to pass a stop (07 R135). -/
def State.arrivalAhead (s : State) (lid : BitVec 32) (n stop : Nat) : Bool :=
  s.ring.any fun m => m.kind == .arrival lid n && !m.passed stop

/-- BAR (07 R135, R136): an arrival travels the ring, and the member goes on once every member has arrived and every arrival
has passed its stop. A hart of no launch is a crew of its own. -/
def execBar : State → Host.Outcome State Fault Refusal := run do
  closeStrip
  let s ← get
  let h := s.h
  match s.launchOf h.key.lid with
  | none => retire 4
  | some l =>
    match h.doing with
    | some (.bar n) =>
      if n ≤ l.barsDone && !s.arrivalAhead h.key.lid n h.stop then
        modHart Hart.acquire
        retire 4
      else stall
    | _ =>
      release
      modHart fun h => { h with bar := h.bar + 1 }
      modify fun s => { s with ring := s.ring ++ [⟨.arrival h.key.lid (h.bar + 1), h.stop, 160⟩] }
      begin (.bar (h.bar + 1))
      stall

/-- Whether the next barrier of a launch may release: every member has arrived, retired or been lost. -/
def State.barReady (s : State) (l : Launch) : Bool :=
  l.placed == l.crew && !(s.members l.lid).isEmpty && (s.members l.lid).all fun h => l.barsDone < h.bar
def execBarrierRelease (lid : BitVec 32) (s : State) : Host.Outcome State Fault Refusal :=
  .next (s.onLaunch lid fun l => { l with barsDone := l.barsDone + 1 })

/-- CONVOY (07 R144). -/
def execConvoy : State → Host.Outcome State Fault Refusal := run do
  closeStrip
  let s ← get
  match s.launchOf s.h.key.lid with
  | none => retire 4
  | some l =>
    if !l.record.det then retire 4
    else match s.h.doing with
    | some (.convoy n) =>
      if n ≤ l.convoysDone then
        modHart Hart.acquire
        retire 4
      else stall
    | _ =>
      release
      modHart fun h => { h with convoy := h.convoy + 1 }
      begin (.convoy (s.h.convoy + 1))
      stall

def State.convoyReady (s : State) (l : Launch) : Bool :=
  l.record.det && l.placed == l.crew && !(s.members l.lid).isEmpty && (s.members l.lid).all fun h => l.convoysDone < h.convoy

/-- Whether a contribution is applied before another: by key, member, order of issue (07 R145). -/
def Contribution.before (a b : Contribution) : Bool :=
  if a.key ≠ b.key then a.key < b.key else if a.member ≠ b.member then a.member < b.member else a.seq < b.seq
def insertContribution (x : Contribution) : List Contribution → List Contribution
  | [] => [x]
  | y :: ys => if x.before y then x :: y :: ys else y :: insertContribution x ys

/-- Applies one contribution to its location, rounded as VSREDO rounds it. -/
def State.contribute (s : State) (c : Contribution) : State :=
  let old := s.mem.readNat c.pa c.bytes
  s.storeNat none c.pa c.bytes (redApply c.op (8 * c.bytes) old c.value) (marked s.poison c.pa c.bytes)

/-- The close of a convoy: every contribution of the launch is applied, each location in order (07 R145). -/
def State.closeConvoy (s : State) (lid : BitVec 32) : State :=
  let mine := (s.contribs.filter (·.lid == lid)).foldr insertContribution []
  { mine.foldl State.contribute s with contribs := s.contribs.filter (·.lid != lid) }

def execConvoyRelease (lid : BitVec 32) (s : State) : Host.Outcome State Fault Refusal :=
  .next ((s.closeConvoy lid).onLaunch lid fun l => { l with convoysDone := l.convoysDone + 1 })

/-! ### Completion (07 R129) -/

/-- The completion word, written in the address space of the launching hart, the window of its core included; a write that
faults is left out. -/
def State.writeCompletion (s : State) (l : Launch) : State :=
  if l.record.done = 0 then s
  else
    s.writeAs l.asid l.ptbase l.stop l.record.done (leBytes 8 l.record.value.toNat)

/-- A launch that is over asks for no id any more (22 R341). -/
def Target.forgive (lid : BitVec 32) (g : Target) : Target := { g with refused := g.refused.filter (· != lid) }

/-- The last convoy closes, the completion word is written, the entry is FREE with its status (07 R129, R145). -/
def State.complete (s : State) (lid : BitVec 32) : State :=
  match s.launchOf lid with
  | none => s
  | some l =>
    let t := ((s.closeConvoy lid).writeCompletion l).onLaunch lid fun l =>
      { l with st := .free, status := if l.lost then 1 else l.status }
    { t with targets := t.targets.map (·.forgive lid) }
def execLaunchCompletion (lid : BitVec 32) (s : State) : Host.Outcome State Fault Refusal := .next (s.complete lid)

/-- A member is gone: retired, or lost with its core (07 R124, 08 R166). -/
def State.memberGone (s : State) (k : HKey) (lost : Bool) : State :=
  s.onLaunch k.lid fun l =>
    let g := l.gone + 1
    { l with gone := g, lost := l.lost || lost, st := if g = l.crew && l.st == .running then .draining else l.st }

end Sys2Proof.Machine
end

