-- ==== Sys2Proof/Machine/VectorArith.lean ====
section
/-! DEFINITION. The arithmetic, bit, move and conversion instructions of the lanes and the compares: majors 29, 30, 32 to 39,
41 and 42 (10 R201 to R212, 04 R62, R63, R71, R72, 11 R228). -/
namespace Sys2Proof.Machine

/-! ### Accepted combinations (10 R201) -/

def FormatWord.all (p : Fmt → Bool) (fw : FormatWord) : Bool := p (fmtOf fw.df) && p (fmtOf fw.af) && p (fmtOf fw.bf)
def notMx (c : Nat) : Bool := !(fmtOf c).isMx
/-- All three floating, or all three integer; no MX destination. -/
def alike (fw : FormatWord) : Bool := notMx fw.df && (fw.all Fmt.isFloat || fw.all Fmt.isInt)
def allInteger (fw : FormatWord) : Bool := fw.all Fmt.isInt
/-- DF of the same class as AF. -/
def alike2 (fw : FormatWord) : Bool :=
  notMx fw.df && ((fmtOf fw.df).isFloat && (fmtOf fw.af).isFloat || (fmtOf fw.df).isInt && (fmtOf fw.af).isInt)

/-- Every value of the first format is exact in the second (04 R71). -/
def exactIn (a d : FloatFmt) : Bool :=
  a.frac ≤ d.frac && a.bias + a.frac ≤ d.bias + d.frac
    && (a.maxCode / 2 ^ a.frac) + d.bias ≤ (d.maxCode / 2 ^ d.frac) + a.bias

/-- The combinations of R71; `wide` says that FP64 is accepted. Scales reach from 2⁻¹²⁷ to 2¹²⁷, so every value of an MX
format is exact in FP64, and for each of them some value is exact in no narrower format. -/
def transcendental (wide : Bool) (fw : FormatWord) : Bool :=
  (if wide then 1 else 2) ≤ fw.df && fw.df ≤ 4 &&
    match fmtOf fw.df, fmtOf fw.af with
    | .float d _, .float a false => exactIn a d
    | _, af => af.isMx && fw.df == 1

def stochastic : FormatUse := { stoch := true }
def oneOperand : FormatUse := { c := false }

/-! ### Three-operand arithmetic (10 R202, R203) -/

def arith : VSpec := { use := {}, accept := alike }
def arithStoch : VSpec := { use := stochastic, accept := alike }
/-- VMA, VMS and VNMA also read d (10 R202). -/
def accumulating : VSpec := { arithStoch with readsD := true }

/-- A sum of terms as an operation, with its tangent as a sum of terms of tangents. -/
def summing (spec : VSpec) (readsD : Bool) (terms : Num → Num → Num → List (Num × Flags))
    (tans : Num × Num × Num → Num × Num × Num → List Num) (o : VOps) : M VBody :=
  mould spec (numeric spec readsD
    (fun cx x y d =>
      let ts := terms x y d
      let r := sumOf cx.rdn (ts.map (·.1))
      (.num r.1, ts.foldl (fun f t => f ||| t.2) r.2))
    (fun cx v t => tsum cx (tans v t))) o

def plain (v : Num) : Num × Flags := (v, 0)
/-- The negated product of b and c with the flags of the product. -/
def negProd (x y : Num) : Num × Flags := ((mulOf x y).1.negate, (mulOf x y).2)

def vaddBody : VOps → M VBody := summing arithStoch false (fun x y _ => [plain x, plain y])
  (fun _ (tx, ty, _) => [tterm tx one, tterm ty one])
def vsubBody : VOps → M VBody := summing arithStoch false (fun x y _ => [plain x, plain y.negate])
  (fun _ (tx, ty, _) => [tterm tx one, tterm ty minusOne])
def vrsubBody : VOps → M VBody := summing arithStoch false (fun x y _ => [plain y, plain x.negate])
  (fun _ (tx, ty, _) => [tterm tx minusOne, tterm ty one])
def vmaBody : VOps → M VBody := summing accumulating true (fun x y d => [plain d, mulOf x y])
  (fun (x, y, _) (tx, ty, td) => [tterm td one, tterm tx y, tterm ty x])
def vmsBody : VOps → M VBody := summing accumulating true (fun x y d => [plain d, negProd x y])
  (fun (x, y, _) (tx, ty, td) => [tterm td one, tterm tx y.negate, tterm ty x.negate])
def vnmaBody : VOps → M VBody := summing accumulating true (fun x y d => [plain d.negate, negProd x y])
  (fun (x, y, _) (tx, ty, td) => [tterm td minusOne, tterm tx y.negate, tterm ty x.negate])

def vmulBody (o : VOps) : M VBody :=
  mould arithStoch (numeric arithStoch false (fun _ x y _ => exact (mulOf x y))
    (fun cx (x, y, _) (tx, ty, _) => tsum cx [tterm tx y, tterm ty x])) o

/-- The integer of an exact integral value. -/
def Num.int : Num → Int
  | .fin s n _ => signed s n
  | _ => 0

/-- Signedness and width of an integer format. -/
def Fmt.intParts : Fmt → Bool × Nat
  | .int s w _ => (s, w)
  | _ => (true, 64)

/-- The integer quotient, saturated whatever SAT holds (10 R203). -/
def divInt (f : Fmt) (x y : Int) : Int :=
  let lo := intMin f.intParts.1 f.intParts.2
  let hi := intMax f.intParts.1 f.intParts.2
  if y = 0 then (if x = 0 then 0 else if 0 < x then hi else lo)
  else max lo (min hi (x.tdiv y))

/-- The tangent of a quotient (11 R228). With both tangents zero at a divisor of ±0, R228 gives +0 by its zero-factor rule or a NaN by
the form 0 / 0: it is +0 (DESIGN CHOICE, log 91). -/
def divTangent (cx : VCtx) (x y tx ty : Num) : Val :=
  if tx.isZero && ty.isZero then .num .zero
  else .num (divOf (sumOf cx.rdn [tterm tx y, tterm ty x.negate]).1 (mulOf y y).1).1

def vdivBody (o : VOps) : M VBody :=
  mould arith (numeric arith false
    (fun cx x y _ => if cx.df.isInt then (.num (.ofInt (divInt cx.df x.int y.int)), 0) else exact (divOf x y))
    (fun cx (x, y, _) (tx, ty, _) => divTangent cx x y tx ty)) o

def integral : VSpec := { use := {}, accept := allInteger }

def vmulhBody (o : VOps) : M VBody :=
  mould integral (numeric integral false
    (fun cx x y _ => (.num (.ofInt (x.int * y.int / (2 ^ cx.df.width : Int))), 0)) tanNone) o

/-- The exact remainder of truncating division, the dividend for a zero divisor (10 R203). -/
def remInt (x y : Int) : Int := if y = 0 then x else x - y * x.tdiv y

def vremBody (o : VOps) : M VBody :=
  mould integral (numeric integral false (fun _ x y _ => (.num (.ofInt (remInt x.int y.int)), 0)) tanNone) o

/-- VMIN or VMAX by the rule `pick`, whose third part is true when c is chosen. -/
def choosing (pick : Num → Num → Num × Flags × Bool) (o : VOps) : M VBody :=
  mould arith (numeric arith false (fun _ x y _ => (.num (pick x y).1, (pick x y).2.1))
    (fun cx (x, y, _) (tx, ty, _) => tsum cx [tterm (if (pick x y).2.2 then ty else tx) one])) o

def vminBody : VOps → M VBody := choosing minOf
def vmaxBody : VOps → M VBody := choosing maxOf

/-! ### One-operand arithmetic (10 R204) -/

def unaryAlike : VSpec := { use := oneOperand, accept := alike2 }

/-- VABS or VNEG: only the sign bit when DF equals AF, else exact and converted. -/
def signOp (sign : Bool → Bool) (tanSign : Num → Bool) (o : VOps) : M VBody :=
  mould unaryAlike (fun cx i => do
    match cx.df with
    | .float f _ =>
      if cx.fw.df = cx.fw.af then
        let b ← cx.bBits i 0
        let x := f.value b
        let top := 2 ^ (f.exp + f.frac)
        let bits := b % top + f.signBit (sign (b / top % 2 = 1))
        let tans ← cx.tangentsOf unaryAlike false
          (fun c (x, _, _) (tx, _, _) => tsum c [tterm tx (if tanSign x then minusOne else one)]) (x, .zero, .zero) x.isNan i cx.k
        pure { bits := bits, tans := tans }
      else
        numeric unaryAlike false (fun _ x _ _ => (.num (if sign x.neg? == x.neg? then x else x.negate), nvIf x.signals))
          (fun c (x, _, _) (tx, _, _) => tsum c [tterm tx (if tanSign x then minusOne else one)]) cx i
    | _ => numeric unaryAlike false (fun _ x _ _ => (.num (if sign x.neg? == x.neg? then x else x.negate), 0)) tanNone cx i) o

def vabsBody : VOps → M VBody := signOp (fun _ => false) (fun x => x.neg? && !x.isZero)
def vnegBody : VOps → M VBody := signOp (fun s => !s) (fun _ => true)

/-- √x with the special operands of 04 R72. -/
def sqrtOp (x : Num) : Val × Flags :=
  match x with
  | .nan s => (.num (.nan false), nvIf s)
  | .inf s => if s then (.num (.nan false), NV) else (.num x, 0)
  | .fin s n d => if n = 0 then (.num x, 0) else if s then (.num (.nan false), NV) else (sqrtRat false n d, 0)

/-- 1 / √x with the special operands of 04 R72. -/
def rsqOp (x : Num) : Val × Flags :=
  match x with
  | .nan s => (.num (.nan false), nvIf s)
  | .inf s => if s then (.num (.nan false), NV) else (.num .zero, 0)
  | .fin s n d => if n = 0 then (.num (.inf s), DZ) else if s then (.num (.nan false), NV) else (sqrtRat false d n, 0)

/-- 2^x with the special operands of 04 R72. -/
def exp2Op (x : Num) : Val × Flags :=
  match x with
  | .nan s => (.num (.nan false), nvIf s)
  | .inf s => (.num (if s then .zero else .inf false), 0)
  | .fin s n d => (exp2Val (signed s n) d, 0)

/-- log₂ x with the special operands of 04 R72. -/
def log2Op (x : Num) : Val × Flags :=
  match x with
  | .nan s => (.num (.nan false), nvIf s)
  | .inf s => if s then (.num (.nan false), NV) else (.num x, 0)
  | .fin s n d => if n = 0 then (.num (.inf true), DZ) else if s then (.num (.nan false), NV) else (log2Val n d, 0)

/-- ẋ over a root of x: `f` gives the square of the magnitude for finite parts; a zero operand gives an infinity, an
infinite one a zero, of the sign `neg` (11 R228). -/
def rootTangent (neg : Bool) (x tx : Num) (f : Nat → Nat → Nat → Nat → Nat × Nat) : Val :=
  match x, tx with
  | _, .nan _ => .num (.nan false)
  | .fin _ n d, .fin _ m e =>
    if m = 0 then .num .zero else if n = 0 then .num (.inf neg) else let r := f n d m e; sqrtRat neg r.1 r.2
  | .inf _, .fin _ m _ => if m = 0 then .num .zero else .num (.fin neg 0 1)
  | .fin .., .inf _ => .num (.inf neg)
  | _, _ => .num (.nan false)

/-- ẋ / (2√x). -/
def sqrtTangent (x tx : Num) : Val := rootTangent tx.neg? x tx fun n d m e => (m * m * d, 4 * e * e * n)
/-- −ẋ / (2x√x). -/
def rsqTangent (x tx : Num) : Val := rootTangent (!tx.neg?) x tx fun n d m e => (m * m * d * d * d, 4 * e * e * n * n * n)
/-- −ẋ / x². -/
def rcpTangent (x tx : Num) : Val :=
  if tx.isZero then .num .zero else .num (divOf tx.negate (mulOf x x).1).1
/-- ln 2 · 2^x · ẋ. -/
def expTangent (x tx : Num) : Val :=
  if tx.isZero then .num .zero else
  match x, tx with
  | .fin s n d, .fin t m e => exp2Tangent (signed s n) d (signed t m) e
  | .fin .., t => .num t
  | .inf false, .nan _ => .num (.nan false)
  | .inf false, t => .num (.inf t.neg?)
  | .inf true, .fin t _ _ => .num (.fin t 0 1)
  | _, _ => .num (.nan false)
/-- ẋ / (x · ln 2). -/
def logTangent (x tx : Num) : Val :=
  if tx.isZero then .num .zero else
  match x, tx with
  | .fin s n d, .fin t m e => if n = 0 then .num (.inf (s != t)) else log2Tangent (signed s n) d (signed t m) e
  | .fin s .., .inf t => .num (.inf (s != t))
  | .inf s, .fin t .. => .num (.fin (s != t) 0 1)
  | _, _ => .num (.nan false)

def unarySpec (wide : Bool) : VSpec := { use := oneOperand, accept := transcendental wide }

/-- A transcendental of b with its tangent rule. -/
def unaryOp (wide : Bool) (op : Num → Val × Flags) (rule : Num → Num → Val) (o : VOps) : M VBody :=
  mould (unarySpec wide) (numeric (unarySpec wide) false (fun _ x _ _ => op x) (fun _ (x, _, _) (tx, _, _) => rule x tx)) o

def vsqrtBody : VOps → M VBody := unaryOp true sqrtOp sqrtTangent
def vrcpBody : VOps → M VBody := unaryOp true (fun x => exact (divOf one x)) rcpTangent
def vrsqBody : VOps → M VBody := unaryOp true rsqOp rsqTangent
def vexp2Body : VOps → M VBody := unaryOp false exp2Op expTangent
def vlog2Body : VOps → M VBody := unaryOp false log2Op logTangent

/-- The value that a floating format holds nearest under RM among those also integral: a multiple of 2^max(q, 0)
(10 R204). -/
def roundIntegral (f : FloatFmt) (rm : Rm) (sat : Bool) (v : Num) : Fitted :=
  match v with
  | .fin s n d =>
    if n = 0 ∨ 0 ≤ max (log2Rat n d) (1 - (f.bias : Int)) - f.frac then f.fit rm sat 0 v
    else
      let (k, inexact) := roundTo rm 0 s n d 0
      let r := f.fit rm sat 0 (.fin s k 1)
      ⟨r.bits, r.flags ||| (if inexact then NX else 0)⟩
  | _ => f.fit rm sat 0 v

def roundSpec : VSpec :=
  { use := oneOperand, accept := fun fw => (fmtOf fw.df).isFloat && notMx fw.df && (fmtOf fw.af).isFloat }

def vrndBody (o : VOps) : M VBody :=
  mould roundSpec (fun cx i => do
    let x ← cx.bNum i 0
    match cx.df with
    | .float f _ =>
      let r := roundIntegral f cx.rm cx.fw.sat x
      pure { bits := r.bits, flags := r.flags,
             tans := List.replicate cx.k (if (f.value r.bits).isNan then f.canonical else 0) }
    | _ => pure { bits := 0 }) o

/-! ### VCVT (10 R210, 04 R58 to R63) -/

/-- Exponent of the largest normal value of an MX element format (04 R62). -/
def mxTop (code : Nat) : Int :=
  match code with
  | 19 => 8 | 20 => 15 | 21 => 2 | 22 => 4 | 23 => 2 | _ => 0

/-- Step 5 of R62: an element divided by the scale 2^e, clamped whatever SAT holds. -/
def mxFit (code : Nat) (rm : Rm) (rnd : Nat) (e : Int) (v : Num) : Fitted :=
  match fmtOf code, v with
  | .float f _, .fin s n d => f.round rm true rnd s (n * 2 ^ (-e).toNat) (d * 2 ^ e.toNat)
  | _, .fin s n d =>
    let (k, inexact) := roundTo rm rnd s (64 * n * 2 ^ (-e).toNat) (d * 2 ^ e.toNat) 0
    let tooBig : Bool := 127 < k
    let k := min k 127
    ⟨wrapInt 8 (signed s k), if tooBig then OF ||| NX else if inexact then NX else 0⟩
  | _, _ => ⟨0, 0⟩

/-- ⌊log₂ amax⌋ of the nonzero finite values of a list. -/
def topExponent (vs : List Num) : Option Int :=
  vs.foldl (fun acc v => match v with
    | .fin _ n d => if n = 0 then acc else some (match acc with | none => log2Rat n d | some e => max e (log2Rat n d))
    | _ => acc) none

/-- The scale code and the fitted elements of an MX block, each with its random word (04 R62, R63). A block without a present
element has scale 0x7F: DESIGN CHOICE, log 27. -/
def mxBlock (code : Nat) (rm : Rm) (vs : List (Num × Nat)) : Nat × List Fitted :=
  if vs.any fun v => !v.1.isFinite then
    (255, vs.map fun v => ⟨0, nvIf (v.1.isInf || v.1.signals)⟩)
  else
    match topExponent (vs.map (·.1)) with
    | none => (127, vs.map fun v => mxFit code rm v.2 0 v.1)
    | some t =>
      let e := max (-127) (min 127 (t - mxTop code))
      ((e + 127).toNat, vs.map fun v => mxFit code rm v.2 e v.1)

/-- The values of some elements of b with their random words. -/
def VCtx.bValues (cx : VCtx) : List Nat → M (List (Num × Nat))
  | [] => pure []
  | i :: is => do
    let v ← cx.bNum i 0
    return (v, cx.rnd i 0) :: (← cx.bValues is)

/-- The trap of the first element of a block with an enabled flag, at the block's boundary (04 R57, R63). -/
def checkBlock (rs : List Fitted) : M Unit := do
  let h ← hart
  match rs.find? fun r => enabled h.fcsr r.flags ≠ 0 with
  | some r => trap 14 (zx r.flags)
  | none => pure ()

/-- Writes the fitted elements of a block at their positions, and the block's scale. -/
def VCtx.putBlock (cx : VCtx) (k : Nat) (is : List Nat) (r : Nat × List Fitted) : M Unit := do
  checkBlock r.2
  modify fun s => s.svwrite cx.h cx.fw.sv k r.1
  (is.zip r.2).forM fun p => do
    addFlags p.2.flags
    cx.put p.1 { bits := p.2.bits, tans := List.replicate cx.k 0 }

def vcvtSpec : VSpec := { use := { stoch := true, c := false, e8m0 := true }, accept := fun _ => true }

def vcvtBody (o : VOps) : M VBody := do
  let cx ← dispatch vcvtSpec o
  let elem (i : Nat) : M Unit := do
    let out ← numeric vcvtSpec false (fun _ x _ _ => (.num x, 0))
      (if cx.af.isInt then tanNone else fun c _ t => tsum c [tterm t.1 one]) cx i
    checkFlags out.flags
    addFlags out.flags
    cx.put i out
  let body : VBody := { vm := o.vm, elem := elem, fill := cx.fill, finish := cx.finish vcvtSpec }
  if cx.df.isMx then
    pure { body with
      block := some fun k is => do
        let vs ← cx.bValues is
        cx.putBlock k is (mxBlock cx.fw.df cx.rm vs)
      tailFrom := fun _ => pure cx.h.vlmax }
  else pure body

/-! ### Bits (10 R205) -/

def bitwise : VSpec :=
  { use := {}, accept := fun fw => allInteger fw && fw.df == fw.af && fw.af == fw.bf }

/-- d(i) := f(b, c) on bit patterns of the width of DF. -/
def onBits (spec : VSpec) (f : VCtx → Nat → Nat → Nat) (o : VOps) : M VBody :=
  mould spec (fun cx i => do
    let b ← if spec.use.b then cx.bBits i 0 else pure 0
    let c ← if spec.use.c then cx.cBits i 0 else pure 0
    pure { bits := f cx b c, tans := List.replicate cx.k 0 }) o

def vandBody : VOps → M VBody := onBits bitwise fun _ b c => b &&& c
def viorBody : VOps → M VBody := onBits bitwise fun _ b c => b ||| c
def vxorBody : VOps → M VBody := onBits bitwise fun _ b c => b ^^^ c

def notSpec : VSpec := { use := oneOperand, accept := fun fw => (fmtOf fw.df).isInt && fw.df == fw.af }
def vnotBody : VOps → M VBody := onBits notSpec fun cx b _ => 2 ^ cx.df.width - 1 - b

def shiftSpec : VSpec := { use := {}, accept := fun fw => allInteger fw && fw.df == fw.bf }

/-- The shift count: the exact value of b modulo the width of DF. -/
def shiftCount (cx : VCtx) (b : Nat) : Nat :=
  match cx.af with
  | .int s w _ => (intValue s w b % (cx.df.width : Int)).toNat
  | _ => 0

def vshlBody : VOps → M VBody := onBits shiftSpec fun cx b c => c * 2 ^ shiftCount cx b % 2 ^ cx.df.width
def vshrBody : VOps → M VBody := onBits shiftSpec fun cx b c => c / 2 ^ shiftCount cx b
def vshaBody : VOps → M VBody := onBits shiftSpec fun cx b c =>
  wrapInt cx.df.width (intValue true cx.df.width c / (2 ^ shiftCount cx b : Int))

def countSpec : VSpec := { use := oneOperand, accept := fun fw => (fmtOf fw.df).isInt && (fmtOf fw.af).isInt }

/-- A count fitted to DF (10 R203). -/
def countInto (cx : VCtx) (n : Nat) : Nat := fitInt cx.df.intParts.1 cx.df.intParts.2 cx.fw.sat n

def vclzBody : VOps → M VBody := onBits countSpec fun cx b _ => countInto cx (clzBits cx.af.width b)
def vpopcBody : VOps → M VBody := onBits countSpec fun cx b _ => countInto cx (popcBits cx.af.width b)

/-! ### Moves (10 R206 to R208) -/

/-- A moved element with its tangents, each with its mark: the tangents are those of the element moved, by the rule of
R228, and +0 under an integer format. -/
def VCtx.moved (cx : VCtx) (i : Nat) (p : Bits) (ts : List Bits) : Out :=
  let bits := cx.df.low p.val
  let nan := cx.df.isFloat && (cx.df.value bits).isNan
  let places := (List.range ts.length).map (· + 1)
  if cx.df.isInt then { bits := bits, bad := p.bad.isSome, tans := ts.map fun _ => 0 }
  else {
    bits := bits
    bad := p.bad.isSome
    tans := (places.zip ts).map fun q => cx.fitTan nan i q.1 (.num (tterm (cx.df.value q.2.val) one))
    tanBad := if nan then [] else ((places.zip ts).filter (·.2.bad.isSome)).map (·.1) }

/-- Moved bits and mark of register element `i`, with the tangents that go with them (11 R228). -/
def VCtx.moveFrom (cx : VCtx) (v i : Nat) : M Out := do
  let p ← movedElem v cx.df.width cx.h.sliced i 0
  let ts ← (List.range cx.k).mapM fun t => movedElem v cx.df.width cx.h.sliced i (t + 1)
  pure (cx.moved i p ts)

/-- The same for operand b in any form. -/
def VCtx.moveB (cx : VCtx) (i : Nat) : M Out := do
  if cx.o.form = 0 then cx.moveFrom cx.o.b.toNat i
  else
    let bits ← cx.bBits i 0
    let ts ← (List.range cx.k).mapM fun t => cx.bBits i (t + 1)
    pure (cx.moved i ⟨bits, none⟩ (ts.map (⟨·, none⟩)))

def mergeSpec : VSpec :=
  { use := { e8m0 := true }, accept := fun fw => notMx fw.df && fw.df == fw.af && fw.af == fw.bf, vmOk := (! ·) }

def vmergeBody (o : VOps) : M VBody := do
  let b ← mould mergeSpec (fun cx i => do
    if ← active false i then cx.moveB i else cx.moveFrom cx.o.c.toNat i) o
  pure { b with vm := true }

def vmvSpec : VSpec :=
  { use := { c := false, e8m0 := true }, accept := fun fw => notMx fw.df && fw.df == fw.af }
def vmvBody (o : VOps) : M VBody := mould vmvSpec (fun cx i => cx.moveB i) o

def vidxSpec : VSpec := { use := { b := false, c := false }, accept := fun fw => (fmtOf fw.df).isInt, forms := [0] }
def vidxBody (o : VOps) : M VBody :=
  mould vidxSpec (fun cx i =>
    pure { bits := countInto cx i, tans := List.replicate cx.k 0 }) o

def vsclSpec : VSpec :=
  { use := {}, accept := fun fw => (fmtOf fw.df).isFloat && notMx fw.df && (fmtOf fw.af).isInt && (fmtOf fw.bf).isFloat }
/-- v · 2^n for n clamped to −2000 to 2000. -/
def scaleBy (v : Num) (n : Int) : Num :=
  let n := max (-2000) (min 2000 n)
  match v with
  | .fin s a d => .fin s (a * 2 ^ n.toNat) (d * 2 ^ (-n).toNat)
  | v => v
def vsclBody (o : VOps) : M VBody :=
  mould vsclSpec (numeric vsclSpec false
    (fun _ x y _ => (.num (match y with | .nan _ => .nan false | _ => scaleBy y x.int), nvIf y.signals))
    (fun _ (x, _, _) (_, ty, _) => .num (if ty.isZero then .zero else scaleBy ty x.int))) o

/-- Dispatch of VEXTR and VINS up to the windows: type, format word, the tangents of the registers of the group `named`,
operand form (10 R208, R375, 11 R227). -/
def extractFormat (use : FormatUse) (accept : FormatWord → Bool) (forms : List Nat) (named : Hart → List Use) (v : Nat) (o : VOps) :
    M VCtx := do
  let s ← get
  let h := s.h
  if h.badType then trap 7 h.vtype
  let word := h.formatReg o.n
  let fw := formatWord word
  let k := s.tanFor true
  let codes := [fw.df, fw.af, fw.bf]
  if badFormat fw use h.sliced || !accept fw || (fmtOf fw.af).isMx || (0 < k && codes.any fun c => (fmtOf c).isMx || c == 10) then
    trap 8 word
  if 0 < k then
    match tangentClash k (((named h).flatMap Use.windows).map (·, true)) with
    | some cr => trap 12 (BitVec.ofNat 64 cr)
    | none => pure ()
  if !forms.contains o.form.toNat || !o.vm then trap 9 (BitVec.ofNat 64 (0x020 + v))
  pure ⟨o, fw, k, h⟩

/-- The tangents that go with a copied element: the canonical NaN beside a NaN, else as they stand (11 R228, R231). Under an
integer format R231 moves the entries of VEXTR and VINS and a row of R228 gives +0: they are copied as they stand (DEDUCED,
log 62). -/
def copiedTans (f : Fmt) (bits : Nat) (ts : List Nat) : List Nat :=
  match f with
  | .float g _ => if (f.value bits).isNan then ts.map fun _ => g.canonical else ts
  | _ => ts

/-- Bits of a format as they stand in a scalar register (10 R208). -/
def scalarOf (f : Fmt) (bits : Nat) : Word :=
  match f with
  | .int true w _ => BitVec.ofInt 64 (intValue true w bits)
  | f => BitVec.ofNat 64 (f.low bits)

/-- Dispatch of VEXTR: type, format word, form, windows, full-empty bits; it answers the element number too. -/
def vextrReady (o : VOps) : M (VCtx × Nat) := do
  let cx ← extractFormat { d := false, e8m0 := true } (fun fw => (fmtOf fw.af).isInt) [1, 2] (fun h => h.sourceUse true o.c.toNat h.sew)
    o.c.toNat o
  let h := cx.h
  let c := o.c.toNat
  let sv := if cx.fw.sv < 28 then [h.svuse cx.fw.sv] else []
  windowCheck (firstFailure ((h.sourceUse true c cx.bf.width).map (h.checkUse · cx.k [] []) ++ sv.map (h.checkUse · 0 [] [])))
  if !h.queued c then awaitFull (h.groupRegs c) []
  let i ← cx.bBits 0 0
  pure (cx, i)

def execVextr (o : VOps) : State → Host.Outcome State Fault Refusal := run do
  let (cx, i) ← vextrReady o
  let h := cx.h
  let c := o.c.toNat
  let w := cx.bf.width
  if i < h.length then
    let bits ← sourceElem c w h.sliced i 0
    let tans ← (List.range cx.k).mapM fun t => sourceElem c w h.sliced i (t + 1)
    modHart fun h => (h.set o.a (scalarOf cx.bf bits)).setTans o.a ((copiedTans cx.bf bits tans).map (scalarOf cx.bf))
  else modHart fun h => (h.set o.a 0).setTans o.a (List.replicate cx.k 0)
  endBindings [c]
  setStart 0
  retire 4

/-- Dispatch of VINS: type, format word, form, windows, full-empty bits, pushes. -/
def vinsReady (o : VOps) : M VCtx := do
  let cx ← extractFormat { e8m0 := true } (fun fw => notMx fw.df && fw.df == fw.af && (fmtOf fw.bf).isInt) [1]
    (fun h => [h.vuse o.a.toNat h.sew]) o.a.toNat o
  let h := cx.h
  windowCheck (h.checkUse (h.vuse o.a.toNat cx.df.width) cx.k [] [])
  awaitFull [] (h.groupRegs o.a.toNat)
  awaitPushes (h.vuse o.a.toNat cx.df.width).windows cx.k
  pure cx

def execVins (o : VOps) : State → Host.Outcome State Fault Refusal := run do
  let cx ← vinsReady o
  let h := cx.h
  let i := cx.bf.low (h.get o.c).toNat
  if i < h.length then
    let bits ← cx.bBits i 0
    let tans ← (List.range cx.k).mapM fun t => cx.bBits i (t + 1)
    cx.put i { bits := bits, tans := copiedTans cx.df bits tans }
  setStart 0
  retire 4

/-! ### VDOTQ and VCLASS (10 R209) -/

/-- R209 requires an SEW of 32 bits and names no cause for another one: it raises cause 7, as an unusable VTYPE does (DEDUCED,
log 77). -/
def dotSpec : VSpec :=
  { use := {}
    accept := fun fw =>
      let byte (c : Nat) : Bool := c == 11 || c == 15
      let small (c : Nat) : Bool := c == 5 || c == 6
      fw.df == 13 && byte fw.af && byte fw.bf || fw.df == 17 && fw.af == 15 && fw.bf == 15
        || fw.df == 2 && small fw.af && small fw.bf
    forms := [0]
    wide := some 32
    readsD := true
    sewOk := (· == 18) }

/-- The four products of an element. -/
def dotTerms (af bf : Fmt) (b c : Nat) : List (Num × Num) :=
  [0, 1, 2, 3].map fun j => (af.value (b / 256 ^ j % 256), bf.value (c / 256 ^ j % 256))

def vdotqBody (o : VOps) : M VBody :=
  mould dotSpec (fun cx i => do
    let at' (v t : Nat) : M Nat := sourceElem v 32 false i t
    let b ← at' cx.o.b.toNat 0
    let c ← at' cx.o.c.toNat 0
    let d ← cx.dNum i 0
    let xs := dotTerms cx.af cx.bf b c
    let ps := xs.map fun p => mulOf p.1 p.2
    let r := sumOf cx.rdn (d :: ps.map (·.1))
    let out := cx.df.fit cx.rm cx.fw.sat 0 cx.df.isInt r.1
    let nan := resultNan cx.df (.num r.1) out.bits
    let tans ← (List.range cx.k).mapM fun t => do
      if cx.df.isInt then pure 0
      else
        let tb ← at' cx.o.b.toNat (t + 1)
        let tc ← at' cx.o.c.toNat (t + 1)
        let td ← cx.dNum i (t + 1)
        let ts := dotTerms cx.af cx.bf tb tc
        let terms := (xs.zip ts).flatMap fun p => [tterm p.2.1 p.1.2, tterm p.2.2 p.1.1]
        pure (cx.fitTan nan i (t + 1) (tsum cx (tterm td one :: terms)))
    pure { bits := out.bits, flags := ps.foldl (fun f p => f ||| p.2) (r.2 ||| out.flags), tans := tans }) o

def classSpec : VSpec :=
  { use := oneOperand
    accept := fun fw => (fmtOf fw.af).isFloat && notMx fw.af && [12, 13, 14, 16, 17, 18].contains fw.df }

def vclassBody : VOps → M VBody := onBits classSpec fun cx b _ =>
  match cx.af with
  | .float f _ => 2 ^ f.classBit b
  | _ => 0

/-! ### Compares (10 R212) -/

def compareSpec : VSpec :=
  { use := { d := false }
    accept := fun fw => (fmtOf fw.af).isFloat && (fmtOf fw.bf).isFloat || (fmtOf fw.af).isInt && (fmtOf fw.bf).isInt }

/-- A compare: `cc` on two values that are no NaNs, `withNan` what a NaN gives, `quiet` that a quiet NaN raises nothing. -/
def comparing (cc : Num → Num → Bool) (withNan quiet : Bool) (o : VOps) : M VBody :=
  mouldMask compareSpec (fun cx i => do
    let x ← cx.bNum i 0
    let y ← cx.cNum i 0
    let nan := x.isNan || y.isNan
    let nv := nvIf (if quiet then x.signals || y.signals else nan)
    pure { bits := if (if nan then withNan else cc x y) then 1 else 0, flags := nv }) o

def vcmpEqBody : VOps → M VBody := comparing (fun x y => x.eq y) false true
def vcmpNeBody : VOps → M VBody := comparing (fun x y => !x.eq y) true true
def vcmpLtBody : VOps → M VBody := comparing (fun x y => x.lt y) false false
def vcmpLeBody : VOps → M VBody := comparing (fun x y => !y.lt x) false false
def vcmpGtBody : VOps → M VBody := comparing (fun x y => y.lt x) false false
def vcmpGeBody : VOps → M VBody := comparing (fun x y => !x.lt y) false false
def vcmpUnBody : VOps → M VBody := comparing (fun _ _ => false) true true
def vcmpOrdBody : VOps → M VBody := comparing (fun _ _ => true) false true

/-! ### Meanings -/

def execVadd (o : VOps) : State → Host.Outcome State Fault Refusal := run (vaddBody o >>= runVector)
def execVsub (o : VOps) : State → Host.Outcome State Fault Refusal := run (vsubBody o >>= runVector)
def execVrsub (o : VOps) : State → Host.Outcome State Fault Refusal := run (vrsubBody o >>= runVector)
def execVmul (o : VOps) : State → Host.Outcome State Fault Refusal := run (vmulBody o >>= runVector)
def execVmulh (o : VOps) : State → Host.Outcome State Fault Refusal := run (vmulhBody o >>= runVector)
def execVdiv (o : VOps) : State → Host.Outcome State Fault Refusal := run (vdivBody o >>= runVector)
def execVrem (o : VOps) : State → Host.Outcome State Fault Refusal := run (vremBody o >>= runVector)
def execVma (o : VOps) : State → Host.Outcome State Fault Refusal := run (vmaBody o >>= runVector)
def execVms (o : VOps) : State → Host.Outcome State Fault Refusal := run (vmsBody o >>= runVector)
def execVnma (o : VOps) : State → Host.Outcome State Fault Refusal := run (vnmaBody o >>= runVector)
def execVmin (o : VOps) : State → Host.Outcome State Fault Refusal := run (vminBody o >>= runVector)
def execVmax (o : VOps) : State → Host.Outcome State Fault Refusal := run (vmaxBody o >>= runVector)
def execVabs (o : VOps) : State → Host.Outcome State Fault Refusal := run (vabsBody o >>= runVector)
def execVneg (o : VOps) : State → Host.Outcome State Fault Refusal := run (vnegBody o >>= runVector)
def execVsqrt (o : VOps) : State → Host.Outcome State Fault Refusal := run (vsqrtBody o >>= runVector)
def execVrcp (o : VOps) : State → Host.Outcome State Fault Refusal := run (vrcpBody o >>= runVector)
def execVrsq (o : VOps) : State → Host.Outcome State Fault Refusal := run (vrsqBody o >>= runVector)
def execVexp2 (o : VOps) : State → Host.Outcome State Fault Refusal := run (vexp2Body o >>= runVector)
def execVlog2 (o : VOps) : State → Host.Outcome State Fault Refusal := run (vlog2Body o >>= runVector)
def execVcvt (o : VOps) : State → Host.Outcome State Fault Refusal := run (vcvtBody o >>= runVector)
def execVand (o : VOps) : State → Host.Outcome State Fault Refusal := run (vandBody o >>= runVector)
def execVior (o : VOps) : State → Host.Outcome State Fault Refusal := run (viorBody o >>= runVector)
def execVxor (o : VOps) : State → Host.Outcome State Fault Refusal := run (vxorBody o >>= runVector)
def execVnot (o : VOps) : State → Host.Outcome State Fault Refusal := run (vnotBody o >>= runVector)
def execVshl (o : VOps) : State → Host.Outcome State Fault Refusal := run (vshlBody o >>= runVector)
def execVshr (o : VOps) : State → Host.Outcome State Fault Refusal := run (vshrBody o >>= runVector)
def execVsha (o : VOps) : State → Host.Outcome State Fault Refusal := run (vshaBody o >>= runVector)
def execVclz (o : VOps) : State → Host.Outcome State Fault Refusal := run (vclzBody o >>= runVector)
def execVpopc (o : VOps) : State → Host.Outcome State Fault Refusal := run (vpopcBody o >>= runVector)
def execVmerge (o : VOps) : State → Host.Outcome State Fault Refusal := run (vmergeBody o >>= runVector)
def execVmv (o : VOps) : State → Host.Outcome State Fault Refusal := run (vmvBody o >>= runVector)
def execVidx (o : VOps) : State → Host.Outcome State Fault Refusal := run (vidxBody o >>= runVector)
def execVscl (o : VOps) : State → Host.Outcome State Fault Refusal := run (vsclBody o >>= runVector)
def execVrnd (o : VOps) : State → Host.Outcome State Fault Refusal := run (vrndBody o >>= runVector)
def execVdotq (o : VOps) : State → Host.Outcome State Fault Refusal := run (vdotqBody o >>= runVector)
def execVclass (o : VOps) : State → Host.Outcome State Fault Refusal := run (vclassBody o >>= runVector)
def execVcmpEq (o : VOps) : State → Host.Outcome State Fault Refusal := run (vcmpEqBody o >>= runVector)
def execVcmpNe (o : VOps) : State → Host.Outcome State Fault Refusal := run (vcmpNeBody o >>= runVector)
def execVcmpLt (o : VOps) : State → Host.Outcome State Fault Refusal := run (vcmpLtBody o >>= runVector)
def execVcmpLe (o : VOps) : State → Host.Outcome State Fault Refusal := run (vcmpLeBody o >>= runVector)
def execVcmpGt (o : VOps) : State → Host.Outcome State Fault Refusal := run (vcmpGtBody o >>= runVector)
def execVcmpGe (o : VOps) : State → Host.Outcome State Fault Refusal := run (vcmpGeBody o >>= runVector)
def execVcmpUn (o : VOps) : State → Host.Outcome State Fault Refusal := run (vcmpUnBody o >>= runVector)
def execVcmpOrd (o : VOps) : State → Host.Outcome State Fault Refusal := run (vcmpOrdBody o >>= runVector)

end Sys2Proof.Machine
end

