-- ==== Sys2Proof/Machine/Matrix.lean ====
section
/-! DEFINITION. The matrix engine: matrix state, outer products, slice moves, tile transfers, MCVT (13 R237 to R255). -/
namespace Sys2Proof.Machine

/-! ### Tiles and the holder (13 R237, R238) -/

/-- The place of tile element (i, j) of a core. -/
def tileLoc (stop t i j : Nat) : Nat := 4 * (((stop * 8 + t) * 64 + i) * 64 + j)
def State.tileRead (s : State) (stop t i j : Nat) : Nat := s.tiles.readNat (tileLoc stop t i j) 4
def State.tileWrite (s : State) (stop t i j v : Nat) : State := { s with tiles := s.tiles.writeNat (tileLoc stop t i j) 4 v }

/-- What the cause-11 trap reports: the holder's HARTID, or all ones (13 R237). -/
def State.holderId (s : State) (stop : Nat) : Word :=
  match (s.matrix stop).holder.bind s.hartOf? with
  | some h => h.hartid
  | none => BitVec.allOnes 64

/-- The hart in focus must hold the matrix state (13 R237). -/
def ownMatrix : M Unit := do
  let s ← get
  if (s.matrix s.h.stop).holder ≠ some s.h.key then trap 11 (s.holderId s.h.stop)

/-- A hart becomes holder of zeroed tiles and full extents (13 R239). -/
def State.grantMatrix (s : State) (stop : Nat) (k : HKey) : State :=
  let t := s.setMatrix ⟨stop, some k, 64, 64⟩
  { t with tiles := t.tiles.zero (tileLoc stop 0 0 0) (8 * 64 * 64 * 4) }

/-- The holder gives the state up; its extents return to 64 (13 R238, R240). -/
def State.releaseMatrix (s : State) (stop : Nat) (k : HKey) : State :=
  if (s.matrix stop).holder = some k then s.setMatrix ⟨stop, none, 64, 64⟩ else s

/-- Harts that wait in MCLAIM at a core and may be served. -/
def State.claimants (s : State) (stop : Nat) : List Hart :=
  s.harts.filter fun h => h.stop == stop && h.claimAt.isSome && !h.frozen && !h.saved

/-- The claimant served first: by priority, then by arrival (13 R239). -/
def State.firstClaimant (s : State) (stop : Nat) : Option Hart :=
  (s.claimants stop).foldl (fun best h => match best with
    | none => some h
    | some b => if b.prio < h.prio || (b.prio == h.prio && h.claimAt.getD 0 < b.claimAt.getD 0) then some h else some b) none

/-- MCLAIM (13 R239, R241, R242). -/
def execMclaim (b : SReg) : State → Host.Outcome State Fault Refusal := run do
  let h ← hart
  let take := b != 0 && (← rd b).getLsbD 0
  if take && h.level == .user then privileged (codeRR 57 0 0 b 0)
  let done : M Unit := do
    modHart fun h => { h with claimAt := none }
    retire 4
  let s ← get
  let frozen := match (s.matrix h.stop).holder.bind s.hartOf? with
    | some x => x.frozen
    | none => false
  match (s.matrix h.stop).holder with
  | some k =>
    if k = h.key then done
    else if frozen && take && h.claimAt.isNone then
      modify fun s => s.setMatrix { s.matrix h.stop with holder := some h.key }
      done
    else if frozen && h.preempting && h.claimAt.isNone then trap 11 (s.holderId h.stop)
    else
      if h.claimAt.isNone then
        let n ← freshId
        modHart fun h => { h with claimAt := some n }
      stall
  | none =>
    if (s.claimants h.stop).all (·.key == h.key) then
      modify fun s => s.grantMatrix h.stop h.key
      done
    else
      if h.claimAt.isNone then
        let n ← freshId
        modHart fun h => { h with claimAt := some n }
      stall

/-- The freed state goes to the first claimant (13 R239). -/
def execMatrixStateGrant (stop : Nat) (s : State) : Host.Outcome State Fault Refusal :=
  .next (match s.firstClaimant stop with
    | some h => (s.grantMatrix stop h.key).onKey h.key fun h => { h with blocked := false }
    | none => s)

/-- Whether a Pillar entry belongs to a tile transfer. -/
def State.isTileEntry (s : State) (p : Pillar) : Bool :=
  p.space == .virt && s.streams.all (·.id != p.id) && s.routeTiles.all (·.id != p.id)

/-- MFREE (13 R240). -/
def execMfree : State → Host.Outcome State Fault Refusal := run do
  let s ← get
  if (s.matrix s.h.stop).holder = some s.h.key && s.pillars.any (fun p => p.owner == s.h.key && s.isTileEntry p) then stall
  modify fun s => s.releaseMatrix s.h.stop s.h.key
  retire 4

def execMsetvl (b c : SReg) : State → Host.Outcome State Fault Refusal := run do
  ownMatrix
  let x ← rd b
  let y ← rd c
  let least (v : Word) : Word := if 64 < v.toNat then 64 else v
  modify fun s => s.setMatrix { s.matrix s.h.stop with mrows := least x, mcols := least y }
  retire 4

def execMwipe (t : BitVec 3) : State → Host.Outcome State Fault Refusal := run do
  ownMatrix
  modify fun s => { s with tiles := s.tiles.zero (tileLoc s.h.stop t.toNat 0 0) (64 * 64 * 4) }
  retire 4

/-! ### Rows and columns that take part (13 R243, R250) -/

/-- Whether position `i` takes part: unmasked, or its bit of mask `m` is 1. -/
def takesPart (vm : Bool) (m i : Nat) : M Bool := do
  if vm then pure true
  else
    let s ← get
    let b ← consume (s.mread s.h m i)
    pure (b == 1)

/-- The positions below `n` that take part. -/
def partsOf (vm : Bool) (m : Nat) : List Nat → M (List Nat)
  | [] => pure []
  | i :: is => do
    let on ← takesPart vm m i
    let rest ← partsOf vm m is
    pure (if on then i :: rest else rest)

/-- The flags of a row: the first element's enabled flag traps, else all accumulate (04 R56, R57; 13 R245, R251). -/
def rowFlags (fs : List Flags) : M Unit := do
  let h ← hart
  match fs.find? fun f => enabled h.fcsr f ≠ 0 with
  | some f => trap 14 (zx f)
  | none => fs.forM addFlags

/-- Writes a row's new elements. -/
def State.putRow (s : State) (stop t : Nat) : List (Nat × Nat × Nat) → State
  | [] => s
  | (i, j, v) :: rest => (s.tileWrite stop t i j v).putRow stop t rest

/-! ### Outer products (13 R243 to R246) -/

/-- The accepted format words (13 R244). -/
def outerOk (scaled : Bool) (fw : FormatWord) : Bool :=
  let narrow (c : Nat) : Bool := 5 ≤ c && c ≤ 9
  let half (c : Nat) : Bool := c == 3 || c == 4
  let byte (c : Nat) : Bool := c == 11 || c == 15
  if scaled then fw.df == 2 && (narrow fw.af || fw.af == 11) && (narrow fw.bf || fw.bf == 11)
  else if fw.df == 2 then (fw.af == 2 && fw.bf == 2) || (half fw.af && half fw.bf) || (narrow fw.af && narrow fw.bf)
  else fw.df == 13 && byte fw.af && byte fw.bf

/-- The value of a source element; under OPXSC, INT8 stands for the MXINT8 element (13 R244). -/
def outerValue (scaled : Bool) (code bits : Nat) : Num := (if scaled && code = 11 then Fmt.mxint8 else fmtOf code).value bits

/-- One accumulation: old element, the two source values, the two scales when there are any. -/
def accumulate (fw : FormatWord) (subtract : Bool) (old : Nat) (a b : Num) (scales : Option (Num × Num)) : Fitted :=
  let df := fmtOf fw.df
  let p := mulOf a b
  let q : Num × Flags := match scales with
    | none => p
    | some (x, y) => if x.isNan || y.isNan then (.nan false, NV) else (scaled (scaled p.1 x) y, p.2)
  let q := if subtract then (q.1.negate, q.2) else q
  let sum := sumOf (fw.rm == 2) [df.value old, q.1]
  let r := df.fit (rmOf fw.rm) fw.sat 0 df.isInt sum.1
  ⟨r.bits, q.2 ||| sum.2 ||| r.flags⟩

/-- Reads the elements of a vector at some positions. -/
def readAt (v w : Nat) : List Nat → M (List Nat)
  | [] => pure []
  | j :: js => do
    let h ← hart
    let x ← sourceElem v w h.sliced j 0
    let xs ← readAt v w js
    pure (x :: xs)

/-- An outer product after dispatch: the hart, the format word, MROWS and MCOLS. -/
structure OuterPlan where
  h : Hart
  fw : FormatWord
  rows : Nat
  cols : Nat

/-- The vectors that an outer product names. -/
def outerNamed (scale : Bool) (o : OpOps) : List Nat :=
  [o.b.toNat, o.c.toNat] ++ (if scale then [o.pc.toNat, o.pb.toNat] else [])

/-- Dispatch of an outer product: causes 7, 8, 9, 11, then full-empty bits (13 R243, R244). -/
def outerReady (scale : Bool) (o : OpOps) : M OuterPlan := do
  let s ← get
  let h := s.h
  let mx := s.matrix h.stop
  let rows := mx.mrows.toNat
  let cols := mx.mcols.toNat
  if h.ill || h.vlmax < rows || h.vlmax < cols || rows < h.start then trap 7 h.vtype
  let word := h.formatReg o.n
  let fw := formatWord word
  if badFormat fw {} h.sliced || !outerOk scale fw then trap 8 word
  let uses := h.sourceUse true o.b.toNat (fmtOf fw.af).width ++ h.sourceUse true o.c.toNat (fmtOf fw.bf).width
    ++ (if o.vm then [] else [h.muse 0, h.muse 1])
    ++ (if scale then h.sourceUse true o.pc.toNat 8 ++ h.sourceUse true o.pb.toNat 8 else [])
  windowCheck (firstFailure (uses.map (h.checkUse · 0 [] [])))
  ownMatrix
  awaitFull ((outerNamed scale o).flatMap fun v => if h.queued v then [] else h.groupRegs v) []
  pure ⟨h, fw, rows, cols⟩

/-- Row `i` of an outer product. -/
def outerRow (scale subtract : Bool) (o : OpOps) (p : OuterPlan) (i : Nat) : M Unit := do
  if ← takesPart o.vm 0 i then
    let h := p.h
    let fw := p.fw
    let tile := o.tile.toNat
    let js ← partsOf o.vm 1 (List.range p.cols)
    if !js.isEmpty then
      let a ← sourceElem o.b.toNat (fmtOf fw.af).width h.sliced i 0
      let bs ← readAt o.c.toNat (fmtOf fw.bf).width js
      let x ← if scale then sourceElem o.pc.toNat 8 h.sliced i 0 else pure 0
      let ys ← if scale then readAt o.pb.toNat 8 js else pure []
      let s ← get
      let new := (js.zip bs).zipIdx.map fun ((j, b), n) =>
        (j, accumulate fw subtract (s.tileRead h.stop tile i j) (outerValue scale fw.af a) (outerValue scale fw.bf b)
          (if scale then some (scaleValue x, scaleValue ((ys[n]?).getD 0)) else none))
      rowFlags (new.map (·.2.flags))
      modify fun s => s.putRow h.stop tile (new.map fun p => (i, p.1, p.2.bits))

/-- OPADD, OPSUB and OPXSC. -/
def outer (scale subtract : Bool) (o : OpOps) : M Unit := do
  let p ← outerReady scale o
  if ← upTo (fun i => do setStart i; outerRow scale subtract o p i) setStart p.h.start (p.rows - p.h.start) then
    setStart 0
    endBindings (outerNamed scale o)
    retire 8

def execOpadd (o : OpOps) : State → Host.Outcome State Fault Refusal := run (outer false false o)
def execOpsub (o : OpOps) : State → Host.Outcome State Fault Refusal := run (outer false true o)
def execOpxsc (o : OpOps) : State → Host.Outcome State Fault Refusal := run (outer true false o)

/-! ### Slice moves and MCVT (13 R249, R254) -/

/-- Whether a code names FP32 or INT32, and whether it names a format that a slice move accepts on the vector side. -/
def tileFormat (c : Nat) : Bool := c == 2 || c == 13
def sliceFormat (c : Nat) : Bool := c != 10 && !(fmtOf c).isMx

/-- Dispatch of a slice move or MCVT between a tile slice and vector `v`; `out` when the vector is the destination. The register
that an MX destination writes through SV is checked against m0 (DEDUCED, log 73). -/
def sliceDispatch (out : Bool) (use : FormatUse) (accept : FormatWord → Bool) (n : BitVec 3) (v : BitVec 5) (vm : Bool) :
    M VCtx := do
  let h ← hart
  if h.badType || 64 < h.length then trap 7 h.vtype
  let word := h.formatReg n
  let fw := formatWord word
  if badFormat fw use h.sliced || !accept fw then trap 8 word
  let dest := if out then [h.vuse v.toNat (fmtOf fw.df).width] else []
  let src := h.sourceUse (!out) v.toNat (fmtOf fw.bf).width
  let m0 := if vm then [] else [h.muse 0]
  let sv := if fw.sv < 28 then [h.svuse fw.sv] else []
  let never := m0.flatMap Use.windows
  windowCheck (firstFailure (dest.map (h.checkUse · 0 (sv.flatMap Use.windows) never)
    ++ (src ++ m0).map (h.checkUse · 0 [] []) ++ sv.map (h.checkUse · 0 [] (if out && (fmtOf fw.df).isMx then never else []))))
  ownMatrix
  let regs := if h.queued v.toNat && !out then [] else h.groupRegs v.toNat
  let scale := if out && (fmtOf fw.df).isMx then [fw.sv] else []
  awaitFull (if out then [] else regs) ((if out then regs else []) ++ scale)
  let k := if out && h.tan then h.tanCount else 0
  if out then awaitPushes (dest.flatMap Use.windows) k
  awaitPushes (scale.map h.vwin)
  pure ⟨⟨v, 0, 0, false, false, 0, vm, n⟩, fw, k, h⟩

/-- Position `i` of the slice `r` of a tile. -/
def sliceAt (column : Bool) (r i : Nat) : Nat × Nat := if column then (i, r) else (r, i)

/-- A vector element from a tile element, its tangents +0 (11 R233). -/
def VCtx.fromTile (cx : VCtx) (copies : Bool) (i bits : Nat) : Out :=
  let r : Fitted := if copies && cx.fw.df == cx.fw.af then ⟨bits, 0⟩
    else cx.df.fit cx.rm cx.fw.sat (cx.rnd i 0) cx.af.isInt (cx.af.value bits)
  { bits := r.bits, flags := r.flags, tans := List.replicate cx.k 0 }

/-- All ones in an agnostic element; its tangents are +0 (11 R233). -/
def VCtx.fillPrimal (cx : VCtx) (i : Nat) : M Unit :=
  cx.put i { bits := 2 ^ cx.df.width - 1, tans := List.replicate cx.k 0 }

/-- SSTEP advances under STOCH (04 R66). -/
def VCtx.stepStoch (cx : VCtx) : M Unit := do
  if cx.fw.rm = 5 then modHart fun h => { h with sstep := (h.sstep + 1) &&& 0xFFFFFFFF }

/-- Dispatch of TROWR and TCOLR, of TROWW and TCOLW, of MCVT. -/
def sliceReadReady (o : SliceOps) : M VCtx :=
  sliceDispatch true { c := false } (fun fw => tileFormat fw.af && sliceFormat fw.df) o.n o.v o.vm
def sliceWriteReady (o : SliceOps) : M VCtx :=
  sliceDispatch false { b := false } (fun fw => tileFormat fw.df && sliceFormat fw.bf) o.n o.v o.vm
def mcvtReady (o : McvtOps) : M VCtx :=
  sliceDispatch true { c := false, stoch := true, e8m0 := true } (fun fw => tileFormat fw.af) o.n o.a o.vm

/-- TROWR and TCOLR. -/
def sliceRead (column : Bool) (o : SliceOps) : M Unit := do
  let cx ← sliceReadReady o
  let r := (cx.h.get o.idx).toNat % 64
  runVector {
    vm := o.vm
    elem := fun i => do
      let s ← get
      let p := sliceAt column r i
      let out := cx.fromTile true i (s.tileRead cx.h.stop o.tile.toNat p.1 p.2)
      checkFlags out.flags
      addFlags out.flags
      cx.put i out
    fill := cx.fillPrimal
    finish := pure ()
    len := 8 }

/-- TROWW and TCOLW. -/
def sliceWrite (column : Bool) (o : SliceOps) : M Unit := do
  let cx ← sliceWriteReady o
  let r := (cx.h.get o.idx).toNat % 64
  runVector {
    vm := o.vm
    elem := fun i => do
      let x ← sourceElem o.v.toNat cx.bf.width cx.h.sliced i 0
      let f : Fitted := if cx.fw.df = cx.fw.bf then ⟨x, 0⟩ else cx.df.fit cx.rm cx.fw.sat 0 cx.bf.isInt (cx.bf.value x)
      checkFlags f.flags
      addFlags f.flags
      let p := sliceAt column r i
      modify fun s => s.tileWrite cx.h.stop o.tile.toNat p.1 p.2 f.bits
    fill := fun _ => pure ()
    finish := endBindings [o.v.toNat]
    len := 8 }

def execTrowr (o : SliceOps) : State → Host.Outcome State Fault Refusal := run (sliceRead false o)
def execTcolr (o : SliceOps) : State → Host.Outcome State Fault Refusal := run (sliceRead true o)
def execTroww (o : SliceOps) : State → Host.Outcome State Fault Refusal := run (sliceWrite false o)
def execTcolw (o : SliceOps) : State → Host.Outcome State Fault Refusal := run (sliceWrite true o)

/-- MCVT: a row narrowed to any format, block by block for an MX destination (13 R254). -/
def execMcvt (o : McvtOps) : State → Host.Outcome State Fault Refusal := run do
  let cx ← mcvtReady o
  let r := (cx.h.get o.idx).toNat % 64
  let body : VBody := {
    vm := o.vm
    elem := fun i => do
      let s ← get
      let out := cx.fromTile false i (s.tileRead cx.h.stop o.tile.toNat r i)
      checkFlags out.flags
      addFlags out.flags
      cx.put i out
    fill := cx.fillPrimal
    finish := cx.stepStoch
    len := 8 }
  if cx.df.isMx then
    runVector { body with
      block := some fun k is => do
        let s ← get
        cx.putBlock k is (mxBlock cx.fw.df cx.rm (is.map fun i =>
          (cx.af.value (s.tileRead cx.h.stop o.tile.toNat r i), cx.rnd i 0)))
      tailFrom := fun _ => pure cx.h.vlmax }
  else runVector body

/-! ### Tile transfers (13 R250 to R253) -/

/-- The accepted format words (13 R251). -/
def transferOk (load : Bool) (fw : FormatWord) : Bool :=
  let tile := if load then fw.df else fw.af
  let side := if load then fw.af else fw.df
  (tile == 2 && (side == 2 || side == 3 || side == 4)) || (tile == 13 && (side == 13 || side == 11 || side == 15))

/-- The address of tile element (i, j) of `e` bytes (13 R250). -/
def tileAddr (across : Bool) (base pitch : Word) (e i j : Nat) : Word :=
  if across then base + BitVec.ofNat 64 j * pitch + BitVec.ofNat 64 (i * e)
  else base + BitVec.ofNat 64 i * pitch + BitVec.ofNat 64 (j * e)

/-- The smallest range that holds `e` bytes at each of some addresses. -/
def hullOf (e : Nat) : List Nat → Option (Nat × Nat)
  | [] => none
  | a :: as => match hullOf e as with
    | none => some (a, a + e)
    | some (lo, hi) => some (min lo a, max hi (a + e))

/-- Probes one row's elements in ascending column order: their locations (13 R252). -/
def probeRow (acc : Access) (e : Nat) : List Word → M (List Nat)
  | [] => pure []
  | va :: vas => do
    if va.toNat % e ≠ 0 then trap 2 va
    let loc ← locate va acc
    if regionOf loc = .control then trap 6 va
    let rest ← probeRow acc e vas
    pure (loc :: rest)

/-- Reads one row's elements of `e` bytes; a tile cannot hold poison (13 R252, 08 R165). -/
def readRow (e : Nat) : List (Word × Nat) → M (List Nat)
  | [] => pure []
  | (va, loc) :: rest => do
    let x ← vectorLoad loc e
    if x.2 then trap 13 va
    let xs ← readRow e rest
    pure (x.1 :: xs)

/-- An element converted between memory and tile: copied, widened exactly, or narrowed (13 R251). -/
def transferFit (fw : FormatWord) (load : Bool) (bits : Nat) : Fitted :=
  if fw.df = fw.af then ⟨bits, 0⟩
  else (fmtOf fw.df).fit (if load then .rne else rmOf fw.rm) (!load && fw.sat) 0 (fmtOf fw.af).isInt ((fmtOf fw.af).value bits)

/-- Stores one row's elements as an engine transfer. -/
def storeRow (e : Nat) : List (Nat × Nat) → M Unit
  | [] => pure ()
  | (loc, v) :: rest => do
    modify fun s => s.engineStore s.h.key loc (leBytes e v)
    storeRow e rest

/-- A tile transfer after dispatch. -/
structure TilePlan where
  h : Hart
  fw : FormatWord
  rows : Nat
  cols : Nat
  base : Word
  pitch : Word
  /-- bytes of a memory element -/
  e : Nat
  hull : Option (Nat × Nat)

/-- Dispatch of a tile transfer: causes 8, 9, 11. -/
def transferReady (load across : Bool) (o : TileOps) : M TilePlan := do
  let s ← get
  let h := s.h
  let word := h.formatReg o.n
  let fw := formatWord word
  if badFormat fw { c := false } false || !transferOk load fw then trap 8 word
  windowCheck (firstFailure ((if o.vm then [] else [h.muse 0, h.muse 1]).map (h.checkUse · 0 [] [])))
  ownMatrix
  let mx := s.matrix h.stop
  let rows := mx.mrows.toNat
  let cols := mx.mcols.toNat
  let e := (fmtOf (if load then fw.af else fw.df)).width / 8
  let base := h.get o.b
  let pitch := if o.strided then h.get o.c else BitVec.ofNat 64 (64 * e)
  let bit (m i : Nat) : Bool := o.vm || (s.mread h m i).val == 1
  let touched := (List.range (rows - h.start)).flatMap fun d =>
    let i := h.start + d
    if bit 0 i then ((List.range cols).filter (bit 1)).map fun j => (tileAddr across base pitch e i j).toNat else []
  pure ⟨h, fw, rows, cols, base, pitch, e, hullOf e touched⟩

/-- At issue a tile transfer takes its Pillar entry, in the order of issue (02 R23), then waits for the older transfers, before any
row is performed; it keeps the entry while it goes on (13 R253, 05 R84, R85). -/
def transferEntry (load : Bool) (p : TilePlan) : M Unit := do
  match p.hull with
  | none => pure ()
  | some (lo, hi) =>
    let id ← heldEntry fun id =>
      { id := id, stop := p.h.stop, owner := p.h.key, write := !load, space := .virt, lo := lo, hi := hi, running := true }
    let s ← get
    if s.meets (s.olderPillars id) s.h.space s.h.key (!load) .virt lo hi then stall

/-- The instruction of a tile transfer has performed its rows: its entry stays until TILE_TRANSFER_COMPLETE. -/
def Pillar.retired (p : Pillar) : Pillar := { p with running := false }
def State.transferIssued (s : State) : State :=
  { s with pillars := s.pillars.map fun p => if s.h.doing = some (.entry p.id) then p.retired else p }

/-- Row `i` of a tile transfer. -/
def transferRow (load across : Bool) (o : TileOps) (p : TilePlan) (i : Nat) : M Unit := do
  let tile := o.tile.toNat
  if ← takesPart o.vm 0 i then
    let js ← partsOf o.vm 1 (List.range p.cols)
    let vas := js.map (tileAddr across p.base p.pitch p.e i)
    let locs ← probeRow (if load then .load else .store) p.e vas
    if load then
      let xs ← readRow p.e (vas.zip locs)
      let fs := xs.map (transferFit p.fw true)
      rowFlags (fs.map (·.flags))
      modify fun s => s.putRow p.h.stop tile ((js.zip fs).map fun p => (i, p.1, p.2.bits))
    else
      let s ← get
      let fs := js.map fun j => transferFit p.fw false (s.tileRead p.h.stop tile i j)
      rowFlags (fs.map (·.flags))
      storeRow p.e ((locs.zip fs).map fun p => (p.1, p.2.bits))

/-- MLD, MLDT, MST and MSTT. -/
def transfer (load across : Bool) (o : TileOps) : M Unit := do
  let p ← transferReady load across o
  transferEntry load p
  if ← upTo (fun i => do setStart i; transferRow load across o p i) setStart p.h.start (p.rows - p.h.start) then
    setStart 0
    modify State.transferIssued
    retire 8

def execMld (o : TileOps) : State → Host.Outcome State Fault Refusal := run (transfer true false o)
def execMldt (o : TileOps) : State → Host.Outcome State Fault Refusal := run (transfer true true o)
def execMst (o : TileOps) : State → Host.Outcome State Fault Refusal := run (transfer false false o)
def execMstt (o : TileOps) : State → Host.Outcome State Fault Refusal := run (transfer false true o)

/-- The last row of a tile transfer performs: its Pillar entry is freed (13 R253, 05 R86). -/
def execTileTransferComplete (id : Nat) (s : State) : Host.Outcome State Fault Refusal := .next (s.freePillars id)

end Sys2Proof.Machine
end

