-- ==== Sys2Proof/Machine/Streams.lean ====
section
/-! DEFINITION. The stream engine (19 R299 to R317), with the accesses that the engines of a core make (05 R73, R75, R355). -/
namespace Sys2Proof.Machine

/-! ### Engine accesses -/

/-- Work of an engine: it changes the state and may meet a fault, a code and an address. Code 0 is no fault: an earlier
transfer of the hart has still to access the bytes (05 R85). -/
abbrev E := ExceptT Fail (StateM State)

/-- The location of an aligned engine access; the control space refuses it (24 R355). -/
def reach (sp : Space) (va align : Nat) (acc : Access) : E Nat := do
  let a : Word := BitVec.ofNat 64 va
  if a.toNat % align ≠ 0 then throw (2, a)
  let loc ← (ExceptT.mk fun s => s.locate sp a acc : E Nat)
  if regionOf loc = .control then throw (6, a)
  pure loc

/-- Bytes that an engine reads for a hart whose strip, or whose stream, holds `log`; whether they carry a mark. -/
def engineRead (log : List StripStore) (loc n : Nat) : E (List Byte × Bool) := do
  modifyGet fun s => s.stripLoad log .vector loc n

/-- Bytes that an engine uses: a mark is code 13 with the address of the word that carries it (19 R303, 08 R165). -/
def engineUse (log : List StripStore) (va loc n : Nat) : E Nat := do
  let r ← engineRead log loc n
  if r.2 then throw (13, BitVec.ofNat 64 (va / 8 * 8))
  pure (leNat r.1)

/-- Bytes that an engine stores for a hart; the scalar data memory takes no mark (08 R165). -/
def engineWrite (k : HKey) (src loc : Nat) (bs : List Byte) (bad : Bool) : E Unit := do
  if bad && regionOf loc == .sdm then throw (13, BitVec.ofNat 64 (src / 8 * 8))
  modify fun s => s.engineStore k loc bs bad

/-! ### Blocks (01 R16, 19 R300 to R303) -/

/-- A number of `n` bits as a signed one. -/
def signedOf (n v : Nat) : Int := if 2 ^ (n - 1) ≤ v then (v : Int) - 2 ^ n else v

def streamBlock (ws : List Word) : StreamBlock :=
  let w (i : Nat) : Nat := ((ws[i]?).getD 0).toNat
  { kind := w 0 % 256
    z := w 0 / 2 ^ 16 % 256
    flags := w 0 / 2 ^ 24 % 256
    length := w 2
    srcBase := w 3
    srcStride := signedOf 32 (w 4 % 2 ^ 32)
    srcInner := w 4 / 2 ^ 32
    srcOuter := signedOf 64 (w 5)
    dstBase := w 6
    dstStride := signedOf 32 (w 7 % 2 ^ 32)
    dstInner := w 7 / 2 ^ 32
    dstOuter := signedOf 64 (w 8)
    bitmap := w 9
    window := w 10
    bound := w 11
    cond := w 12
    complete := w 13
    value := w 14 }

/-- The length that means until cancelled (19 R300). -/
def untilCancelled : Nat := 2 ^ 63 - 1

/-- Bytes of an element. -/
def StreamBlock.size (b : StreamBlock) : Nat := 2 ^ b.z
/-- The gather window: its base, and its size as a power of two (19 R300). -/
def StreamBlock.winBase (b : StreamBlock) : Nat := b.window % 2 ^ 52
def StreamBlock.winLog (b : StreamBlock) : Nat := b.window / 2 ^ 58

/-- An invalid block, code 32 (19 R303); fields that the kind does not use are not checked. -/
def StreamBlock.invalid (b : StreamBlock) : Bool :=
  7 < b.kind || 8 ≤ b.flags || (b.kind ≠ 7 && (3 < b.z || 2 ^ 63 ≤ b.length))
    || (b.kind = 0 && (b.srcInner ≠ 0 || b.dstInner ≠ 0))
    || (b.kind = 6 && (b.z ≠ 2 || 2 ^ 32 ≤ b.length || 2 ^ 32 ≤ b.window || 2 ^ 32 ≤ b.bound))
    || ((b.kind = 2 || b.kind = 3) && (52 < b.winLog || b.window / 2 ^ 52 % 64 ≠ 0 || b.winBase % b.size ≠ 0))

/-- Element `i` of a generator (19 R301). -/
def genAddr (base : Nat) (stride : Int) (inner : Nat) (outer : Int) (i : Nat) : Int :=
  if inner = 0 then base + i * stride else base + (i % inner : Nat) * stride + (i / inner : Nat) * outer
def toAddr (a : Int) : Nat := (a % 2 ^ 64).toNat
def StreamBlock.src (b : StreamBlock) (i : Nat) : Nat := toAddr (genAddr b.srcBase b.srcStride b.srcInner b.srcOuter i)
def StreamBlock.dst (b : StreamBlock) (i : Nat) : Nat := toAddr (genAddr b.dstBase b.dstStride b.dstInner b.dstOuter i)

/-! ### Pillar ranges (19 R312) -/

/-- The elements of a generator whose addresses bound those of elements `p` to `n` − 1. -/
def corners (inner p n : Nat) : List Nat :=
  if inner = 0 then [p, n - 1]
  else
    let r0 := p / inner
    let r1 := (n - 1) / inner
    if r0 = r1 then [p, n - 1]
    else [p, r0 * inner + inner - 1, r1 * inner, n - 1]
      ++ (if r0 + 2 ≤ r1 then [(r0 + 1) * inner, (r0 + 1) * inner + inner - 1, (r1 - 1) * inner, (r1 - 1) * inner + inner - 1] else [])

abbrev Range := Int × Int

/-- The smallest range over some starts of `size` bytes. -/
def spanOver (size : Nat) : List Int → Option Range
  | [] => none
  | a :: as => match spanOver size as with
    | none => some (a, a + size)
    | some (lo, hi) => some (min lo a, max hi (a + size))

/-- A range of addresses modulo 2⁶⁴ (19 R301). One that wraps has a part from 0 upward. -/
def wrapSpan (r : Range) : Range :=
  let lo := r.1 % 2 ^ 64
  let hi := lo + (r.2 - r.1)
  if hi ≤ 2 ^ 64 then (lo, hi) else if lo < 2 ^ 52 then (0, 2 ^ 52) else (0, hi - 2 ^ 64)

/-- The range of elements `p` to `n` − 1 of a generator; without end it reaches to the end of the address space. -/
def genSpan (base : Nat) (stride : Int) (inner : Nat) (outer : Int) (size p n : Nat) : Option Range :=
  let at_ (i : Nat) : Int := genAddr base stride inner outer i
  if n ≤ p then none
  else if n = untilCancelled then
    -- what bounds the elements from `p` on at the end they do not grow to: `p`, or the rest of its row and the next row
    let next := (p / inner + 1) * inner
    let ends := if inner = 0 then [at_ p] else [p, next - 1, next, next + inner - 1].map at_
    if 0 ≤ (if inner = 0 then stride else outer) then
      let lo := ends.foldl min (at_ p)
      some (if lo < 0 then 0 else lo % 2 ^ 64, 2 ^ 52)
    else some (0, ends.foldl max (at_ p) % 2 ^ 64 + size)
  else (spanOver size ((corners inner p n).map at_)).map wrapSpan

/-- A run of `size`-byte places from `base`, from place `p` up to `n`. -/
def runSpan (base size p n : Nat) : Option Range :=
  if n ≤ p then none
  else if n = untilCancelled then some (((base + p * size : Nat) : Int) % 2 ^ 64, 2 ^ 52)
  else some (wrapSpan (((base + p * size : Nat) : Int), ((base + n * size : Nat) : Int)))

/-- The smallest range over several. -/
def joinSpans (rs : List (Option Range)) : Option Range :=
  rs.foldl (fun acc r => match acc, r with
    | some (a, b), some (c, d) => some (min a c, max b d)
    | some x, none => some x
    | none, r => r) none

/-- What a stream may still read, and what it may still write, from a progress pointer and count. `backA` and `backB` say that
INTERSECT has still to read the value before its next one of an input (19 R308). -/
def StreamBlock.reads (b : StreamBlock) (ptr : Nat) (backA backB : Bool := false) : Option Range :=
  let src (size p n : Nat) : Option Range := genSpan b.srcBase b.srcStride b.srcInner b.srcOuter size p n
  let win : Option Range := if b.length ≤ ptr then none else some (b.winBase, (b.winBase + 2 ^ b.winLog : Nat))
  match b.kind with
  | 0 | 1 => src b.size ptr b.length
  | 2 => joinSpans [src 4 ptr b.length, win]
  | 3 => joinSpans [runSpan b.bitmap 4 ptr b.length, src b.size ptr b.length]
  | 5 => joinSpans [src b.size ptr b.length, if b.length ≤ ptr then none else
      runSpan b.bitmap 1 (ptr / 8) (if b.length = untilCancelled then untilCancelled else (b.length + 7) / 8)]
  | 6 => joinSpans [src 4 (ptr % 2 ^ 32 - backA.toNat) b.length, runSpan b.bitmap 4 (ptr / 2 ^ 32 - backB.toNat) b.window]
  | _ => none
def StreamBlock.writes (b : StreamBlock) (ptr count : Nat) : Option Range :=
  let dst (p n : Nat) : Option Range := genSpan b.dstBase b.dstStride b.dstInner b.dstOuter b.size p n
  match b.kind with
  | 0 | 1 | 2 | 4 | 5 => dst ptr b.length
  | 3 => if b.length ≤ ptr then none else some (b.winBase, (b.winBase + 2 ^ b.winLog : Nat))
  | 6 => if b.length ≤ ptr % 2 ^ 32 ∨ b.window ≤ ptr / 2 ^ 32 then none else dst count untilCancelled
  | _ => none

/-- The block, the condition word and the completion word, which lie in no entry of the stream (19 R312). -/
def Stream.ownWords (st : Stream) : List (Nat × Nat) :=
  (st.block, st.block + 128) :: (([st.blk.cond, st.blk.complete].filter (· ≠ 0)).map fun a => (a, a + 8))

/-- The Pillar entries of a stream (19 R312). -/
def Stream.entries (st : Stream) : List Pillar :=
  let entry (write : Bool) (r : Option Range) : List Pillar :=
    match r with
    | some (lo, hi) => [{ id := st.id, stop := st.stop, owner := st.owner, write := write, space := .virt
                          lo := lo.toNat, hi := hi.toNat, holes := st.ownWords }]
    | none => []
  if st.blk.invalid || st.ending.isSome then []
  else entry false (st.blk.reads st.ptr st.lastA.isNone st.lastB.isNone) ++ entry true (st.blk.writes st.ptr st.count)

/-- As elements perform, the bytes that later accesses wait for are those of the elements that remain (05 R85). -/
def State.shrinkPillars (s : State) (st : Stream) : State :=
  let left := st.entries
  { s with pillars := s.pillars.map fun p =>
      if p.id == st.id then
        match left.find? (·.write == p.write) with
        | some q => { p with lo := q.lo, hi := q.hi }
        | none => { p with lo := 0, hi := 0 }
      else p }

/-! ### Slots -/

def State.stream? (s : State) (id : Nat) : Option Stream := s.streams.find? (·.id == id)
def State.setStream (s : State) (st : Stream) : State :=
  { s with streams := updateFirst (·.id == st.id) (fun _ => st) s.streams }
/-- The streams that have started and are not final: those in slots, and the faulted ones that have none (19 R299). -/
def State.unended (s : State) : List Stream := s.streams ++ s.orphans
def Stream.space (st : Stream) : Space := ⟨st.level, st.asid, st.ptbase, st.stop, st.vpart, st.pre⟩
/-- RUNNING, as opposed to FAULT. -/
def Stream.running (st : Stream) : Bool := !st.faulted


/-- The location of an access of a stream, once no older transfer of its hart has still to access the bytes. -/
def Stream.reach (st : Stream) (va n : Nat) (acc : Access) : E Nat := do
  let s ← get
  if s.meets (s.olderPillars st.id) st.space st.owner (acc == .store) .virt va (va + n) then throw (0, 0)
  Machine.reach st.space va n acc

/-- A write of the engine to its own block, translated when it is made, so that VMFLUSH need not wait for it (06 R120); where the
block is not mapped by then, nothing is written (DEDUCED, log 41). -/
def State.putBlock (s : State) (st : Stream) (off n v : Nat) : State :=
  match s.locate st.space (BitVec.ofNat 64 (st.block + off)) .store with
  | (.ok loc, t) => if regionOf loc = .control then t else t.rawWrite none loc (leBytes n v)
  | (.error _, t) => t

/-- The exact progress pointer, and the count of the counting kinds (19 R313). -/
def State.putProgress (s : State) (st : Stream) : State :=
  let t := s.putBlock st 8 8 st.ptr
  if st.blk.kind = 5 ∨ st.blk.kind = 6 then t.putBlock st 4 4 st.count else t

/-! ### Ends (19 R304, R310, R315) -/

/-- Whether a status that a predecessor takes is passed on to a stream that waits on it (19 R310). -/
def cascades (barrier : Bool) (status : Nat) : Bool := status == 4 || (status == 5 && barrier)

/-- The progress pointer of a stream whose elements are all done or skipped (19 R315). -/
def Stream.atEnd (st : Stream) : Stream :=
  { st with ptr := match st.blk.kind with
    | 6 => st.blk.length + st.blk.window * 2 ^ 32
    | 7 => st.ptr
    | _ => st.blk.length }

/-- What follows the status of a stream that has ended: its completion word if it has one, then its lamp (19 R315). -/
def State.afterStatus (s : State) (st : Stream) (word : Option Nat) : State :=
  let lamp := st.blk.flags % 2 = 1
  let l : Lamp := ⟨false, BitVec.ofNat 64 (st.block % 2 ^ 52)⟩
  match word with
  | some loc => { s with finals := s.finals ++ [⟨st.id, st.stop, st.owner, loc, st.blk.value, if lamp then some l else none⟩] }
  | none => if lamp then s.onKey st.owner (·.addLamp l) else s

/-- A stream takes a final status: pointer, count, status, entries, slot; its completion word and its lamp follow. A
completion word that faults makes it a FAULT instead, before any status is written (19 R315). The second part says whether
it became final. -/
def State.finishStream (s : State) (st : Stream) (status : Nat) : State × Bool :=
  let place : Except Fail (Option Nat) × State :=
    if status = 4 ∨ st.blk.complete = 0 then (.ok none, s)
    else
      let r := (st.reach st.blk.complete 8 .store).run s
      (match r.1 with | .ok loc => .ok (some loc) | .error f => .error f, r.2)
  match place with
  | (.error (c, v), t) =>
    if c = 0 then (s.setStream { st with ending := some status, started := true }, false)
    else (t.setStream { st.atEnd with error := some (c, v.toNat % 2 ^ 52), ending := some status, started := true }, false)
  | (.ok loc, t) =>
    let t := (t.putProgress st).putBlock st 1 1 status
    ({ t.freePillars st.id with
      streams := t.streams.filter (·.id != st.id)
      orphans := t.orphans.filter (·.id != st.id) }.afterStatus st loc, true)

/-- The completion word of a stream that has ended, and its lamp (19 R315). -/
def State.writeFinal (s : State) (id : Nat) : State :=
  match s.finals.find? (·.id == id) with
  | none => s
  | some f =>
    let s := { s with finals := s.finals.filter (·.id != id) }.rawWrite none f.loc (leBytes 8 f.value)
    match f.lamp with
    | some l => s.onKey f.owner (·.addLamp l)
    | none => s

/-- Ends streams, each under a status; a status that is passed on goes to the streams that wait, in start order (19 R310).
A stream in FAULT does not become SKIPPED (R304): it is skipped once it runs again (log 61). -/
def State.endStreams : Nat → State → List (Nat × Nat) → State
  | 0, s, _ => s
  | _, s, [] => s
  | fuel + 1, s, (id, status) :: queue =>
    match s.unended.find? (·.id == id) with
    | none => State.endStreams fuel s queue
    | some st =>
      if st.faulted && status = 5 then
        let mark (x : Stream) : Stream := if x.id == id then { x with skipped := true, preds := [] } else x
        State.endStreams fuel { s with streams := s.streams.map mark, orphans := s.orphans.map mark } queue
      else
        let (s, final) := s.finishStream st status
        if !final then State.endStreams fuel s queue
        else if cascades (st.blk.kind == 7) status then
          State.endStreams fuel s (queue ++ ((s.unended.filter (·.preds.contains id)).map fun x => (x.id, status)))
        else State.endStreams fuel { s with
          streams := s.streams.map fun x => { x with preds := x.preds.filter (· != id) }
          orphans := s.orphans.map fun x => { x with preds := x.preds.filter (· != id) } } queue

/-- Ends a stream with enough fuel for every stream of the device. -/
def State.endAll (s : State) (id status : Nat) : State :=
  State.endStreams ((s.unended.length + 1) * (s.unended.length + 1)) s [(id, status)]

/-! ### Elements (19 R302, R308, R313) -/

/-- Whether no element remains. -/
def Stream.exhausted (st : Stream) : Bool :=
  match st.blk.kind with
  | 7 => true
  | 6 => st.blk.length ≤ st.ptr % 2 ^ 32 || st.blk.window ≤ st.ptr / 2 ^ 32
  | _ => st.blk.length ≠ untilCancelled && st.blk.length ≤ st.ptr

/-- Stores an element and remembers it for the stream's own later loads (19 R317). -/
def Stream.storeElem (st : Stream) (src loc : Nat) (bs : List Byte) (bad : Bool) : E Stream := do
  let s ← get
  engineWrite st.owner src loc bs bad
  pure { st with wrote := { pa := loc, old := s.mem.readBytes loc bs.length, kind := .vector
                            marks := marksIn s.poison loc bs.length, bad := bad } :: st.wrote }

/-- One step of the merge walk (19 R308). -/
def Stream.intersect (st : Stream) (log : List StripStore) : E Stream := do
  let b := st.blk
  let pa := st.ptr % 2 ^ 32
  let pb := st.ptr / 2 ^ 32
  let value (va : Nat) : E Nat := do engineUse log va (← st.reach va 4 .load) 4
  -- value `i` of an input, checked against the value before it: the one of the step before, or read now after a resumption
  let checked (at_ : Nat → Nat) (i : Nat) (last : Option Nat) : E Nat := do
    let x ← value (at_ i)
    if i ≠ 0 then
      let p ← match last with | some p => pure p | none => value (at_ (i - 1))
      if x ≤ p then throw (34, BitVec.ofNat 64 (at_ i))
    pure x
  let x ← checked b.src pa st.lastA
  let y ← checked (fun i => (b.bitmap + 4 * i) % 2 ^ 64) pb st.lastB
  if x < y then pure { st with ptr := st.ptr + 1, lastA := some x, lag := st.lag + 8 }
  else if y < x then pure { st with ptr := st.ptr + 2 ^ 32, lastB := some y, lag := st.lag + 8 }
  else
    let next := { st with ptr := pa + 1 + (pb + 1) * 2 ^ 32, lastA := some x, lastB := some y, lag := st.lag + 12 }
    if x ≤ b.bound then pure next
    else
      let loc ← st.reach (b.dst st.count) 4 .store
      let next ← next.storeElem (b.src pa) loc (leBytes 4 x) false
      pure { next with count := (st.count + 1) % 2 ^ 32 }

/-- Moves one element of `n` bytes from one address to another. -/
def Stream.move (st : Stream) (log : List StripStore) (src dst n : Nat) : E Stream := do
  let sl ← st.reach src n .load
  let dl ← st.reach dst n .store
  let r ← engineRead log sl n
  st.storeElem src dl r.1 r.2

/-- One element (19 R302). -/
def Stream.element (st : Stream) : E Stream := do
  let log := st.wrote ++ (← get).stripOf st.owner
  let b := st.blk
  let n := b.size
  let i := st.ptr
  let step (t : Stream) (moved : Nat) : Stream := { t with ptr := i + 1, lag := t.lag + moved }
  let index (va : Nat) : E Nat := do
    let j ← engineUse log va (← st.reach va 4 .load) 4
    if 2 ^ b.winLog < j * n + n then throw (33, BitVec.ofNat 64 va)
    pure ((b.winBase + j * n) % 2 ^ 64)
  match b.kind with
  | 0 | 1 => return step (← st.move log (b.src i) (b.dst i) n) (2 * n)
  | 2 =>
    let t ← index (b.src i)
    return step (← st.move log t (b.dst i) n) (2 * n + 4)
  | 3 =>
    let t ← index ((b.bitmap + 4 * i) % 2 ^ 64)
    return step (← st.move log (b.src i) t n) (2 * n + 4)
  | 4 =>
    let dl ← st.reach (b.dst i) n .store
    return step (← st.storeElem 0 dl (leBytes n b.srcBase) false) n
  | 5 =>
    let va := (b.bitmap + i / 8) % 2 ^ 64
    let bits ← engineUse log va (← st.reach va 1 .load) 1
    if bits / 2 ^ (i % 8) % 2 = 0 then return step st 1
    let t ← st.move log (b.src i) (b.dst i) n
    return step { t with count := (st.count + 1) % 2 ^ 32 } (2 * n + 1)
  | 6 => st.intersect log
  | _ => pure st

/-- Whether the next access of a stream waits for an older transfer of its hart (05 R85). -/
def State.holdsBack (s : State) (st : Stream) : Bool :=
  let busy (acc : Access) (va : Nat) : Bool :=
    s.meets (s.olderPillars st.id) st.space st.owner (acc == .store) .virt va (va + 8)
  if !st.started then !st.skipped && st.blk.cond ≠ 0 && busy .load st.blk.cond
  else if st.ending.isSome || st.exhausted then st.blk.complete ≠ 0 && busy .store st.blk.complete
  else match ((Stream.element st).run s).1 with
    | .error f => f.1 == 0
    | .ok _ => false

/-- The engine performs an element; it writes the progress pointer now and then, at the latest after 4,096 bytes (19 R313). -/
def State.performElement (s : State) (id : Nat) : State :=
  match s.stream? id with
  | none => s
  | some st =>
    match (Stream.element st).run s with
    | (.error (c, v), t) => if c = 0 then s else t.setStream { st with error := some (c, v.toNat % 2 ^ 52) }
    | (.ok st', t) =>
      let (i, t) := if 4096 ≤ st'.lag then (0, t) else t.choose 2
      let t := if i = 0 then t.putProgress st' else t
      (t.setStream (if i = 0 then { st' with lag := 0 } else st')).shrinkPillars st'

/-! ### Starts and faults (19 R310, R311, R314) -/

/-- A stream whose predecessors are done starts: it reads its condition word, if it has one. -/
def State.startStream (s : State) (id : Nat) : State :=
  match s.stream? id with
  | none => s
  | some st =>
    if st.skipped then s.endAll id 5
    else if st.blk.cond = 0 then s.setStream { st with started := true }
    else
      let look : E Nat := do
        let loc ← st.reach st.blk.cond 8 .load
        engineUse ((← get).stripOf st.owner) st.blk.cond loc 8
      match look.run s with
      | (.error (c, v), t) => if c = 0 then s else t.setStream { st with error := some (c, v.toNat % 2 ^ 52) }
      | (.ok 0, t) => t.endAll id 5
      | (.ok _, t) => t.setStream { st with started := true }

/-- The engine records a fault and raises cause 18 to the issuing hart (19 R314, 08 R164). -/
def State.faultStream (s : State) (id : Nat) : State :=
  match s.stream? id with
  | none => s
  | some st =>
    match st.error with
    | none => s
    | some (code, addr) =>
      let t := (s.putProgress st).putBlock st 120 8 (code * 2 ^ 56 + addr)
      let t := (t.putBlock st 1 1 3).freePillars id
      (t.setStream { st with faulted := true, error := none }).onKey st.owner fun h =>
        { h with faults := h.faults ++ [BitVec.ofNat 64 st.block] }

def execStreamStart (id : Nat) (s : State) : Host.Outcome State Fault Refusal := .next (s.startStream id)
def execStreamElement (id : Nat) (s : State) : Host.Outcome State Fault Refusal := .next (s.performElement id)
def execStreamFault (id : Nat) (s : State) : Host.Outcome State Fault Refusal := .next (s.faultStream id)
/-- DONE, or the status whose completion word was outstanding; then the completion word and the lamp. -/
def execStreamCompletion (id : Nat) (s : State) : Host.Outcome State Fault Refusal :=
  .next (match s.stream? id with
    | some st => s.endAll id (st.ending.getD 2)
    | none => s.writeFinal id)

/-! ### Instructions (19 R305 to R307) -/

/-- The address of a block: a multiple of 128. -/
def blockAddress (b : SReg) : M Word := do
  let ea ← rd b
  if ea.toNat % 128 ≠ 0 then trap 2 ea
  pure ea

/-- The location of a block; the control space refuses it. -/
def locateBlock (ea : Word) (acc : Access) : M Nat := do
  let loc ← locate ea acc
  if regionOf loc = .control then trap 6 ea
  pure loc

/-- SSTART reports a load page fault of the block as cause 4 (19 R305). -/
def asStoreFault {α : Type} (m : M α) : M α := tryCatch m fun e => match e with
  | .trap 3 v => trap 4 v
  | .trap c v => trap c v
  | .wait => stall

/-- The predecessors of a stream that the hart in focus starts: the streams it has started that are not final; or the
latest BARRIER it started, if that one is not final (19 R309). -/
def State.predecessors (s : State) (barrier : Bool) : List Nat :=
  let mine := (s.streams.filter (·.owner == s.h.key)).map (·.id)
  if barrier then mine else mine.filter fun id => s.h.barrier == some id

/-- Whether a kind uses doubleword `i` of its block: what it does not use is neither read nor checked (19 R300). -/
def blockUses (kind i : Nat) : Bool :=
  match i with
  | 2 | 3 => kind < 7
  | 4 => kind < 7 && kind != 4
  | 5 => [1, 2, 3, 5, 6].contains kind
  | 6 | 7 => kind < 7 && kind != 3
  | 8 => [1, 2, 4, 5, 6].contains kind
  | 9 => [3, 5, 6].contains kind
  | 10 => [2, 3, 6].contains kind
  | 11 => kind == 6
  | _ => i < 15

/-- The doublewords of a block from `i` on that its kind uses, 0 for the others. -/
def blockWords (ea : Word) (kind i : Nat) : Nat → M (List Word)
  | 0 => pure []
  | n + 1 => do
    let w ← if blockUses kind i then recordWord (ea + BitVec.ofNat 64 (8 * i)) else pure 0
    let ws ← blockWords ea kind (i + 1) n
    pure (w :: ws)

/-- Slots of a core's engine in use (19 R299). -/
def State.slotsOf (s : State) (stop : Nat) : Nat := (s.streams.filter (·.stop == stop)).length

/-- The faulted stream of a block: in a slot, or left without one when its hart retired or its core was lost (19 R299). -/
def State.faultedAt (s : State) (place : Nat) : Option Stream := s.unended.find? fun x => x.place == place && x.faulted

/-- A stream in FAULT whose block a program has given another status (19 R315) ends when the block is started again: its slot is
free, and what waited for it waits for the stream `id` that takes its place. The spec does not speak of it: DESIGN CHOICE,
log 84. -/
def State.supersede (s : State) (place id : Nat) : State :=
  match s.faultedAt place with
  | none => s
  | some x =>
    let renew (t : Stream) : Stream := { t with preds := t.preds.map fun p => if p = x.id then id else p }
    { s with
      streams := (s.streams.filter (·.id != x.id)).map renew
      orphans := (s.orphans.filter (·.id != x.id)).map renew }

/-- The name of the stream that an SSTART which has found the status `old` starts or resumes: the faulted one, if the status is
FAULT, or a new one. -/
def nameStream (place old : Nat) : M (Nat × Bool) := do
  let s ← get
  match (if old = 3 then s.faultedAt place else none) with
  | some x => pure (x.id, true)
  | none =>
    let id ← freshId
    modify fun s => s.supersede place id
    pure (id, false)

/-- Hands a block to a slot, once there is one and there are Pillar entries; SSTART waits for no element (19 R305). It resumes the
faulted stream `id` that it found when it set RUNNING, whose predecessors and start stand (R309, R311), or starts one under that
name; a SKILL that has ended the stream meanwhile has ended the SSTART's stream. -/
def acceptStream (ea : Word) (place id : Nat) (resumes : Bool) : M Unit := do
  let s ← get
  let h := s.h
  let held := if resumes then s.unended.find? (·.id == id) else none
  if resumes && held.isNone then return
  let here := match held with | some x => x.stop == h.stop && (s.stream? x.id).isSome | none => false
  if !here && 32 ≤ s.slotsOf h.stop then stall
  let w0 ← asStoreFault (recordWord ea)
  let ws ← (w0 :: ·) <$> asStoreFault (blockWords ea (w0.toNat % 256) 1 15)
  let blk := streamBlock ws
  let word (i : Nat) : Nat := ((ws[i]?).getD 0).toNat
  let base : Stream := match held with
    | some x => { x with faulted := false, error := none, lag := 0, wrote := [], lastA := none, lastB := none }
    | none => { id := id, stop := 0, owner := h.key, block := 0, place := 0, level := h.level, asid := 0, ptbase := 0
                vpart := 0, pre := false, blk := blk, ptr := 0, count := 0, preds := s.predecessors (blk.kind == 7)
                started := false, faulted := false, error := none, ending := none, lag := 0, wrote := [], skipped := false
                lastA := none, lastB := none }
  let st := { base with
    stop := h.stop, owner := h.key, block := ea.toNat, place := place, level := h.level, asid := h.asid, ptbase := h.ptbase
    vpart := h.vpart, pre := h.preempting, blk := blk, ptr := word 1, count := word 0 / 2 ^ 32
    error := if blk.invalid then some (32, ea.toNat % 2 ^ 52) else none }
  takePillars st.entries
  modify fun s =>
    if (s.stream? st.id).isSome then s.setStream st
    else { s with streams := s.streams ++ [st], orphans := s.orphans.filter (·.id != id) }
  if held.isNone && blk.kind == 7 then modHart fun h => { h with barrier := some st.id }

/-- The atomic step of SSTART on the status byte: RUNNING is set unless it stands there; it answers the old status. -/
def startStatus (ea : Word) (place : Nat) : M Nat := do
  awaitPillar true .virt (ea.toNat + 1) (ea.toNat + 2)
  let mask ← modifyGet fun s => s.stripMask s.h.strip .scalar (place + 1) 1
  let s ← get
  let old ← useBytes ea (let r := s.sunk s.h.strip .scalar true (place + 1) 1 id false mask; (r.seen, !r.found.isEmpty))
  if leNat old = 1 then pure 1
  else
    if ((List.range 16).filter (blockUses (s.mem.readNat place 1))).any fun i => marked s.poison (place + 8 * i) 8 then trap 13 ea
    let _ ← asStoreFault (locateBlock ea .load)
    modifyAt ea .scalar (place + 1) 1 (fun _ => 1) mask

/-- SSTART (19 R305). -/
def execSstart (a b : SReg) : State → Host.Outcome State Fault Refusal := run do
  let ea ← blockAddress b
  let place ← locateBlock ea .store
  let (old, id, resumes) ← match (← hart).doing with
    | some (.sstart old id resumes) => pure (old, id, resumes)
    | _ => do
      let old ← startStatus ea place
      let (id, resumes) ← if old = 1 then pure (0, false) else nameStream place old
      pure (old, id, resumes)
  if old ≠ 1 then
    begin (.sstart old id resumes)
    tryCatch (acceptStream ea place id resumes) fun e => match e with
      | .trap c v => do
        modHart Hart.endDoing
        trap c v
      | .wait => stall
    modHart Hart.endDoing
  wr a (BitVec.ofNat 64 old)
  retire 4

/-- A status that SWAIT waits for (01 R16). -/
def finalStatus (v : Nat) : Bool := v == 2 || v == 3 || v == 4 || v == 5

/-- The status byte of a block, read as a load (19 R306, 05 R85). -/
def blockStatus (ea : Word) : M Nat := do
  let loc ← locateBlock ea .load
  awaitPillar false .virt (ea.toNat + 1) (ea.toNat + 2)
  return leNat (← loadBytes false ea (loc + 1) 1)

/-- SWAIT (01 R16, 19 R306). -/
def execSwait (a b : SReg) : State → Host.Outcome State Fault Refusal := run do
  closeStrip
  let ea ← blockAddress b
  let v ← blockStatus ea
  if finalStatus v then
    modHart Hart.acquire
    wr a (BitVec.ofNat 64 v)
    retire 4
  else stall

/-- STEST (19 R306). -/
def execStest (a b : SReg) : State → Host.Outcome State Fault Refusal := run do
  let ea ← blockAddress b
  let v ← blockStatus ea
  if finalStatus v then modHart Hart.acquire
  wr a (BitVec.ofNat 64 v)
  retire 4

/-- SKILL (19 R307). -/
def execSkill (a b : SReg) : State → Host.Outcome State Fault Refusal := run do
  let ea ← blockAddress b
  let loc ← locateBlock ea .load
  match (← get).streams.find? (·.place == loc) with
  | some st =>
    modify fun s => s.endAll st.id 4
    wr a 4
  | none => wr a (BitVec.ofNat 64 (← blockStatus ea))
  retire 4

/-- The slots of a hart that retires: a faulted stream leaves its slot (19 R299). What has started of it is known when its block is
resumed (R309, R311). -/
def State.dropStreams (s : State) (k : HKey) : State :=
  { s with
    streams := s.streams.filter (·.owner != k)
    orphans := s.orphans ++ s.streams.filter (·.owner == k) }

end Sys2Proof.Machine
end

