-- ==== Sys2Proof/Machine/Routes.lean ====
section
/-! DEFINITION. The route engine: targets and inboxes, ROUTE and its reservations, delivery, returns, reassembly, timeouts
(21 R323 to R338). -/
namespace Sys2Proof.Machine

/-! ### Targets (21 R324, R325) -/

def State.target? (s : State) (die id : Nat) : Option Target := s.targets.find? fun t => t.die == die && t.id == id
def State.targetOf (s : State) (k : HKey) : Option Target := s.targets.find? (·.owner == k)
def State.onTarget (s : State) (die id : Nat) (f : Target → Target) : State :=
  { s with targets := updateFirst (fun t => t.die == die && t.id == id) f s.targets }

/-- Whether the inbox lies in banks that the hart holds; above user level every bank is reachable (05 R75, 21 R324). Its
base must lie there even where C·R is 0. -/
def Hart.holdsInbox (h : Hart) (off n : Nat) : Bool :=
  off + n ≤ 0x300000 && (h.level != .user || (List.range (min 192 ((max 1 n + 7) / 8))).all fun k => h.space.holds ((off / 8 + k) % 192))

/-- A hart asks for an id: where a hart of another launch holds it, the slots by which the launch of the asker names that id are
dropped from then on, as long as it is held (22 R341; DEDUCED, log 68). -/
def State.refuse (s : State) (h : Hart) (id : Nat) : State :=
  s.onTarget h.die id fun g =>
    if g.owner.lid = h.key.lid || g.refused.contains h.key.lid then g else { g with refused := g.refused ++ [h.key.lid] }

/-- RBIND (21 R324). -/
def execRbind (a b : SReg) : State → Host.Outcome State Fault Refusal := run do
  let ea ← rd b
  if ea.toNat % 16 ≠ 0 then trap 2 ea
  let ws ← recordWords ea 2
  let base := (ws[0]?).getD 0
  let w := ((ws[1]?).getD 0).toNat
  let rows := w % 65536
  let bytes := w / 65536 % 65536
  let req := w / 2 ^ 32 % 256
  if w / 2 ^ 40 ≠ 0 then trap 6 ea
  if base.toNat < localBase ∨ localBase + 0x300000 ≤ base.toNat ∨ base.toNat % 128 ≠ 0 then trap 6 base
  let s ← get
  let h := s.h
  let off := base.toNat - localBase
  if !h.holdsInbox off (rows * bytes) then trap 6 base
  let id := if req = 255 then (List.range 255).find? fun i => (s.target? h.die i).isNone else some req
  let bad := (s.targetOf h.key).isSome || rows = 0 || 256 < rows || bytes < 4 || 4096 < bytes || bytes % 4 ≠ 0
  match id with
  | some i =>
    if bad || (s.target? h.die i).isSome then
      set (s.refuse h i)
      wr a (BitVec.allOnes 64)
    else
      set { s with targets := s.targets ++ [Target.mk h.die i h.key h.stop (scratchLoc h.stop + off) rows bytes [] []] }
      wr a (BitVec.ofNat 64 i)
  | none => wr a (BitVec.allOnes 64)
  retire 4

/-! ### Tiles -/

/-- The tile handle (21 R328). -/
def RouteTile.handle (t : RouteTile) : Word := BitVec.ofNat 64 (t.gen * 32 + t.entry)
def State.tile? (s : State) (stop entry : Nat) : Option RouteTile := s.routeTiles.find? fun t => t.stop == stop && t.entry == entry
def State.onTile (s : State) (stop entry : Nat) (f : RouteTile → RouteTile) : State :=
  { s with routeTiles := updateFirst (fun t => t.stop == stop && t.entry == entry) f s.routeTiles }
/-- The tile that a handle names on a core (21 R336). -/
def State.tileOf (s : State) (stop : Nat) (handle : Word) : Option RouteTile :=
  s.routeTiles.find? fun t => t.stop == stop && t.handle == handle &&& 0xFFFF

def RouteTile.setSlot (t : RouteTile) (i : Nat) (x : SlotState) : RouteTile := { t with slots := t.slots.set i x }
def RouteTile.count (t : RouteTile) (p : SlotState → Bool) : Nat := (t.slots.filter p).length
/-- A slot that is expected and not yet delivered (21 R333). -/
def SlotState.isReserved : SlotState → Bool
  | .reserved _ _ => true
  | _ => false
/-- Whether every reservation has been made: the tile is accepted. -/
def RouteTile.accepted (t : RouteTile) : Bool := t.slots.all (· != .pending)
/-- Whether the tile may be reassembled (21 R333). -/
def RouteTile.complete (t : RouteTile) : Bool := t.status == .running && t.accepted && t.slots.all (!·.isReserved)

/-- The status word (21 R336). -/
def RouteTile.word (t : RouteTile) : Word :=
  let code := match t.status with | .running => 0 | .done => 1 | .partly => 2 | .fault => 3
  BitVec.ofNat 64 (t.count (· == .late) * 2 ^ 48 + t.count (· == .dropped) * 2 ^ 32 + t.count (· == .returned) * 2 ^ 16 + code)

/-- The rows of a hart's inbox are dropped with its binding (21 R325). -/
def State.unbindTarget (s : State) (k : HKey) : State :=
  match s.targetOf k with
  | none => s
  | some g =>
    let t := { s with targets := s.targets.filter (·.owner != k) }
    g.rows.foldl (fun s r => s.onTile r.tileStop r.tileEntry fun x =>
      if x.gen = r.tileGen && x.status == .running && ((x.slots[4 * r.row + r.slot]?).getD .none).isReserved then
        x.setSlot (4 * r.row + r.slot) .dropped
      else x) t

def execRunbind : State → Host.Outcome State Fault Refusal := run do
  modify fun s => s.unbindTarget s.h.key
  retire 4

/-! ### Route records (21 R326) -/

def routeRec (ws : List Word) : RouteRec :=
  let w (i : Nat) : Nat := ((ws[i]?).getD 0).toNat
  { src := w 0
    srcPitch := signedOf 32 (w 1 % 2 ^ 32)
    outPitch := signedOf 32 (w 1 / 2 ^ 32)
    idsVa := w 2
    weightsVa := w 3
    out := w 4
    ret := w 5
    rows := w 6 % 65536
    elems := w 6 / 65536 % 65536
    timeout := w 6 / 2 ^ 32
    policy := w 7 % 256
    fallback := w 7 / 256 % 256
    flags := w 7 / 65536 % 256
    reserved := w 7 / 2 ^ 24 }

def RouteRec.bad (r : RouteRec) : Bool :=
  r.src % 4 ≠ 0 || r.srcPitch % 4 ≠ 0 || r.outPitch % 4 ≠ 0 || r.weightsVa % 4 ≠ 0 || r.out % 4 ≠ 0 || r.ret % 4 ≠ 0
    || r.rows = 0 || 64 < r.rows || r.elems = 0 || 1024 < r.elems || 2 < r.policy || 4 ≤ r.flags || r.reserved ≠ 0

/-- Bytes of a row. -/
def RouteRec.bytes (r : RouteRec) : Nat := 4 * r.elems
def RouteRec.srcRow (r : RouteRec) (i : Nat) : Nat := toAddr (r.src + i * r.srcPitch)
def RouteRec.outRow (r : RouteRec) (i : Nat) : Nat := toAddr (r.out + i * r.outPitch)
/-- Where the return of a row's slot lies. -/
def RouteRec.retRow (r : RouteRec) (i slot : Nat) : Nat := toAddr (r.ret + (4 * i + slot) * r.bytes)

/-- The translations that a route keeps: virtual pages, their frames, whether the leaf is global (21 R328, 08 R161). -/
abbrev Kept := List (Nat × Nat × Bool)

/-- Probes `n` elements of `e` bytes and adds their pages to the translations that the route keeps (21 R328). -/
def probeRun (acc : Access) (va e : Nat) : Nat → Kept → M Kept
  | 0, kept => pure kept
  | n + 1, kept => do
    let a : Word := BitVec.ofNat 64 va
    let loc ← locate a acc
    if regionOf loc = .control then trap 6 a
    let page := a.toNat / 65536
    let frame := loc - a.toNat % 65536
    let s ← get
    let kept := if localBase ≤ a.toNat || kept.any (·.1 == page) then kept else kept ++ [(page, frame, s.isGlobal a.toNat loc)]
    probeRun acc (va + e) e n kept

def probeRows (acc : Access) (r : RouteRec) (row : Nat → Nat) : List Nat → Kept → M Kept
  | [], kept => pure kept
  | i :: is, kept => do probeRows acc r row is (← probeRun acc (row i) 4 r.elems kept)

/-- Reads `n` elements of `e` bytes of a vector that the engine uses; poison is cause 13. -/
def useRun (va e : Nat) : Nat → M (List Nat)
  | 0 => pure []
  | n + 1 => do
    let a : Word := BitVec.ofNat 64 va
    awaitPillar false .virt a.toNat (a.toNat + e)
    let loc ← locate a .load
    let bs ← useBytes a (← modifyGet fun s => s.stripLoad s.h.strip .vector loc e)
    let xs ← useRun (va + e) e n
    pure (leNat bs :: xs)

/-- The hull of some rows of `n` bytes. -/
def rowsHull (n : Nat) (rows : List Nat) : Nat × Nat :=
  (rows.foldl min (2 ^ 64), rows.foldl (fun m a => max m (a + n)) 0)

/-- The generation of an entry's next use (21 R328). -/
def State.takeGen (s : State) (stop entry : Nat) : Nat × State :=
  let g := match s.routeGens.find? fun x => x.1 == stop && x.2.1 == entry with | some x => x.2.2 | none => 0
  (g, { s with routeGens := (stop, entry, (g + 1) % 2048) :: s.routeGens.filter fun x => !(x.1 == stop && x.2.1 == entry) })

/-- Entries of a core's reassembly table in use, ascending. -/
def State.usedTiles (s : State) (stop : Nat) : List Nat :=
  (s.routeTiles.filter (·.stop == stop)).foldl (fun is t => insertSorted is t.entry) []

/-- The first part of ROUTE: the record, the probe, the vectors, the Pillar entries and the table entry (21 R328); its name and its
handle. The source rows are read after every earlier access of the hart has performed, as a VPUSH reads (R330). -/
def beginRoute (ea : Word) : M (Nat × Word) := do
  if ea.toNat % 64 ≠ 0 then trap 2 ea
  let r := routeRec (← recordWords ea 8)
  if r.bad then trap 6 ea
  let all := List.range r.rows
  let kept ← probeRun .load ea.toNat 8 8 []
  let kept ← probeRun .load r.idsVa 1 (4 * r.rows) kept
  let kept ← probeRun .load r.weightsVa 4 (4 * r.rows) kept
  let kept ← probeRows .load r r.srcRow all kept
  let kept ← probeRows .store r r.outRow all kept
  let kept ← probeRun .store r.ret 4 (4 * r.rows * r.elems) kept
  let ids ← useRun r.idsVa 1 (4 * r.rows)
  let weights ← useRun r.weightsVa 4 (4 * r.rows)
  let s ← get
  let h := s.h
  let used := s.usedTiles h.stop
  if 32 ≤ used.length then trap 19 ea
  let (rlo, rhi) := rowsHull r.bytes (all.map r.srcRow)
  let (olo, ohi) := rowsHull r.bytes (all.map r.outRow)
  let wlo := min olo (toAddr r.ret)
  let whi := max ohi (toAddr r.ret + 4 * r.rows * r.bytes)
  let id := s.nextId
  let entryOf (write : Bool) (lo hi : Nat) : Pillar :=
    { id := id, stop := h.stop, owner := h.key, write := write, space := .virt, lo := lo, hi := hi }
  takePillars [entryOf false rlo rhi, entryOf true wlo whi]
  modify fun s => { s with nextId := id + 1 }
  let i ← choose (32 - used.length)
  let entry := nthFree used i
  let gen ← modifyGet fun s => s.takeGen h.stop entry
  let t : RouteTile :=
    { id := id, stop := h.stop, entry := entry, gen := gen, owner := h.key, level := h.level, asid := h.asid
      ptbase := h.ptbase, vpart := h.vpart, pre := h.preempting, record := r
      timer := if r.timeout = 0 then h.rtimeout.toNat else r.timeout
      left := if r.timeout = 0 then h.rtimeout.toNat else r.timeout
      kept := kept, expired := false, ids := ids, weights := weights
      slots := ids.map fun x => if x = 255 then .none else .pending
      status := .running, dropbits := 0, firstUnwritten := 0 }
  modHart Hart.settle
  modify fun s => { s with routeTiles := s.routeTiles ++ [t] }
  pure (id, t.handle)

/-- ROUTE (21 R328): it takes an entry, waits for its reservations and writes the handle, also when a handler has already taken
the status of the tile. -/
def execRoute (a b : SReg) : State → Host.Outcome State Fault Refusal := run do
  let (id, handle) ← match (← hart).doing with
    | some (.route id handle) => pure (id, handle)
    | _ => beginRoute (← rd b)
  begin (.route id handle)
  if (← get).routeTiles.any fun t => t.id == id && !t.accepted then stall
  wr a handle
  retire 4

/-! ### Reservation (21 R329) -/

/-- The lowest free row of an inbox. -/
def Target.freeRow (g : Target) : Option Nat := (List.range g.cap).find? fun q => g.rows.all (·.q != q)
/-- Whether a binding can take rows of a tile at all. -/
def Target.fits (g : Target) (t : RouteTile) : Bool := t.record.bytes ≤ g.rowBytes

/-- What one reservation step comes to. -/
inductive Step1 where
  | drop | wait | take (id q : Nat)
  deriving DecidableEq, Repr

/-- The binding of an id as a tile finds it: none where the id was refused to a member of its launch (22 R341, log 68). -/
def State.targetFor (s : State) (t : RouteTile) (id : Nat) : Option Target :=
  (s.target? (t.stop / 40) id).filter fun g => !g.refused.contains t.owner.lid

/-- The decision of a reservation step for target `id`. -/
def State.decide (s : State) (t : RouteTile) (id : Nat) : Step1 :=
  let seat (i : Nat) : Option Nat := match s.targetFor t i with
    | some g => if g.fits t then g.freeRow else none
    | none => none
  match s.targetFor t id with
  | none => .drop
  | some g =>
    if !g.fits t then .drop
    else match g.freeRow with
      | some q => .take id q
      | none =>
        if t.record.policy = 2 then .wait
        else if t.record.policy = 1 && t.record.fallback != 255 then
          match seat t.record.fallback with
          | some q => .take t.record.fallback q
          | none => .drop
        else .drop

/-- The first reservation that a tile still has to make. -/
def RouteTile.nextPending (t : RouteTile) : Option Nat := (List.range t.slots.length).find? fun i => t.slots[i]? == some .pending

/-- Whether the next reservation of a tile can be made now. -/
def State.canReserve (s : State) (t : RouteTile) : Bool :=
  match t.nextPending with
  | none => false
  | some i => s.decide t ((t.ids[i]?).getD 255) != .wait

/-- The tile of a hart whose next reservation can be made: the engine makes the reservations of a ROUTE that has begun, also
while the hart is in a handler or frozen (07 R139, log 42). -/
def State.routing (s : State) (h : Hart) : Option RouteTile :=
  s.routeTiles.find? fun t => t.owner == h.key && s.canReserve t

/-- Whether a row of an inbox belongs to a tile and has not been delivered. -/
def InboxRow.owedBy (r : InboxRow) (t : RouteTile) : Bool :=
  r.tileStop == t.stop && r.tileEntry == t.entry && r.tileGen == t.gen && !r.delivered

/-- Whether the engine has still to read source row `row` of a tile. -/
def State.unread (s : State) (t : RouteTile) (row : Nat) : Bool :=
  ([0, 1, 2, 3].any fun k => t.slots[4 * row + k]? == some .pending)
    || s.targets.any (·.rows.any fun r => r.owedBy t && r.row == row)

/-- The bytes of source row `row`. -/
def RouteTile.srcRange (t : RouteTile) (row : Nat) : Nat × Nat := (t.record.srcRow row, t.record.srcRow row + t.record.bytes)

/-- The read entry of a tile leaves out the rows that have been read (21 R330). -/
def State.trimRoute (s : State) (stop entry : Nat) : State :=
  match s.tile? stop entry with
  | none => s
  | some t =>
    let rows := List.range t.record.rows
    let left := (rows.filter (s.unread t)).map t.srcRange
    let gone := (rows.filter fun r => !s.unread t r).map t.srcRange
    let holes := gone.flatMap fun g => left.foldl (fun rs w => rs.flatMap (cutRange w)) [g]
    { s with pillars := s.pillars.map fun p => if p.id = t.id && !p.write then { p with holes := holes } else p }

/-- Makes the next reservation of a hart's ROUTE. -/
def State.reserveNext (s : State) (k : HKey) : State :=
  match (s.hartOf? k).bind s.routing with
  | none => s
  | some t =>
    match t.nextPending with
    | none => s
    | some i =>
      match s.decide t ((t.ids[i]?).getD 255) with
      | .wait => s
      | .drop => (s.onTile t.stop t.entry (·.setSlot i .dropped)).trimRoute t.stop t.entry
      | .take id q =>
        let row : InboxRow := ⟨q, t.stop, t.entry, t.gen, i / 4, i % 4, t.record.elems, false, false⟩
        (s.onTarget (t.stop / 40) id fun g => { g with rows := g.rows ++ [row] }).onTile t.stop t.entry
          (·.setSlot i (.reserved id q))
def execRouteReservation (k : HKey) (s : State) : Host.Outcome State Fault Refusal := .next (s.reserveNext k)

/-! ### The engine's accesses -/

/-- What the engine's accesses for a tile are made under. -/
def RouteTile.sp (t : RouteTile) : Space := ⟨t.level, t.asid, t.ptbase, t.stop, t.vpart, t.pre⟩

/-- Whether an access of the engine for a tile to a row waits for an older transfer of the hart (05 R85). -/
def State.routeHeld (s : State) (t : RouteTile) (write : Bool) (va : Nat) : Bool :=
  s.meets (s.olderPillars t.id) t.sp t.owner write .virt va (va + t.record.bytes)

/-- The location of an address of the tile, by the translations it keeps (21 R328). -/
def RouteTile.place (t : RouteTile) (va : Nat) : Nat :=
  if localBase ≤ va then
    match t.sp.local va with
    | .ok loc => loc
    | .error _ => 0
  else match t.kept.find? (·.1 == va / 65536) with
    | some p => p.2.1 + va % 65536
    | none => 0

/-- Copies `n` 4-byte elements with their marks; `put` writes one. -/
def State.copyElems (put : State → Nat → List Byte → Bool → State) (s : State) (src dst : Nat → Nat) (n : Nat) : State :=
  (List.range n).foldl (fun s j =>
    let (bs, t) := s.rawRead (src j) 4
    put t (dst j) bs (marked s.poison (src j) 4)) s

/-- Whether the engine still has a row of the tile to deliver, on time or late. -/
def State.owes (s : State) (t : RouteTile) : Bool := s.targets.any (·.rows.any (·.owedBy t))

/-- Delivery of a reserved row into its inbox (21 R330); a slot that has timed out is delivered all the same. -/
def State.deliverRow (s : State) (stop entry row slot : Nat) : State :=
  match s.tile? stop entry with
  | none => s
  | some t =>
    let mine (r : InboxRow) : Bool := r.owedBy t && r.row == row && r.slot == slot
    match s.targets.find? (·.rows.any mine) with
    | none => s
    | some g =>
      match g.rows.find? mine with
      | none => s
      | some r =>
        let copied := s.copyElems (fun s loc bs bad => s.rawWrite none loc bs bad)
          (fun j => t.place (t.record.srcRow row + 4 * j)) (fun j => g.base + r.q * g.rowBytes + 4 * j) t.record.elems
        (copied.onTarget g.die g.id fun g => { g with
          rows := g.rows.map fun x => if x.q = r.q then { x with delivered := true } else x }).trimRoute stop entry
def execRouteRowDelivery (stop entry row slot : Nat) (s : State) : Host.Outcome State Fault Refusal :=
  .next (s.deliverRow stop entry row slot)

/-! ### The target's side (21 R331, R332) -/

/-- The row handle (21 R331). -/
def InboxRow.handle (r : InboxRow) : Word :=
  BitVec.ofNat 64 (r.tileStop % 40 * 2 ^ 32 + (r.tileGen * 32 + r.tileEntry) * 2 ^ 16 + r.row * 2 ^ 10 + r.slot * 2 ^ 8 + r.q)

/-- RRECV (21 R331). -/
def execRrecv (a b : SReg) : State → Host.Outcome State Fault Refusal := run do
  let s ← get
  match s.targetOf s.h.key with
  | none => wr a (BitVec.allOnes 64)
  | some g =>
    match g.rows.find? (!·.received) with
    | none => if b ≠ 0 && (s.h.get b).getLsbD 0 then wr a (BitVec.allOnes 64) else stall
    | some r =>
      if !r.delivered then stall
      modify fun s => s.onTarget g.die g.id fun g => { g with
        rows := g.rows.map fun x => if x.q = r.q then { x with received := true } else x }
      modHart Hart.acquire
      wr a r.handle
  retire 4

/-- The elements of a returned row: locations, in order (21 R332). -/
def locateRow (va : Word) : Nat → M (List Nat)
  | 0 => pure []
  | n + 1 => do
    let loc ← locate va .load
    if regionOf loc = .control then trap 6 va
    awaitPillar false .virt va.toNat (va.toNat + 4)
    let rest ← locateRow (va + 4) n
    pure (loc :: rest)

/-- RRET (21 R332): the router's table judges the return. The copy into the return buffer is an access of the router's route, which
waits for older transfers of the router (05 R85). -/
def execRret (a b c : SReg) : State → Host.Outcome State Fault Refusal := run do
  let hd ← rd b
  let va ← rd c
  if va.toNat % 4 ≠ 0 then trap 2 va
  let s ← get
  let held := (s.targetOf s.h.key).bind fun g => (g.rows.find? fun r => r.handle == hd).map fun r => (g, r)
  match held with
  | none => wr a 2
  | some (g, r) =>
    release
    let locs ← locateRow va r.elems
    let i := 4 * r.row + r.slot
    let tile := ((← get).tile? r.tileStop r.tileEntry).filter fun t => t.gen == r.tileGen
    let free (s : State) : State := s.onTarget g.die g.id fun g => { g with rows := g.rows.filter (·.q != r.q) }
    match tile with
    | some t =>
      if t.status == .running && ((t.slots[i]?).getD .none).isReserved then
        let ret := t.record.retRow r.row r.slot
        if (← get).routeHeld t true ret then stall
        modify fun s => (free (s.copyElems (fun s loc bs bad => s.engineStore t.owner loc bs bad) (fun j => (locs[j]?).getD 0)
          (fun j => t.place (ret + 4 * j)) r.elems)).onTile t.stop t.entry (·.setSlot i .returned)
        wr a 0
      else
        modify free
        wr a 1
    | none =>
      modify free
      wr a 1
  retire 4

/-! ### Reassembly (21 R333, R334, R338) -/

/-- One output element: the delivered slots' products, added in slot order, rounded to FP32 (21 R333). -/
def weightedSum (ps : List (Nat × Nat)) : Option Nat :=
  ps.foldl (fun acc p =>
    let v := (mulOf (fp32.value p.1) (fp32.value p.2)).1
    let sum := match acc with
      | none => v
      | some x => (sumOf false [fp32.value x, v]).1
    some (fp32.fit .rne false 0 sum).bits) none

/-- The delivered slots of a row. -/
def RouteTile.deliveredOf (t : RouteTile) (row : Nat) : List Nat :=
  [0, 1, 2, 3].filter fun s => t.slots[4 * row + s]? == some .returned

/-- Whether row `row` would consume poisoned return data. -/
def State.rowPoisoned (s : State) (t : RouteTile) (row : Nat) : Bool :=
  (t.deliveredOf row).any fun k => (List.range t.record.elems).any fun j =>
    marked s.poison (t.place (t.record.retRow row k + 4 * j)) 4

/-- The returned elements `j` of some slots of a row, with the weights of the slots. -/
def State.returned (s : State) (t : RouteTile) (row j : Nat) : List Nat → List (Nat × Nat) × State
  | [] => ([], s)
  | k :: ks =>
    let (bs, s) := s.rawRead (t.place (t.record.retRow row k + 4 * j)) 4
    let (ps, s) := s.returned t row j ks
    (((t.weights[4 * row + k]?).getD 0, leNat bs) :: ps, s)

/-- The output elements of a row from element `j` on: all are formed before any is written (21 R333). -/
def State.rowSums (s : State) (t : RouteTile) (row j : Nat) : Nat → List Nat × State
  | 0 => ([], s)
  | n + 1 =>
    let (ps, s) := s.returned t row j (t.deliveredOf row)
    let (vs, s) := s.rowSums t row (j + 1) n
    ((weightedSum ps).getD 0 :: vs, s)

/-- Writes one output row. -/
def State.writeRow (s : State) (t : RouteTile) (row : Nat) : State :=
  let (vs, s) := s.rowSums t row 0 t.record.elems
  (List.range t.record.elems).zip vs |>.foldl (fun s p =>
    s.engineStore t.owner (t.place (t.record.outRow row + 4 * p.1)) (leBytes 4 p.2)) s

/-- Writes the rows of a tile in order: the rows left when one meets poison. -/
def State.writeRows (s : State) (t : RouteTile) : List Nat → State × List Nat
  | [] => (s, [])
  | r :: rs => if s.rowPoisoned t r then (s, r :: rs) else (s.writeRow t r).writeRows t rs

/-- Whether the tile raises cause 20 when it times out, instead of a lamp (21 R335). -/
def RouteTile.trapsLate (t : RouteTile) : Bool := t.record.flags / 2 % 2 == 1

/-- Reassembly: the output, the status, the Pillar entries, then the lamp or the cause 18 that is due (21 R334, R335, R338). -/
def State.reassemble (s : State) (stop entry : Nat) : State :=
  match s.tile? stop entry with
  | none => s
  | some t =>
    let late := t.slots.contains .late
    let drops := (List.range t.record.rows).foldl (fun m r => if (t.deliveredOf r).isEmpty then m + 2 ^ r else m) 0
    match s.writeRows t (List.range t.record.rows) with
    | (s, []) =>
      let s := (s.onTile stop entry fun x => { x with status := if late then .partly else .done, dropbits := drops }).freePillars t.id
      if t.record.flags % 2 = 1 && !(late && t.trapsLate) then s.onKey t.owner (·.addLamp ⟨true, t.handle⟩) else s
    | (s, f :: _) =>
      let s := (s.onTile stop entry fun x => { x with status := .fault, dropbits := drops % 2 ^ f, firstUnwritten := f }).freePillars t.id
      s.onKey t.owner fun h => { h with faults := h.faults ++ [t.handle] }
def execReassembly (stop entry : Nat) (s : State) : Host.Outcome State Fault Refusal := .next (s.reassemble stop entry)

/-- What is not delivered when the timer expires is late (21 R335). -/
def RouteTile.expire (t : RouteTile) : RouteTile :=
  { t with expired := true, slots := t.slots.map fun x => if x.isReserved then .late else x }

/-- The timer of a tile expires. With flag [1] a tile that is then late makes cause 20 due to its hart (21 R335, 08 R156). -/
def State.timeOut (s : State) (stop entry : Nat) : State :=
  match s.tile? stop entry with
  | none => s
  | some t =>
    let u := s.onTile stop entry RouteTile.expire
    if t.trapsLate && t.expire.slots.contains .late then
      u.onKey t.owner fun h => { h with timeouts := h.timeouts ++ [t.handle] }
    else u
def execRouteTimeout (stop entry : Nat) (s : State) : Host.Outcome State Fault Refusal := .next (s.timeOut stop entry)

/-! ### Completion and status (21 R336, R337) -/

/-- RWAIT (21 R336). -/
def execRwait (a b : SReg) : State → Host.Outcome State Fault Refusal := run do
  closeStrip
  let s ← get
  match s.tileOf s.h.stop (s.h.get b) with
  | none => wr a 15
  | some t =>
    if t.status == .running then stall
    modHart Hart.acquire
    modify fun s => { s with routeTiles := s.routeTiles.filter (·.id != t.id) }
    wr a t.word
  retire 4

/-- RSTAT (21 R337). How many cycles are left while the timer runs is open, but it never rises (log 11). -/
def execRstat (a b c : SReg) : State → Host.Outcome State Fault Refusal := run do
  let s ← get
  let t := s.tileOf s.h.stop (s.h.get b)
  let sel := (s.h.get c).toNat
  match t with
  | none => wr a (if sel = 0 then 15 else 0)
  | some t =>
    if sel = 0 then
      if t.status != .running then modHart Hart.acquire
      wr a t.word
    else if sel = 1 then wr a (BitVec.ofNat 64 t.dropbits)
    else if sel = 2 then wr a (BitVec.ofNat 64 t.firstUnwritten)
    else if sel = 3 && t.left ≠ 0 && !t.expired && t.status == .running then
      let left := 1 + (← choose t.left)
      modify fun s => s.onTile t.stop t.entry fun x => { x with left := left }
      wr a (BitVec.ofNat 64 left)
    else wr a 0
  retire 4

/-- The tiles of a hart that retires are given up (21 R334). -/
def State.dropTiles (s : State) (k : HKey) : State := { s with routeTiles := s.routeTiles.filter (·.owner != k) }

end Sys2Proof.Machine
end

