-- ==== Sys2Proof/Machine/Retire.lean ====
section
/-! DEFINITION. Retiring (07 R129). -/
namespace Sys2Proof.Machine

/-- RETIRE waits; the hart goes with HART_RETIREMENT. -/
def execRetire : State → Host.Outcome State Fault Refusal := run do
  closeStrip
  modHart fun h => { h with retiring := true }
  stall

/-- Whether what a retiring hart waits for has come about: its transfers have ended, and every push from it or into it has
been delivered. -/
def State.drained (s : State) (k : HKey) : Bool :=
  s.pillars.all (·.owner != k) && s.streams.all (fun t => t.owner != k || t.faulted) && s.finals.all (·.owner != k)
    && s.routeTiles.all (fun t => t.owner != k || t.status != .running)
    && s.pushes.all (fun p => p.owner != k && p.dest != some k)

/-- The device without a hart. -/
def State.remove (s : State) (k : HKey) : State :=
  { s with
    h := if s.h.live && s.h.key == k then { s.h with live := false } else s.h
    others := s.others.filter (·.key != k) }

/-- The farms that a hart declared end (07 R132). -/
def State.endFarms (s : State) (k : HKey) : State := (s.farms.filter (·.owner == k)).foldl State.endFarm s

/-- What a hart does when it retires (07 R129). -/
def State.retireHart (s : State) (k : HKey) : State :=
  match s.hartOf? k with
  | none => s
  | some h =>
    if h.retiring && s.drained k then
      let s := s.endFarms k
      let s := s.releaseMatrix h.stop k
      let s := (s.unbindTarget k).dropStreams k
      ((s.dropTiles k).remove k).memberGone k false
    else s

def execHartRetirement (k : HKey) (s : State) : Host.Outcome State Fault Refusal := .next (s.retireHart k)

end Sys2Proof.Machine
end

