-- ==== Sys2Proof/Machine/Device.lean ====
section
/-! DEFINITION. Events of the device and of the host: errors, debug, Assay, mesh, links, memory accesses of the host,
attestation, power and bring-up (08 R165 to R168; 23 R344 to R353; 24 R354 to R364). -/
namespace Sys2Proof.Machine

/-! ### Errors (08 R165, 23 R344) -/

/-- A counter that saturates (24 R354). -/
def bump (w : Word) (n : Nat) : Word := if w.toNat + n < 2 ^ 64 then w + BitVec.ofNat 64 n else BitVec.allOnes 64

/-- Counts an error of a core. -/
def State.countCore (s : State) (stop : Nat) (correctable : Bool) : State :=
  let c := s.core stop
  s.setCore (if correctable then { c with corrected := bump c.corrected 1 } else { c with uncorrectable := bump c.uncorrectable 1 })

/-- The stack that holds a device-memory address (23 R342): die, then a[7]. -/
def stackOf (pa : Nat) : Nat := 2 * homeDie pa + pa / 128 % 2
/-- Counts an error of a stack. -/
def State.countStack (s : State) (k : Nat) (correctable : Bool) : State :=
  let c := (s.hbm[k]?).getD (0, 0)
  { s with hbm := s.hbm.set! k (if correctable then (bump c.1 1, c.2) else (c.1, bump c.2 1)) }

/-- An error in the word that holds a location of physical memory, where SECDED covers it: counted, and marked when it
cannot be corrected. -/
def State.memError (s : State) (pa : Nat) (correctable : Bool) : State :=
  let t := if correctable then s else
    { s with poison := insertSorted s.poison (pa / 8) }.onAll (·.pinStrip (pa / 8 * 8) 8 true)
  match regionOf pa with
  | .device => t.countStack (stackOf pa) correctable
  | .scratch => t.countCore ((pa - 0xF000000000000) / 0x400000) correctable
  | _ => s

def State.softError (s : State) (place : ErrPlace) (correctable : Bool) : State :=
  match place with
  | .mem pa => s.memError pa correctable
  | .reg stop lane off =>
    let t := if correctable then s else { s with regPoison := insertSorted s.regPoison (regLoc stop lane off / 8) }
    t.countCore stop correctable
def execSoftError (place : ErrPlace) (correctable : Bool) (s : State) : Host.Outcome State Fault Refusal :=
  .next (s.softError place correctable)

/-- The patrol scrubber reads a word of HBM; `err` is what it finds there (23 R344). -/
def execPatrolScrub (pa : Nat) (err : Option Bool) (s : State) : Host.Outcome State Fault Refusal :=
  .next (match err with
    | some c => if regionOf pa = .device then s.memError pa c else s
    | none => s)

/-! ### The loss of a core (08 R166) -/

/-- The survivors of the gangs that lost a member are told. -/
def State.tellGangs (s : State) (stop : Nat) (lids : List (BitVec 32)) : State :=
  s.onAll fun h => if h.gang && lids.contains h.key.lid then { h with gangLost := h.gangLost ++ [stop] } else h

/-- A hart that is lost with its core. -/
def State.lose (s : State) (h : Hart) : State :=
  ((s.unbindTarget h.key).remove h.key).memberGone h.key true

/-- Rows that a lost router placed in inboxes are taken out. -/
def Target.without (g : Target) (stop : Nat) : Target := { g with rows := g.rows.filter (·.tileStop != stop) }

/-- An uncorrectable error of a core. -/
def State.coreError (s : State) (stop : Nat) : State :=
  let lost := s.harts.filter (·.stop == stop)
  let keys : List HKey := lost.map fun h : Hart => h.key
  let s := (s.farms.filter (·.stop == stop)).foldl State.endFarm s
  let s := lost.foldl State.lose s
  let s := { s with
    streams := s.streams.filter (·.stop != stop)
    orphans := s.orphans ++ s.streams.filter fun t : Stream => t.stop == stop && t.faulted
    finals := s.finals.filter (·.stop != stop)
    ring := s.ring.filter fun m : RingMsg => !m.queuedAt stop && !keys.any m.asks
    icaches := s.icaches.filter (·.1 != stop)
    routeTiles := s.routeTiles.filter (·.stop != stop)
    targets := s.targets.map fun g : Target => g.without stop
    pillars := s.pillars.filter (·.stop != stop)
    pushes := s.pushes.filter fun p => p.stop != stop && !(match p.dest with | some k => keys.contains k | none => false)
    matrices := s.matrices.filter (·.stop != stop)
    failed := insertSorted s.failed stop }
  s.tellGangs stop (keys.map fun k : HKey => k.lid)
def execCoreError (stop : Nat) (s : State) : Host.Outcome State Fault Refusal := .next (s.coreError stop)

/-- The host resets a failed core. -/
def execCoreReset (stop : Nat) (s : State) : Host.Outcome State Fault Refusal :=
  .next { s with failed := s.failed.filter (· != stop) }

/-! ### Debug (08 R167, R168) -/

def execDbgHaltreq (stop : Nat) (v : Word) (s : State) : Host.Outcome State Fault Refusal :=
  .next (s.debugControl stop ((v ||| 1) &&& ~~~2))
def execDbgGoreq (stop : Nat) (v : Word) (s : State) : Host.Outcome State Fault Refusal :=
  .next (s.debugControl stop ((v ||| 2) &&& ~~~1))
/-- The host's access of DBGDATA: a write, or a read. -/
def execDbgdata (stop : Nat) (write : Option Word) (s : State) : Host.Outcome State Fault Refusal :=
  .next (match write with
    | some v => s.debugWrite stop v
    | none => { s with hostData := s.debugRead stop })

/-! ### Assay, mesh, links (23 R346, R350, R353) -/

def execAssayctlClose (s : State) : Host.Outcome State Fault Refusal := .next s.assayClose.2

/-- The close that is being hashed becomes final; a held one starts (23 R350). -/
def State.assayFinish (s : State) : State :=
  match s.assay.busy with
  | none => s
  | some m =>
    let held := s.assay.held
    let t := { s with assay := { s.assay with final := m, epoch := s.assay.epoch + 1, hashed := true, busy := none, held := false } }
    if held then t.assayStart else t
def execAssayRehashDone (s : State) : Host.Outcome State Fault Refusal := .next s.assayFinish

/-- NETTHR after a window of the mesh monitor in which the busiest link carried `lmax` flits and the mean was `lmean`
(23 R346). -/
def meshWindow (n : Word) (lmax lmean : Nat) : Word :=
  let thr := n.toNat % 65536
  if n.toNat / 65536 % 4 ≠ 0 then n
  else if thr < lmax - lmean then n ||| 0x80000000
  else if 2 * (lmax - lmean) ≤ thr then n &&& ~~~0x80000000
  else n
def execMeshMonitorWindow (die lmax lmean : Nat) (s : State) : Host.Outcome State Fault Refusal :=
  .next (s.onDie die fun d => { d with netthr := meshWindow d.netthr lmax lmean })

def execLinkDown (j : Nat) (s : State) : Host.Outcome State Fault Refusal :=
  .next { s with links := s.links.set! j { s.link j with up := false } }

/-- Pushes accepted toward a node. -/
def State.pushesTo (s : State) (node : Nat) : List Push := s.pushes.filter fun p => p.dest.isNone && p.node == node

/-- A link returns: what was accepted before it went down is delivered. -/
def State.linkUp (s : State) (j : Nat) : State :=
  let t := { s with links := s.links.set! j { s.link j with up := true } }
  (t.pushesTo (s.link j).node).foldl (fun t p => t.deliver p.id) t
def execLinkUp (j : Nat) (s : State) : Host.Outcome State Fault Refusal := .next (s.linkUp j)

/-- A removed node: pushes toward it are discarded, and the loss counter of each link to it records them (23 R353). -/
def State.removeNode (s : State) (node : Nat) : State :=
  let gone := s.pushesTo node
  let t := gone.foldl (fun t p => t.freePillars p.id) s
  { t with
    pushes := t.pushes.filter fun p => !(p.dest.isNone && p.node == node)
    links := t.links.map fun l => if l.node == node then { l with node := 0, up := false, loss := bump l.loss gone.length } else l }
def execNodeRemoval (node : Nat) (s : State) : Host.Outcome State Fault Refusal := .next (s.removeNode node)

/-! ### Outside observers (24 R354 to R358, 23 R352) -/

/-- Whether a control register is a counter that writing 0 clears. -/
def Ctl.isCounter : Ctl → Bool
  | .coreCount .. | .stackCount .. | .linkLoss _ => true
  | _ => false

def execCounterClear (pa : Nat) (s : State) : Host.Outcome State Fault Refusal :=
  .next (match ctlOf pa with
    | some c => if c.isCounter then s.ctlWrite 0 c else s
    | none => s)

/-- DEVSTAT.READY (24 R364). -/
def State.ready (s : State) : Bool := s.devstat.getLsbD 0

/-- The bytes of some control registers, 0 where there is none. -/
def State.barBytes (s : State) : List Nat → List Byte × State
  | [] => ([], s)
  | w :: ws =>
    let (v, t) := s.ctlLoad (8 * w)
    let (bs, t) := t.barBytes ws
    (leBytes 8 (v.getD 0).toNat ++ bs, t)

/-- Writes the bytes `bs` at `pa` into the control register that word `w` is, which keeps its other bytes. -/
def State.barPut (pa : Nat) (bs : List Byte) (s : State) (w : Nat) : State :=
  match ctlOf (8 * w) with
  | none => s
  | some c =>
    let (old, t) := if fillsWord pa bs.length w then ([], s) else s.barBytes [w]
    t.ctlWrite (BitVec.ofNat 64 (leNat ((List.range 8).map fun k =>
      let a := 8 * w + k
      if pa ≤ a && a < pa + bs.length then (bs[a - pa]?).getD 0 else (old[k]?).getD 0))) c

/-- An access of the control space through BAR 2 (24 R355). The spec does not give the size of a host access: one that does not
fill a register reads, or writes, its bytes of it (DESIGN CHOICE, log 50). -/
def State.barAccess (s : State) (pa n : Nat) (write : Option Word) : State :=
  match write with
  | some v => (wordsAt pa n).foldl (State.barPut pa (leBytes n v.toNat)) s
  | none =>
    let (bs, t) := s.barBytes (wordsAt pa n)
    { t with hostData := BitVec.ofNat 64 (leNat ((bs.drop (pa % 8)).take n)) }

/-- An access from outside to a location. Once the write has performed, no load returns an older value, so no hart keeps its
line (24 R357). -/
def State.outsideAccess (s : State) (loc n : Nat) (write : Option Word) : State :=
  match write with
  | some v => (s.storeNat none loc n v.toNat).onAll (·.forgetLines loc n)
  | none => { s with hostData := BitVec.ofNat 64 (s.mem.readNat loc n) }

/-- The device physical address behind a host physical address of the committed HDM range (24 R356). -/
def State.hdmPlace (s : State) (a n : Nat) : Option Nat :=
  s.hdm.bind fun base => if base ≤ a && a + n ≤ base + 0x8000000000 then some (a - base) else none

/-- An access of the host to `n` bytes at a host physical address: device memory through CXL.mem, held until READY; the control
space through BAR 2; or the host's own memory, which the device reaches behind 0x1_0000_0000_0000 (24 R355 to R357, 05 R76). -/
def State.hostAccess (s : State) (a n : Nat) (write : Option Word) : State :=
  match s.hdmPlace a n with
  | some pa => if s.ready then s.outsideAccess pa n write else s
  | none =>
    if Config.barBase ≤ a && a + n ≤ Config.barBase + 0x1000000 then s.barAccess (0xF000028000000 + (a - Config.barBase)) n write
    else if a + n ≤ 0xE000000000000 then s.outsideAccess (0x1000000000000 + a) n write
    else s

/-- An access of another package to a scratchpad of this one, through its link window (23 R352, log 20). -/
def State.linkAccess (s : State) (node pa n : Nat) (write : Option Word) : State :=
  if s.reaches node && regionOf pa == .scratch && regionOf (pa + n - 1) == .scratch then s.outsideAccess pa n write else s

/-- An access from outside the package (24 R357, 23 R352). -/
def execHostMemAccess (pa n : Nat) (write : Option Word) (s : State) : Host.Outcome State Fault Refusal :=
  .next (match s.outside with
    | some (.access j) => s.linkAccess j pa n write
    | _ => s.hostAccess pa n write)

/-! ### Attestation (24 R360, R361) -/

def State.answer (s : State) (m : Spdm) : State := { s with spdm := some m }

def execGetVersion (s : State) : Host.Outcome State Fault Refusal := .next (s.answer (.version 1 3))
def execGetCapabilities (s : State) : Host.Outcome State Fault Refusal := .next (s.answer .capabilities)
def execNegotiateAlgorithms (s : State) : Host.Outcome State Fault Refusal :=
  .next (s.answer (.algorithms "Ed25519" "SHA-512"))
def execGetDigests (s : State) : Host.Outcome State Fault Refusal := .next (s.answer (.digests (sha512 Config.certificateChain)))
def execGetCertificate (s : State) : Host.Outcome State Fault Refusal :=
  .next (s.answer (.certificate Config.certificateChain))
def execChallenge (nonce : Word) (s : State) : Host.Outcome State Fault Refusal :=
  .next (s.answer (.challengeAuth (Config.challengeSignature nonce)))

/-- A field of the firmware image: `n` bytes from `off`. -/
def imageBytes (off n : Nat) : List Byte := (Config.firmwareImage.drop off).take n
def imageNat (off n : Nat) : Nat := leNat (imageBytes off n)
/-- The body length of the image, and its body (24 R360). -/
def imageBody : List Byte := imageBytes 160 (imageNat 16 8)
/-- SHA-512 of header bytes 0 to 31 followed by the body (24 R360). -/
def imageDigest : BitVec 512 := sha512 (imageBytes 0 32 ++ imageBody)
/-- Whether each field of the header lies within its limits (24 R360). -/
def imageFieldsOk : Bool :=
  imageBytes 0 4 == [0x4F, 0x4E, 0x46, 0x57] && imageNat 4 4 == 1 && imageNat 8 4 ≤ 63 && imageNat 12 4 == 0
    && 1 ≤ imageNat 16 8 && imageNat 16 8 ≤ 2 ^ 26 && imageNat 24 8 == 0 && imageBody.length == imageNat 16 8
/-- Every check of the boot ROM, for a minimum security version (24 R360). -/
def imageAccepted (minimum : Nat) : Bool :=
  imageFieldsOk && BitVec.ofNat 512 (imageNat 32 64) == imageDigest
    && Config.ed25519Verify imageDigest (BitVec.ofNat 512 (imageNat 96 64)) && minimum ≤ imageNat 8 4

/-- The SHA-512 measurement of an index: the boot ROM, the firmware image's digest, the supervisor image (24 R361). -/
def measurement (index : Nat) : Option (BitVec 512) :=
  match index with
  | 1 => some (sha512 Config.bootRom)
  | 2 => some imageDigest
  | 3 => some (sha512 (Config.supervisorImage.map (·.2)))
  | _ => none

/-- Indices 1 to 3; another index has no measurement, and no answer stands. -/
def execGetMeasurements (index : Nat) (s : State) : Host.Outcome State Fault Refusal :=
  .next { s with spdm := (measurement index).map .measurements }

def execSecurityVersionWrite (v : Word) (s : State) : Host.Outcome State Fault Refusal := .next (s.writeSecver v)

/-! ### Power (24 R362, R363) -/

def execPowerModeWrite (v : Word) (s : State) : Host.Outcome State Fault Refusal := .next (s.writePowerctl v)

/-- A mode in force with its clock floor. -/
def State.setMode (s : State) (m : Nat) : State := { s with powerAct := m, powerFloor := modeFloor m, powerPending := false }

/-- A grant boundary: a mode that was written takes effect (24 R363); the power of the last grant, and whether the cap is met
at the floor, are open (24 R362, log 17). -/
def State.grant (s : State) : State :=
  let t := s.setMode (if s.therm then 2 else s.powerMode)
  { t with tick := t.tick + 1, powerOver := Config.free t.tick % 2 == 1, powerWatts := BitVec.ofNat 16 (Config.free t.tick / 2) }
def execPowerGrant (s : State) : Host.Outcome State Fault Refusal := .next s.grant
def execThermalHold (s : State) : Host.Outcome State Fault Refusal := .next { s.setMode 2 with therm := true }
def execThermalRelease (s : State) : Host.Outcome State Fault Refusal := .next { s.setMode s.powerMode with therm := false }

/-! ### Bring-up (24 R360, R364) -/

/-- VPART with its first cluster a multiple of the cluster count (09 R169), so that the lanes lie in the core (02 R20). -/
def alignVpart (v : Word) : Word :=
  let size := 2 ^ (v.toNat / 2 ^ 40 % 4)
  (v &&& ~~~0x700000000) ||| BitVec.ofNat 64 (v.toNat / 2 ^ 32 % 8 / size * size * 2 ^ 32)

/-- The steward hart of a die (log 14). -/
def steward (die : Nat) : Hart :=
  let seat := Config.stewardSeat die
  { live := true
    key := ⟨0xFFFFFFFF, BitVec.ofNat 16 die⟩
    stop := 40 * die + seat.1 % 40
    slot := seat.2.1 % 8
    prio := 255
    pc := Config.stewardEntry die
    vpart := alignVpart (seat.2.2 &&& 0xFFFF03071FFF1FFF)
    ptbase := Config.stewardPtbase die &&& 0xFFFFFFFFFF000 }

/-- Firmware places the supervisor image in device memory: its writes mark their pages dirty (23 R349). -/
def State.placeImage (s : State) : State :=
  Config.supervisorImage.foldl
    (fun s c => if c.1 < 0x8000000000 then ({ s with mem := s.mem.write c.1 c.2 } : State).markDirty c.1 1 else s) s

/-- The host's own memory, which a reset of the device leaves alone. -/
def Memory.hostPart (m : Memory) : Memory := ⟨m.cells.filter fun c => 0x1000000000000 ≤ c.1 && c.1 < 0xF000000000000⟩

/-- What outlives a reset: the security version, what the host holds, and the model's own bookkeeping. -/
def State.fresh (s : State) : State :=
  { State.reset with
    secver := s.secver
    mem := s.mem.hostPart
    inputs := s.inputs
    tick := s.tick
    nextId := s.nextId
    hostData := s.hostData }

/-- Power-good starts bring-up anew: the boot ROM checks the image (24 R360, R364). -/
def State.bootCheck (s : State) : State :=
  let t := s.fresh
  if imageAccepted t.secver.toNat then { t with bringUp := some .links } else { t with devstat := 2 }

/-- The later steps of bring-up (24 R364): firmware trains the links and the host commits its decoder; memory is set to zero;
SVEC and the stewards are set, with the supervisor image. Between two steps other things may happen. -/
def State.bringUpStep (s : State) : BringUp → State
  | .links => { s with
      links := Vector.ofFn fun j : Fin 12 => ⟨Config.linkTrained j, Config.linkNode j % 256, 0⟩
      hdm := some Config.hdmBase
      bringUp := some .memory }
  | .memory => { s with
      mem := s.mem.erase (· < 0x8000000000)
      poison := s.poison.filter (0x8000000000 ≤ 8 * ·)
      cores := s.cores.map fun c => { c with corrected := 0, uncorrectable := 0 }
      hbm := Vector.replicate 8 (0, 0)
      links := s.links.map fun l => { l with loss := 0 }
      assay := {}
      devstat := 4
      bringUp := some .stewards }
  | .stewards =>
    let s := s.placeImage
    { s with
      dies := Vector.ofFn fun d : Fin 4 => { s.die d with svec := Config.supervisorVector d, pmin := 255 }
      others := s.others ++ (List.range 4).map steward
      devstat := 5
      bringUp := none }

/-- Power-good from outside, or the step of bring-up that is due; with none due, as at reset, it is power-good. -/
def State.powerGood (s : State) : State :=
  match s.bringUp with
  | none => s.bootCheck
  | some b => if s.outside = some .power then s.bootCheck else s.bringUpStep b
def execPowerGood (s : State) : Host.Outcome State Fault Refusal := .next s.powerGood

end Sys2Proof.Machine
end

