-- ==== Sys2Proof/Machine/Agenda.lean ====
section
/-! DEFINITION. What may move next: the harts that can run, the engines, the schedulers, the rings and what comes from
outside; one of them is chosen freely (log 4). -/
namespace Sys2Proof.Machine

/-! ### Boundaries (08 R159) -/

/-- What a hart takes at a boundary before it issues its next instruction. -/
inductive Due where
  | event (e : Event)
  | evict
  deriving DecidableEq, Repr

/-- The first event that is due at a hart's boundary, in the order of R159. An instruction that waits is the next one of its
hart (R151), so it is such a boundary as well (log 38): a lamp that can be delivered while MWAIT waits is delivered first, and
MWAIT waits anew after UIRET; it wakes with code 3 only while delivery is held back (06 R119; DEDUCED, log 47). -/
def Hart.due (h : Hart) : Option Due :=
  if h.haltReq && !h.halted then some (.event (.debugHalt h.key))
  else if !h.canTrap then none
  else if !h.gangLost.isEmpty then some (.event (.gangLost h.key))
  else if !h.faults.isEmpty then some (.event (.engineFault h.key))
  else if !h.timeouts.isEmpty then some (.event (.routeTimeoutTrap h.key))
  else if h.stepDue then some (.event (.debugSingleStep h.key))
  else if h.evict.isSome then some .evict
  else if h.lampDue then some (.event (.lampDelivery h.key))
  else none

/-! ### Events inside the device -/

/-- What the stream engine can do next with a stream (19 R302, R310, R314, R315). -/
def streamNext (t : Stream) : List Event :=
  if t.faulted then []
  else if t.error.isSome then [.streamFault t.id]
  else if !t.started then (if t.preds.isEmpty then [.streamStart t.id] else [])
  else if t.ending.isSome || t.exhausted then [.streamCompletion t.id]
  else [.streamElement t.id]

/-- The stream engine: what is next of each stream that waits for no older transfer, and the completion words due. -/
def State.streamEvents (s : State) : List Event :=
  (s.streams.filter fun t => t.error.isSome || !s.holdsBack t).flatMap streamNext ++ s.finals.map (.streamCompletion ·.id)

/-- Whether an older push of the same hart into registers of this package has still to be delivered (05 R92). -/
def State.pushBehind (s : State) (p : Push) : Bool :=
  (s.pushes.takeWhile (·.id != p.id)).any fun q => q.owner == p.owner && q.dest.isSome

/-- Deliveries of pushes; one toward a node waits until a link reaches it (23 R353). -/
def State.pushEvents (s : State) : List Event :=
  (s.pushes.filter fun p => (p.dest.isSome || s.reaches p.node) && !s.pushBehind p).map fun p => .vpushDelivery p.id

/-- Cores at which a hart waits for matrix state that is free (13 R239). -/
def State.matrixEvents (s : State) : List Event :=
  let stops := (s.harts.filter (·.claimAt.isSome)).foldl (fun l h => insertSorted l h.stop) []
  (stops.filter fun t => (s.matrix t).holder.isNone && (s.firstClaimant t).isSome).map .matrixStateGrant

/-- Tile transfers whose last row performs (13 R253). -/
def State.tileEvents (s : State) : List Event :=
  (s.pillars.filter fun p => s.isTileEntry p && !p.running).map fun p => .tileTransferComplete p.id

/-- Launches for which a hart has surrendered its slot, which pre-empt there also when another launch comes before them by now
(07 R140). -/
def State.askers (s : State) (die : Nat) : List (BitVec 32) :=
  (s.launches.filter fun l => l.die == die && l.st == .ready
    && s.harts.any fun h => h.saved && h.asked == some l.lid && (s.slotHolder h.stop).isNone).map Launch.lid

/-- The placer of a die (07 R137 to R140). -/
def State.placeNext (s : State) (die : Nat) : List Event :=
  match s.nextLaunch die with
  | none => []
  | some l =>
    if (s.askedCandidate l).isSome && (s.plan l .slots).isSome then [.preEmption l.lid]
    else if (s.plan l .room).isSome then [.placement l.lid]
    else if (s.plan l .slots).isSome then [.preEmption l.lid]
    else match s.plan l .held with
      | none => []
      | some (_, stops) =>
        (stops.filter fun t => match s.slotHolder t with
          | some h => h.evict.isNone && h.asked.isNone
          | none => false).map (.slotEviction · l.lid)

def State.placeEvents (s : State) (die : Nat) : List Event :=
  s.placeNext die ++ (s.askers die).filterMap fun lid => match s.launchOf lid with
    | some l =>
      if some l != s.nextLaunch die && (s.askedCandidate l).isSome && (s.plan l .slots).isSome then some (.preEmption lid) else none
    | none => none

/-- Whether the launch that asked a saved hart for its slot still waits to pre-empt there. -/
def State.askerWaits (s : State) (h : Hart) : Bool :=
  match h.asked with
  | none => false
  | some lid => match s.launchOf lid with
    | some l => l.st == .ready && s.mayPreempt l && !(({ s with pushes := [] }).candidatesAt l false h.stop).isEmpty
    | none => false

/-- Whether the slot of a saved hart's core is kept from it: a launch to which some hart surrendered it still waits
(07 R140), or another such hart for a push accepted into its registers (09 R198). -/
def State.slotOwed (s : State) (h : Hart) : Bool :=
  (s.residents h.stop).any fun o => o.saved && (s.askerWaits o || o.key != h.key && s.pushes.any (·.dest == some o.key))

/-- Saved harts whose slot is free, and cores whose frozen harts may go on (07 R140, R141). -/
def State.slotEvents (s : State) : List Event :=
  (s.harts.filter fun h => h.saved && (s.slotHolder h.stop).isNone && !s.slotOwed h).map
      (.savedHartReplacement ·.key)
    ++ (s.harts.filter s.released).map (.victimResume ·.stop)

/-- Launches: ready, complete, past a barrier or a convoy (07 R124, R129, R136, R144). -/
def State.launchEvents (s : State) : List Event :=
  s.launches.flatMap fun l =>
    match l.st with
    | .free => []
    | .waiting => if s.eligible l then [.launchReady l.lid] else []
    | .draining => [.launchCompletion l.lid]
    | .ready | .running =>
      (if s.barReady l then [.barrierRelease l.lid] else []) ++ (if s.convoyReady l then [.convoyRelease l.lid] else [])

/-- What one hart waits for, or what may befall it. -/
def State.hartEvents (s : State) (h : Hart) : List Event :=
  (if h.retiring && !h.frozen && !h.halted && !h.saved && h.due.isNone && s.drained h.key then [.hartRetirement h.key] else [])
    ++ (if (s.routing h).isSome then [.routeReservation h.key] else [])
    ++ (if h.haltReq && !h.halted && (h.frozen || h.saved) then [.debugHalt h.key] else [])
    ++ (match h.monitor with
      | some m => [.monitorWake h.key (!m.hit)]
      | none => [])

/-- Rows of an inbox that may arrive next: those of one router arrive in order (23 R347). -/
def nextRows : List InboxRow → List Nat → List InboxRow
  | [], _ => []
  | r :: rs, busy =>
    if r.delivered || busy.contains r.tileStop then nextRows rs busy else r :: nextRows rs (r.tileStop :: busy)

/-- What a message that is next does: a strip request, or anything else. -/
def State.ringEvent (s : State) (i : Nat) : Event :=
  match s.ring[i]? with
  | some ⟨.strip k _ _ _, _, _⟩ => .stripRequest k
  | _ => .postMessage i

/-- Whether the engine may read the source row of an inbox row: no older transfer of the router has still to write it
(05 R85), and its earlier pushes have been delivered (21 R330). -/
def State.canDeliver (s : State) (r : InboxRow) : Bool :=
  match s.tile? r.tileStop r.tileEntry with
  | some t => !s.routeHeld t false (t.record.srcRow r.row)
    && !(s.pushes.any fun p => p.owner == t.owner && p.dest.isSome && p.id < t.id)
  | none => true

/-- Whether a tile may be reassembled: its slots are settled, its rows were read, so that its Pillar entries can be freed with
it (21 R330, R334), and no older transfer of the router holds its output (05 R85). -/
def State.canReassemble (s : State) (t : RouteTile) : Bool :=
  t.complete && !s.owes t && (List.range t.record.rows).all fun r => !s.routeHeld t true (t.record.outRow r)

/-- The route engine (21 R330, R333). -/
def State.routeEvents (s : State) : List Event :=
  (s.targets.flatMap fun g => ((nextRows g.rows []).filter s.canDeliver).map fun r =>
      .routeRowDelivery r.tileStop r.tileEntry r.row r.slot)
    ++ (s.routeTiles.filter s.canReassemble).map fun t => .reassembly t.stop t.entry

/-- Timers of accepted tiles (21 R335). -/
def State.timerEvents (s : State) : List Event :=
  (s.routeTiles.filter fun t => t.timer ≠ 0 && !t.expired && t.status == .running && t.accepted).map
    fun t => .routeTimeout t.stop t.entry

/-- Everything inside the device that can happen now, apart from instructions. -/
def State.internalEvents (s : State) : List Event :=
  s.streamEvents ++ s.pushEvents ++ s.matrixEvents ++ s.tileEvents ++ s.launchEvents
    ++ (List.range 4).flatMap s.placeEvents ++ s.slotEvents
    ++ (ringHeads s.ring [] 0).map s.ringEvent ++ s.routeEvents ++ s.harts.flatMap s.hartEvents
    ++ (if s.assay.busy.isSome then [.assayRehashDone] else []) ++ (if s.powerPending then [.powerGrant] else [])
    ++ s.timerEvents ++ s.bringUp.toList.map fun _ => .powerGood

/-! ### The choice -/

/-- A hart that can issue. -/
def Hart.runnable (h : Hart) : Bool := h.live && !h.blocked && !h.frozen && !h.halted && !h.saved

/-- What comes from outside and has to wait: a host access to device memory before READY (24 R364), and a push from another
package that no hart can accept (23 R352, 09 R196). -/
def State.holdsInput (s : State) : Input → Bool
  | ⟨.hostMemAccess pa n _, none⟩ => !s.ready && (s.hdmPlace pa n).isSome
  | ⟨.vpushDelivery _, some (.push p)⟩ => (s.inboundDest p).isNone
  | _ => false

/-- The place of the next input that is not held. -/
def State.nextInput (s : State) : Option Nat := (List.range s.inputs.length).find? fun i => match s.inputs[i]? with
  | some e => !s.holdsInput e
  | none => false

/-- A candidate for the next step. -/
inductive Candidate1 where
  | hart (k : HKey)
  | event (e : Event)
  | input (i : Nat)
  deriving DecidableEq, Repr

def State.candidates (s : State) : List Candidate1 :=
  (s.others.filter (·.runnable)).map (.hart ·.key) ++ (if s.h.runnable then [.hart s.h.key] else [])
    ++ s.internalEvents.map .event ++ s.nextInput.toList.map .input

/-- How far the next instruction gets before it stops (08 R163): to its end, or through so many elements and one more. -/
def partOf (n : Nat) : Option Nat := if n % 2 = 0 then none else some (n / 2)

/-- The hart of a name is the next to move, if it can issue. -/
def State.giveHart (s : State) (k : HKey) : State :=
  let t := s.focus k
  if t.h.runnable then { t with turn := .hart, part := partOf (Config.free t.tick), tick := t.tick + 1 }
  else { t with turn := .nothing }

/-- Makes a candidate the next to move. -/
def State.takeTurn (s : State) : Option Candidate1 → State
  | none => { s with turn := .nothing }
  | some (.hart k) => s.giveHart k
  | some (.event e) => { s with turn := .event e }
  | some (.input i) => match s.inputs[i]? with
    | some e => { s with turn := .event e.event, outside := e.brings, inputs := s.inputs.eraseIdx i }
    | none => { s with turn := .nothing }

/-- Chooses what moves next. -/
def State.schedule (s : State) : State :=
  let cs := s.candidates
  let r := s.choose cs.length
  r.2.takeTurn cs[r.1]?

/-- Something happened: every hart that waits looks again (07 R143). -/
def State.wakeAll (s : State) : State := s.onAll fun h => { h with blocked := false }

/-- What follows a step: waiting harts look again unless the hart in focus only waited, then the next turn is chosen. -/
def State.endStep (s : State) : State :=
  let t := { s.sweepPillars with part := none, outside := none }
  (if t.turn = .hart && t.h.live && t.h.blocked then t else t.wakeAll).schedule

end Sys2Proof.Machine
end

