-- ==== Sys2Proof/Machine/Branch.lean ====
section
/-! DEFINITION. Branches, jumps and prepared branches, majors 10 to 18 (06 R110, R111). -/
namespace Sys2Proof.Machine

/-- A compare and branch of `len` bytes: pc plus the signed offset in parcels when the comparison holds (06 R110). -/
def branch (p : Word → Word → Bool) (a b : SReg) (off : Word) (len : Word) : M Unit := do
  if p (← rd a) (← rd b) then jump ((← hart).pc + off * 2) else retire len

/-- A jump that links in s[a] (06 R110). -/
def jumpLink (a : SReg) (off len : Word) : M Unit := do
  let pc := (← hart).pc
  wr a (pc + len)
  jump (pc + off * 2)

/-- The prepared target b[n] (06 R96). -/
def target (n : BitVec 3) : M Word := return (← hart).b[n.toNat]'n.isLt
/-- Writes b[n] (06 R111). -/
def setTarget (n : BitVec 3) (v : Word) : M Unit := modHart fun h => { h with b := h.b.set n.toNat v n.isLt }

def execBeq (a b : SReg) (imm : BitVec 15) : State → Host.Outcome State Fault Refusal := run (branch (· == ·) a b (sx imm) 4)
def execBne (a b : SReg) (imm : BitVec 15) : State → Host.Outcome State Fault Refusal := run (branch (· != ·) a b (sx imm) 4)
def execBlt (a b : SReg) (imm : BitVec 15) : State → Host.Outcome State Fault Refusal :=
  run (branch (fun x y => x.slt y) a b (sx imm) 4)
def execBge (a b : SReg) (imm : BitVec 15) : State → Host.Outcome State Fault Refusal :=
  run (branch (fun x y => !x.slt y) a b (sx imm) 4)
def execBltn (a b : SReg) (imm : BitVec 15) : State → Host.Outcome State Fault Refusal :=
  run (branch (fun x y => x.ult y) a b (sx imm) 4)
def execBgen (a b : SReg) (imm : BitVec 15) : State → Host.Outcome State Fault Refusal :=
  run (branch (fun x y => !x.ult y) a b (sx imm) 4)
def execJal (a : SReg) (imm : BitVec 20) : State → Host.Outcome State Fault Refusal := run (jumpLink a (sx imm) 4)
def execPtb (n : BitVec 3) (imm : BitVec 20) : State → Host.Outcome State Fault Refusal := run do
  setTarget n ((← hart).pc + sx imm * 2)
  retire 4
/-- The target is computed before s[a] is written (06 R111). -/
def execJr (a b : SReg) (imm : BitVec 12) : State → Host.Outcome State Fault Refusal := run do
  let t := (← rd b) + sx imm
  wr a ((← hart).pc + 4)
  jump t
def execPtbr (n : BitVec 3) (b : SReg) (imm : BitVec 12) : State → Host.Outcome State Fault Refusal := run do
  setTarget n ((← rd b) + sx imm)
  retire 4
def execBrt (n : BitVec 3) : State → Host.Outcome State Fault Refusal := run do
  jump (← target n)
def execBrtnz (n : BitVec 3) (b : SReg) : State → Host.Outcome State Fault Refusal := run do
  if (← rd b) ≠ 0 then jump (← target n) else retire 4
def execBrtz (n : BitVec 3) (b : SReg) : State → Host.Outcome State Fault Refusal := run do
  if (← rd b) = 0 then jump (← target n) else retire 4
/-- Links in s1 (06 R111). -/
def execCallt (n : BitVec 3) : State → Host.Outcome State Fault Refusal := run do
  wr 1 ((← hart).pc + 4)
  jump (← target n)

end Sys2Proof.Machine
end

