-- ==== Sys2Proof/Machine/VectorSetup.lean ====
section
/-! DEFINITION. Vector length, shape and window descriptors, major 23 (09 R172 to R174, 01 R12, R13). -/
namespace Sys2Proof.Machine

/-- VSETVL with a requested type (09 R174): it closes the strip and writes s[a]. -/
def setLength (vt avl : Word) (a : SReg) : M Unit := do
  closeStrip
  let h ← hart
  let n := if illFormed h vt then 0 else min avl.toNat (vlmaxFor h vt.toNat)
  modHart fun h => { h with
    vtype := if illFormed h vt then 0x8000000000000000 else vt &&& 0x1FF
    vl := BitVec.ofNat 64 n
    vstart := 0 }
  wr a (BitVec.ofNat 64 n)

def execVsetvl (a b c : SReg) : State → Host.Outcome State Fault Refusal := run do
  setLength (← rd c) (← rd b) a
  retire 4
def execVsetvli (a b : SReg) (vt : BitVec 9) : State → Host.Outcome State Fault Refusal := run do
  setLength (zx vt) (← rd b) a
  retire 4

/-- VSHAPE closes the strip, sets VL to 0 and the ill-formed bit of VTYPE (01 R12). -/
def execVshape (b : SReg) : State → Host.Outcome State Fault Refusal := run do
  closeStrip
  let v ← rd b
  modHart fun h => { h with vshape := v &&& 0xFFFF, vl := 0, vtype := h.vtype ||| 0x8000000000000000 }
  retire 4

/-- A descriptor of a base and a length (09 R171, R172). -/
def descriptor (base len : Word) : Word := (base &&& 0x1FFF) ||| ((len &&& 0x1FFF) <<< 16)

def execWinv (v : BitVec 5) (b c : SReg) : State → Host.Outcome State Fault Refusal := run do
  let d := descriptor (← rd b) (← rd c)
  modHart fun h => { h with vw := h.vw.set! v.toNat d }
  retire 4
def execWinm (m : BitVec 3) (b c : SReg) : State → Host.Outcome State Fault Refusal := run do
  let d := descriptor (← rd b) (← rd c)
  modHart fun h => { h with mw := h.mw.set! m.toNat d }
  retire 4
def execWing (w : BitVec 4) (b c : SReg) : State → Host.Outcome State Fault Refusal := run do
  let x ← rd c
  let d := descriptor (← rd b) x ||| ((x >>> 16 &&& 0x1F) <<< 32)
  modHart fun h => { h with gw := h.gw.set! w.toNat d }
  retire 4
def execWini (w : BitVec 4) (b c : SReg) : State → Host.Outcome State Fault Refusal := run do
  let d := descriptor (← rd b) (← rd c)
  modHart fun h => { h with iw := h.iw.set! w.toNat d }
  retire 4

/-- The descriptor of an index of WINRD, 0 for any other index (09 R172). -/
def Hart.descriptorAt (h : Hart) (n : Nat) : Word :=
  if n < 28 then h.vw[n]! else if n < 36 then h.mw[n - 28]! else if n < 52 then h.gw[n - 36]! else
  if n < 68 then h.iw[n - 52]! else 0

def execWinrd (a b : SReg) : State → Host.Outcome State Fault Refusal := run do
  let n ← rd b
  let h ← hart
  wr a (h.descriptorAt n.toNat)
  retire 4

end Sys2Proof.Machine
end

