-- ==== Sys2Proof/Machine/Compressed.lean ====
section
/-! DEFINITION. The compressed instructions (03 R37): each does what the 32-bit instruction beside it does, and is one
parcel long. -/
namespace Sys2Proof.Machine

/-- s[a] := f(s[b], s[c]) in one parcel. -/
def short (f : Word → Word → Word) (a b c : SReg) : M Unit := do
  wr a (f (← rd b) (← rd c))
  retire 2
/-- s[a] := f(s[b]) in one parcel. -/
def shortImm (f : Word → Word) (a b : SReg) : M Unit := do
  wr a (f (← rd b))
  retire 2

def execCIll (bits : BitVec 11) : State → Host.Outcome State Fault Refusal := run (illegal (code16 0 bits))
def execCAdd (a c : SReg) : State → Host.Outcome State Fault Refusal := run (short (fun x y => x + y) a a c)
def execCAddi (a : SReg) (imm : BitVec 6) : State → Host.Outcome State Fault Refusal := run (shortImm (· + sx imm) a a)
def execCMov (a c : SReg) : State → Host.Outcome State Fault Refusal := run (short (fun x y => x ||| y) a c 0)
def execCLi (a : SReg) (imm : BitVec 6) : State → Host.Outcome State Fault Refusal := run (shortImm (· + sx imm) a 0)
def execCLsli (a : SReg) (n : BitVec 6) : State → Host.Outcome State Fault Refusal := run (shortImm (· <<< n.toNat) a a)
def execCSub (a c : SReg) : State → Host.Outcome State Fault Refusal := run (short (fun x y => x - y) a a c)
def execCNop : State → Host.Outcome State Fault Refusal := run (retire 2)

/-- LD.d from s2 plus 8n. -/
def execCLd (a : SReg) (n : BitVec 6) : State → Host.Outcome State Fault Refusal := run do
  let v ← scalarLoad true ((← rd 2) + zx n * 8) 8
  wr a (BitVec.ofNat 64 v)
  retire 2
/-- ST.d to s2 plus 8n. -/
def execCSt (a : SReg) (n : BitVec 6) : State → Host.Outcome State Fault Refusal := run do
  scalarStore true ((← rd 2) + zx n * 8) 8 (← rd a)
  retire 2

def execCBeqz (a : SReg) (off : BitVec 6) : State → Host.Outcome State Fault Refusal := run (branch (· == ·) a 0 (sx off) 2)
def execCBnez (a : SReg) (off : BitVec 6) : State → Host.Outcome State Fault Refusal := run (branch (· != ·) a 0 (sx off) 2)
def execCJ (off : BitVec 11) : State → Host.Outcome State Fault Refusal := run (jumpLink 0 (sx off) 2)
def execCBrt (n : BitVec 3) : State → Host.Outcome State Fault Refusal := run do
  jump (← target n)

/-- VL := min(s[a], VLMAX) under the present VTYPE, which stays (03 R37, 09 R174). -/
def execCVsetvl (a : SReg) : State → Host.Outcome State Fault Refusal := run do
  closeStrip
  let h ← hart
  let n := if illFormed h h.vtype then 0 else min (h.get a).toNat (vlmaxFor h h.vtype.toNat)
  modHart fun h => { h with vl := BitVec.ofNat 64 n, vstart := 0 }
  wr a (BitVec.ofNat 64 n)
  retire 2

end Sys2Proof.Machine
end

