-- ==== Sys2Proof/Machine/Float.lean ====
section
/-! DEFINITION. Scalar floating point, major 9, with its tangents (06 R106 to R109, 11 R231). -/
namespace Sys2Proof.Machine

/-- The format of fn10[9:8] (06 R106). -/
def scalarFmt (c : BitVec 2) : FloatFmt :=
  match c.toNat with
  | 0 => fp64 | 1 => fp32 | 2 => fp16 | _ => bf16

/-- The rounding mode of fn10[7:5]: 7 is FCSR.DRM (06 R106). -/
def scalarRm (h : Hart) (rm : BitVec 3) : Rm := if rm = 7 then dynamicRm h.fcsr else rmOf rm.toNat

/-- Entry (j, n) of the scalar tangent file, from j = 1 (11 R231). -/
def Hart.stanOf (h : Hart) (r : SReg) (j : Nat) : Word := if r = 0 then 0 else (h.stan[stanIdx (j - 1) r]?).getD 0

/-- What a scalar floating instruction computes: the result's bits, its flags, and tangent `j` as a value. -/
structure FResult where
  bits : Nat
  flags : Flags
  tan : Nat → Val
  /-- the result is a NaN of the format -/
  nan : Bool

/-- Flags are judged, then s[a] and its tangents are written (06 R109, 11 R231). -/
def floatWrite (o : FOps) (r : FResult) : M Unit := do
  checkFlags r.flags
  addFlags r.flags
  let s ← get
  let h := s.h
  let k := s.tanFor true
  let f := scalarFmt o.fmt
  let rm := scalarRm h o.rm
  let tans := (List.range k).map fun t =>
    BitVec.ofNat 64 ((Fmt.float f false).fitVal rm false 0 false (if r.nan then .num (.nan false) else r.tan (t + 1))).bits
  modHart fun h => (h.set o.a (BitVec.ofNat 64 r.bits)).setTans o.a tans
  retire 4

/-- Operand values of an instruction and of tangent `j`. -/
def fval (f : FloatFmt) (w : Word) : Num := f.value (w.toNat % 2 ^ f.bits)
def fopValues (o : FOps) (f : FloatFmt) (rd : SReg → Word) : Num × Num × Num := (fval f (rd o.b), fval f (rd o.c), fval f (rd o.a))

/-- An operation on the values of b, c and the old a, rounded once, with its tangent rule (11 R228). -/
def floatOp (op : Bool → Num → Num → Num → Val × Flags) (rule : Bool → Num × Num × Num → Num × Num × Num → Val) (o : FOps) :
    State → Host.Outcome State Fault Refusal := run do
  let h ← hart
  let f := scalarFmt o.fmt
  let rm := scalarRm h o.rm
  let v := fopValues o f h.get
  let r := op (rm == .rdn) v.1 v.2.1 v.2.2
  let out := (Fmt.float f false).fitVal rm false 0 false r.1
  floatWrite o {
    bits := out.bits
    flags := r.2 ||| out.flags
    tan := fun j => rule (rm == .rdn) v (fopValues o f (h.stanOf · j))
    nan := resultNan (.float f false) r.1 out.bits }

/-- A sum of tangent terms. -/
def fsum (rdn : Bool) (ts : List Num) : Val := .num (sumOf rdn ts).1

def execFadd : FOps → State → Host.Outcome State Fault Refusal :=
  floatOp (fun rdn x y _ => exact (sumOf rdn [x, y])) (fun rdn _ (tx, ty, _) => fsum rdn [tterm tx one, tterm ty one])
def execFsub : FOps → State → Host.Outcome State Fault Refusal :=
  floatOp (fun rdn x y _ => exact (sumOf rdn [x, y.negate])) (fun rdn _ (tx, ty, _) => fsum rdn [tterm tx one, tterm ty minusOne])
def execFmul : FOps → State → Host.Outcome State Fault Refusal :=
  floatOp (fun _ x y _ => exact (mulOf x y)) (fun rdn (x, y, _) (tx, ty, _) => fsum rdn [tterm tx y, tterm ty x])
def execFdiv : FOps → State → Host.Outcome State Fault Refusal :=
  floatOp (fun _ x y _ => exact (divOf x y)) (fun rdn (x, y, _) (tx, ty, _) =>
    if tx.isZero && ty.isZero then .num .zero
    else .num (divOf (sumOf rdn [tterm tx y, tterm ty x.negate]).1 (mulOf y y).1).1)
def execFsqrt : FOps → State → Host.Outcome State Fault Refusal :=
  floatOp (fun _ x _ _ => sqrtOp x) (fun _ (x, _, _) (tx, _, _) => sqrtTangent x tx)
def execFmin : FOps → State → Host.Outcome State Fault Refusal :=
  floatOp (fun _ x y _ => (.num (minOf x y).1, (minOf x y).2.1))
    (fun rdn (x, y, _) (tx, ty, _) => fsum rdn [tterm (if (minOf x y).2.2 then ty else tx) one])
def execFmax : FOps → State → Host.Outcome State Fault Refusal :=
  floatOp (fun _ x y _ => (.num (maxOf x y).1, (maxOf x y).2.1))
    (fun rdn (x, y, _) (tx, ty, _) => fsum rdn [tterm (if (maxOf x y).2.2 then ty else tx) one])
def execFmac : FOps → State → Host.Outcome State Fault Refusal :=
  floatOp (fun rdn x y d => (.num (sumOf rdn [d, (mulOf x y).1]).1, (sumOf rdn [d, (mulOf x y).1]).2 ||| (mulOf x y).2))
    (fun rdn (x, y, _) (tx, ty, td) => fsum rdn [tterm td one, tterm tx y, tterm ty x])

/-- An instruction that writes an integer; its tangents are +0 (11 R231). -/
def floatToInt (op : Rm → FloatFmt → Num → Num → Nat → Word × Flags) (o : FOps) : State → Host.Outcome State Fault Refusal :=
  run do
    let h ← hart
    let f := scalarFmt o.fmt
    let b := h.get o.b
    let r := op (scalarRm h o.rm) f (fval f b) (fval f (h.get o.c)) (b.toNat % 2 ^ f.bits)
    floatWrite o { bits := r.1.toNat, flags := r.2, tan := fun _ => .num .zero, nan := false }

def execFeq : FOps → State → Host.Outcome State Fault Refusal :=
  floatToInt fun _ _ x y _ => (flag (x.eq y), nvIf (x.signals || y.signals))
def execFlt : FOps → State → Host.Outcome State Fault Refusal :=
  floatToInt fun _ _ x y _ => (flag (x.lt y), nvIf (x.isNan || y.isNan))
def execFle : FOps → State → Host.Outcome State Fault Refusal :=
  floatToInt fun _ _ x y _ => (flag (!(x.isNan || y.isNan) && !y.lt x), nvIf (x.isNan || y.isNan))
def execFclass : FOps → State → Host.Outcome State Fault Refusal :=
  floatToInt fun _ f _ _ bits => (BitVec.ofNat 64 (2 ^ f.classBit bits), 0)
def execFcvti : FOps → State → Host.Outcome State Fault Refusal :=
  floatToInt fun rm _ x _ _ => let r := roundInt true 64 rm 0 x; (BitVec.ofNat 64 r.bits, r.flags)

def execFcvtf (o : FOps) : State → Host.Outcome State Fault Refusal := run do
  let h ← hart
  let r := (scalarFmt o.fmt).fit (scalarRm h o.rm) false 0 (.ofInt (h.get o.b).toInt)
  floatWrite o { bits := r.bits, flags := r.flags, tan := fun _ => .num .zero, nan := false }

def execFcvt (o : FOps) : State → Host.Outcome State Fault Refusal := run do
  let h ← hart
  let src := scalarFmt (o.c.setWidth 2)
  let f := scalarFmt o.fmt
  let r := f.fit (scalarRm h o.rm) false 0 (fval src (h.get o.b))
  floatWrite o {
    bits := r.bits
    flags := r.flags
    tan := fun j => fsum false [tterm (fval src (h.stanOf o.b j)) one]
    nan := (f.value r.bits).isNan }

/-- The magnitude of b with a sign of `sign` (06 R107); bits are copied and no flag is raised (04 R48). -/
def floatSign (sign : Bool → Bool → Bool) (o : FOps) : State → Host.Outcome State Fault Refusal := run do
  let h ← hart
  let f := scalarFmt o.fmt
  let top := 2 ^ (f.exp + f.frac)
  let b := (h.get o.b).toNat % 2 ^ f.bits
  let sb := b / top = 1
  let sc := (h.get o.c).toNat / top % 2 = 1
  let neg := sign sb sc
  floatWrite o {
    bits := b % top + f.signBit neg
    flags := 0
    tan := fun j => fsum false [tterm (fval f (h.stanOf o.b j)) (if neg = decide sb then one else minusOne)]
    nan := (f.value b).isNan }

def execFsgn : FOps → State → Host.Outcome State Fault Refusal := floatSign fun _ c => c
def execFsgnn : FOps → State → Host.Outcome State Fault Refusal := floatSign fun _ c => !c
def execFsgnx : FOps → State → Host.Outcome State Fault Refusal := floatSign fun b c => b != c

end Sys2Proof.Machine
end

