-- ==== Sys2Proof/Machine/Geometry.lean ====
section
/-! DEFINITION. The geometry engine, majors 48 to 52: multivectors of signature (3,0,1) in geometry windows (15 R259 to R277,
11 R229). -/
namespace Sys2Proof.Machine

/-! ### The algebra (15 R259, R260) -/

/-- The sorted set of a blade, bit k for e_k. -/
def bladeSet (m : Nat) : Nat := ([0, 1, 2, 4, 8, 3, 5, 9, 6, 10, 12, 7, 11, 13, 14, 15][m]?).getD 0
/-- The blade of a sorted set. -/
def bladeOf (set : Nat) : Nat := ([0, 1, 2, 5, 3, 6, 8, 11, 4, 7, 9, 12, 10, 13, 14, 15][set]?).getD 0
/-- Orientation −. -/
def bladeFlip (m : Nat) : Bool := m = 9 || m = 11 || m = 13
def bladeGrade (m : Nat) : Nat := if m = 0 then 0 else if m < 5 then 1 else if m < 11 then 2 else if m < 15 then 3 else 4

/-- Pairs (s, u) of the two sets with s > u. -/
def inversions (s t : Nat) : Nat :=
  ([0, 1, 2, 3].flatMap fun i => (List.range i).filter fun j => s.testBit i && t.testBit j).length

/-- The product of two blades: whether it is negative, and its index; none where it vanishes (15 R260). -/
def bladeMul (j k : Nat) : Option (Bool × Nat) :=
  let s := bladeSet j
  let t := bladeSet k
  if s.testBit 0 && t.testBit 0 then none
  else
    let m := bladeOf (s ^^^ t)
    some ((((bladeFlip j != bladeFlip k) != bladeFlip m) != (inversions s t % 2 == 1)), m)

/-- The blades of a grade mask in index order (15 R262). -/
def bladesOf (mask : Nat) : List Nat := (List.range 16).filter fun m => mask.testBit (bladeGrade m)

/-- The bilinear products. -/
inductive GeoProduct where
  | geometric | wedge | join | inner
  deriving DecidableEq, Repr

/-- The term of a pair of blades in a product: its sign and the component it contributes to (15 R260, R269). -/
def GeoProduct.term (p : GeoProduct) (j k : Nat) : Option (Bool × Nat) :=
  let disjoint (a b : Nat) : Bool := bladeSet a &&& bladeSet b == 0
  match p with
  | .geometric => bladeMul j k
  | .wedge => if disjoint j k then bladeMul j k else none
  | .inner => match bladeMul j k with
    | some (s, m) => if bladeGrade m = max (bladeGrade j) (bladeGrade k) - min (bladeGrade j) (bladeGrade k) then some (s, m) else none
    | none => none
  | .join =>
    if disjoint (15 - j) (15 - k) then (bladeMul (15 - j) (15 - k)).map fun r => (r.1, 15 - r.2) else none

/-! ### Grade masks (15 R265) -/

def maskOf (gs : List Nat) : Nat := gs.foldl (fun m g => m ||| 2 ^ g) 0
def gradesOf (mask : Nat) : List Nat := (List.range 5).filter mask.testBit

/-- The grades that a pair contributes to a bilinear product. -/
def GeoProduct.grades (p : GeoProduct) (g h : Nat) : List Nat :=
  let diff := max g h - min g h
  match p with
  | .geometric => (List.range 5).filter fun x => diff ≤ x && x ≤ min (g + h) (8 - g - h) && x % 2 == diff % 2
  | .wedge => if g + h ≤ 4 then [g + h] else []
  | .join => if 4 ≤ g + h then [g + h - 4] else []
  | .inner => [diff]

/-- The inferred mask of a bilinear product. -/
def GeoProduct.infer (p : GeoProduct) (ma mb : Nat) : Nat :=
  maskOf ((gradesOf ma).flatMap fun g => (gradesOf mb).flatMap fun h => p.grades g h)

/-! ### Windows (15 R262) -/

/-- A geometry window as an operand of a given mask. -/
def Hart.guse (h : Hart) (g mask : Nat) : Use := ⟨[(h.gwin g, (bladesOf mask).length * h.refBytes, 1)], none⟩

/-- Component `q` of element `i` of a geometry window, or its tangent `t`. -/
def State.gread (s : State) (h : Hart) (g q i t : Nat) : Bits :=
  let w := h.gwin g
  s.laneRead h.stop (h.lane0 + i % h.lanes) (h.firstByte w + t * w.bytes + q * h.refBytes + i / h.lanes * 4) 4
def State.gwrite (s : State) (h : Hart) (g q i t v : Nat) (bad : Bool := false) : State :=
  let w := h.gwin g
  s.laneWrite h.stop (h.lane0 + i % h.lanes) (h.firstByte w + t * w.bytes + q * h.refBytes + i / h.lanes * 4) 4 v bad

/-- The stored components of an element, each with its blade. -/
def Hart.components (h : Hart) (g mask i t : Nat) (s : State) : List (Nat × Bits) :=
  (List.range 16).zip (bladesOf mask) |>.map fun p => (p.2, s.gread h g p.1 i t)

/-! ### Dispatch (15 R263, R266, R267) -/

/-- What an instruction's dispatch knows: operands, masks, tangent count. -/
structure GCtx where
  o : GOps
  h : Hart
  k : Nat
  ma : Nat
  mb : Nat
  /-- the destination mask M -/
  mask : Nat
  /-- M ∩ I -/
  live : Nat

/-- What fields b and c name. -/
inductive GSource where
  | geo | vec | none
  deriving DecidableEq, Repr

/-- A geometry instruction's sources and its inferred mask. -/
structure GSpec where
  b : GSource
  c : GSource
  infer : (ma mb d own : Nat) → Nat
  /-- a versor of one parity is required of b (15 R266) -/
  versor : Bool := false
  /-- m0 is read as data -/
  mask0 : Bool := false

/-- The type check of R263. -/
def Hart.badGeometry (h : Hart) : Bool := h.badType || h.sewCode ≠ 18 || h.group ≠ 1

/-- The tangent-overlap trap of a dispatch (11 R227). -/
def overlapCheck (k : Nat) (named : List (Window × Bool)) : M Unit := do
  if 0 < k then
    match tangentClash k named with
    | some cr => trap 12 (BitVec.ofNat 64 cr)
    | none => pure ()

/-- Dispatch of an instruction that writes a geometry window: causes 7, 12, 9 and 10, then the waits. -/
def geoDispatch (spec : GSpec) (o : GOps) : M GCtx := do
  let s ← get
  let h := s.h
  if h.badGeometry then trap 7 h.vtype
  let k := s.tanFor true
  let a := o.a.toNat
  let b := o.b.toNat
  let c := o.c.toNat
  let ma := if spec.b = .geo then h.gmask b else 0
  let mb := if spec.c = .geo then h.gmask c else 0
  let d := o.d.toNat
  let inferred := spec.infer ma mb d (h.gmask a)
  let mask := if d = 0 then inferred else d
  let dest := h.guse a mask
  let source (kind : GSource) (r m : Nat) : List Use :=
    match kind with
    | .geo => [h.guse r m]
    | .vec => if h.queued r then [] else [h.vuse r 32]
    | .none => []
  let srcs := source spec.b b ma ++ source spec.c c mb
  let srcW := srcs.flatMap Use.windows
  let m0 := if spec.mask0 then [h.muse 0] else []
  let m0W := m0.flatMap Use.windows
  overlapCheck k (dest.windows.map (·, true) ++ srcW.map (·, true) ++ m0W.map (·, false))
  windowCheck (firstFailure ([h.checkUse dest k srcW m0W] ++ srcs.map (h.checkUse · k [] []) ++ m0.map (h.checkUse · 0 [] [])))
  let clash (kind : GSource) (r m : Nat) : Bool := kind == .geo && (h.gwin a).same (h.gwin r) && m != mask
  if clash spec.b b ma || clash spec.c c mb then trap 9 (BitVec.ofNat 64 (0x044 + a))
  if d ≠ 0 && !o.proj && inferred &&& (31 - d) ≠ 0 then trap 10 (BitVec.ofNat 64 inferred)
  if spec.versor && ma &&& 0b10101 ≠ 0 && ma &&& 0b01010 ≠ 0 then trap 10 (BitVec.ofNat 64 (inferred + ma * 256))
  awaitFull (if spec.b = .vec && !h.queued b then [b] else []) []
  awaitPushes dest.windows k
  pure ⟨o, h, k, ma, mb, mask, mask &&& inferred⟩

/-- The end of dispatch: the destination's mask is written (15 R266). -/
def GCtx.setMask (cx : GCtx) : M Unit := modHart fun h =>
  let a := cx.o.a.toNat
  { h with gw := h.gw.set! a ((h.gw[a]! &&& ~~~0x1F00000000) ||| BitVec.ofNat 64 (cx.mask * 2 ^ 32)) }

/-- Writes the components of an element in index order; a component outside I is +0 (15 R266). -/
def GCtx.put (cx : GCtx) (i : Nat) (res : List (Nat × Out)) : M Unit := modify fun s =>
  (List.range 16).zip (bladesOf cx.mask) |>.foldl (fun s p =>
    let c := match res.find? (·.1 == p.2) with
      | some r => r.2
      | none => { bits := 0, tans := List.replicate cx.k 0 }
    let s := s.gwrite cx.h cx.o.a.toNat p.1 i 0 c.bits c.bad
    (List.range cx.k).zip c.tans |>.foldl (fun s t =>
      s.gwrite cx.h cx.o.a.toNat p.1 i (t.1 + 1) t.2 (c.tanBad.contains (t.1 + 1))) s) s

/-- All ones in every stored component of a tail element (15 R263). -/
def GCtx.fill (cx : GCtx) (i : Nat) : M Unit :=
  cx.put i ((bladesOf cx.mask).map fun m => (m, { bits := 0xFFFFFFFF, tans := List.replicate cx.k 0xFFFFFFFF }))

/-- The element loop of an instruction that writes a geometry window: every element from VSTART (15 R263). -/
def geoBody (spec : GSpec) (compute : GCtx → Nat → M (List (Nat × Out))) (o : GOps) : M VBody := do
  let cx ← geoDispatch spec o
  cx.setMask
  pure {
    vm := true
    elem := fun i => do
      let res ← compute cx i
      let flags := res.foldl (fun f r => f ||| r.2.flags) 0
      checkFlags flags
      addFlags flags
      cx.put i res
    fill := cx.fill
    finish := endBindings (if spec.b = .vec then [o.b.toNat] else []) }

/-! ### Values -/

/-- The components of window `g` that an operation uses, as values: it consumes those alone (08 R165). -/
def GCtx.values (cx : GCtx) (g mask : Nat) (used : Nat → Bool) (i t : Nat) : M (List (Nat × Num)) := do
  let s ← get
  ((cx.h.components g mask i t s).filter fun p => used p.1).mapM fun p => do
    let b ← consume p.2
    pure (p.1, fp32.value b)
def GCtx.av (cx : GCtx) (used : Nat → Bool) (i t : Nat) : M (List (Nat × Num)) := cx.values cx.o.b.toNat cx.ma used i t
def GCtx.bv (cx : GCtx) (used : Nat → Bool) (i t : Nat) : M (List (Nat × Num)) := cx.values cx.o.c.toNat cx.mb used i t

/-- A component of a list of components, as a list of one term or none. -/
def termOf (m : Nat) (x : List (Nat × Num)) : List Num := (x.filter (·.1 == m)).map (·.2)
/-- A component, 0 where absent. -/
def compOf (m : Nat) (x : List (Nat × Num)) : Num := (termOf m x).headD .zero

def signedNum (neg : Bool) (v : Num) : Num := if neg then v.negate else v

/-- The exact sum of terms rounded once to FP32 under RNE (15 R268). -/
def geoSum (ts : List Num) : Num × Flags := if ts.isEmpty then (.zero, 0) else sumOf false ts
def geoFit (v : Val) : Fitted := (Fmt.float fp32 false).fitVal .rne false 0 false v

/-- A component from its terms and the terms of its tangents. -/
def component (terms : List (Num × Flags)) (tans : List (List Num)) : Out :=
  let s := geoSum (terms.map (·.1))
  let r := geoFit (.num s.1)
  { bits := r.bits
    tans := tans.map fun ts => (geoFit (.num (if s.1.isNan then .nan false else (geoSum ts).1))).bits
    flags := terms.foldl (fun f t => f ||| t.2) (s.2 ||| r.flags) }

/-- Reads the tangents 1 to k of both sources. -/
def readTangents {α : Type} (k : Nat) (f : Nat → M α) : M (List α) := (List.range k).mapM fun t => f (t + 1)

/-! ### Products (15 R269, R270) -/

/-- The terms of a bilinear product of blades `a` and `b` for component `m`: sign, and the components they multiply. -/
def GeoProduct.terms (p : GeoProduct) (a b : List Nat) (m : Nat) : List (Bool × Nat × Nat) :=
  a.flatMap fun x => b.filterMap fun y => match p.term x y with
    | some (neg, m') => if m' = m then some (neg, x, y) else none
    | none => none

def bilinear (p : GeoProduct) : GOps → M VBody :=
  geoBody { b := .geo, c := .geo, infer := fun ma mb _ _ => p.infer ma mb } fun cx i => do
    let table := (bladesOf cx.live).map fun m => (m, p.terms (bladesOf cx.ma) (bladesOf cx.mb) m)
    let inA (x : Nat) : Bool := table.any (·.2.any (·.2.1 == x))
    let inB (y : Nat) : Bool := table.any (·.2.any (·.2.2 == y))
    let a ← cx.av inA i 0
    let b ← cx.bv inB i 0
    let tas ← readTangents cx.k (cx.av inA i)
    let tbs ← readTangents cx.k (cx.bv inB i)
    pure (table.map fun (m, ts) =>
      (m, component
        (ts.map fun t => let r := mulOf (compOf t.2.1 a) (compOf t.2.2 b); (signedNum t.1 r.1, r.2))
        ((tas.zip tbs).map fun q => ts.flatMap fun t =>
          [tterm (compOf t.2.1 q.1) (signedNum t.1 (compOf t.2.2 b)), tterm (compOf t.2.2 q.2) (signedNum t.1 (compOf t.2.1 a))])))

/-- GREV's sign of a blade: − for grades 2 and 3 (15 R271). -/
def reverseFlip (m : Nat) : Bool := bladeGrade m = 2 || bladeGrade m = 3

/-- The terms v_j · x_k · v_l of V X Ṽ for component `m` (15 R270). -/
def sandwichTerms (v x : List Nat) (m : Nat) : List (Bool × Nat × Nat × Nat) :=
  v.flatMap fun j => x.flatMap fun k => match bladeMul j k with
    | none => []
    | some (s1, m1) => v.filterMap fun l => match bladeMul m1 l with
      | some (s2, m2) => if m2 = m then some ((s1 != s2) != reverseFlip l, j, k, l) else none
      | none => none

/-- A product of three values with its flags. -/
def mul3 (a b c : Num) : Num × Flags := let p := mulOf a b; let q := mulOf p.1 c; (q.1, p.2 ||| q.2)

/-- Changes the sign of FP32 bits that are no NaN. -/
def flipBits (flip : Bool) (b : Nat) : Nat := if flip && !(fp32.value b).isNan then b ^^^ 0x80000000 else b

def gsandBody : GOps → M VBody :=
  geoBody { b := .geo, c := .geo, infer := fun _ mb _ _ => mb, versor := true } fun cx i => do
    let table := (bladesOf cx.live).map fun m => (m, sandwichTerms (bladesOf cx.ma) (bladesOf cx.mb) m)
    let inV (x : Nat) : Bool := table.any (·.2.any fun t => t.2.1 == x || t.2.2.2 == x)
    let inX (x : Nat) : Bool := table.any (·.2.any (·.2.2.1 == x))
    let v ← cx.av inV i 0
    let x ← cx.bv inX i 0
    let tvs ← readTangents cx.k (cx.av inV i)
    let txs ← readTangents cx.k (cx.bv inX i)
    let odd : Bool := cx.ma ≠ 0 && cx.ma &&& 0b10101 = 0
    pure (table.map fun (m, ts) =>
      let r := component
        (ts.map fun t => let r := mul3 (compOf t.2.1 v) (compOf t.2.2.1 x) (compOf t.2.2.2 v); (signedNum t.1 r.1, r.2))
        ((tvs.zip txs).map fun q => ts.flatMap fun t =>
          let vj := compOf t.2.1 v
          let xk := compOf t.2.2.1 x
          let vl := compOf t.2.2.2 v
          [tterm (compOf t.2.1 q.1) (signedNum t.1 (mulOf xk vl).1), tterm (compOf t.2.2.1 q.2) (signedNum t.1 (mulOf vj vl).1),
           tterm (compOf t.2.2.2 q.1) (signedNum t.1 (mulOf vj xk).1)])
      let flip : Bool := odd && bladeGrade m % 2 = 1
      (m, { r with bits := flipBits flip r.bits, tans := r.tans.map (flipBits flip) }))

/-! ### One and two sources, component by component (15 R271) -/

/-- A component that is copied, with its sign changed by `flip`, and its tangents by the rule of 11 R228: +0 for a zero
tangent, the canonical NaN beside a NaN. Marks go with the bits (08 R165). The rules of R228 hold for the copies of R229 as
for every other tangent: DEDUCED, log 62. -/
def copied (flip : Bool) (p : Bits) (ts : List Bits) : Out :=
  let nan := (fp32.value p.val).isNan
  let places := (List.range ts.length).map (· + 1)
  { bits := if flip then p.val ^^^ 0x80000000 else p.val
    bad := p.bad.isSome
    tans := ts.map fun t => (geoFit (.num (if nan then .nan false else tterm (fp32.value t.val) (if flip then minusOne else one)))).bits
    tanBad := if nan then [] else ((places.zip ts).filter (·.2.bad.isSome)).map (·.1) }

/-- The bits of component `m` of a source as they stand, or of its tangent `t`; none where the source lacks it. -/
def GCtx.rawComp (cx : GCtx) (g mask i m t : Nat) : M (Option Bits) := do
  let s ← get
  pure (((cx.h.components g mask i t s).find? (·.1 == m)).map (·.2))

/-- Copies one component. -/
def GCtx.copyComp (cx : GCtx) (flip : Bool) (g mask i m : Nat) : M (Option Out) := do
  match ← cx.rawComp g mask i m 0 with
  | none => pure none
  | some p =>
    let ts ← (List.range cx.k).mapM fun t => do return ((← cx.rawComp g mask i m (t + 1)).getD ⟨0, none⟩)
    pure (some (copied flip p ts))

/-- Copies components: `from'` gives the blade a component is taken from, `flip` changes signs. -/
def copying (from' : Nat → Nat) (flip : Nat → Bool) (cx : GCtx) (g mask i : Nat) : M (List (Nat × Out)) := do
  let rs ← (bladesOf cx.live).mapM fun m => do
    match ← cx.copyComp (flip m) g mask i (from' m) with
    | some c => pure [(m, c)]
    | none => pure []
  pure rs.flatten

def oneSource (infer : Nat → Nat) : GSpec := { b := .geo, c := .none, infer := fun ma _ _ _ => infer ma }

def grevBody : GOps → M VBody :=
  geoBody (oneSource id) fun cx i => copying id reverseFlip cx cx.o.b.toNat cx.ma i
def gdualBody : GOps → M VBody :=
  geoBody (oneSource fun ma => maskOf ((gradesOf ma).map (4 - ·))) fun cx i =>
    copying (15 - ·) (fun _ => false) cx cx.o.b.toNat cx.ma i
def ggradeBody (o : GOps) : M VBody :=
  geoBody (oneSource fun ma => ma &&& o.c.toNat) (fun cx i => copying id (fun _ => false) cx cx.o.b.toNat cx.ma i) o

def bothSources (mask0 : Bool) : GSpec := { b := .geo, c := .geo, infer := fun ma mb _ _ => ma ||| mb, mask0 := mask0 }

/-- GADD or GSUB: a component absent from one source is no term. -/
def adding (neg : Bool) : GOps → M VBody :=
  geoBody (bothSources false) fun cx i => do
    let live (m : Nat) : Bool := (bladesOf cx.live).contains m
    let a ← cx.av live i 0
    let b ← cx.bv live i 0
    let tas ← readTangents cx.k (cx.av live i)
    let tbs ← readTangents cx.k (cx.bv live i)
    pure ((bladesOf cx.live).map fun m =>
      (m, component (((termOf m a) ++ (termOf m b).map (signedNum neg)).map plain)
        ((tas.zip tbs).map fun q =>
          (termOf m q.1).map (tterm · one) ++ (termOf m q.2).map (tterm · (if neg then minusOne else one)))))

def gaddBody : GOps → M VBody := adding false
def gsubBody : GOps → M VBody := adding true

def gscaleBody : GOps → M VBody :=
  geoBody { b := .vec, c := .geo, infer := fun _ mb _ _ => mb } fun cx i => do
    let v := cx.o.b.toNat
    let s ← sourceElem v 32 false i 0
    let sv := fp32.value s
    let live (m : Nat) : Bool := (bladesOf cx.live).contains m
    let b ← cx.bv live i 0
    let tss ← readTangents cx.k fun t => do return fp32.value (← sourceElem v 32 false i t)
    let tbs ← readTangents cx.k (cx.bv live i)
    pure ((bladesOf cx.live).map fun m =>
      (m, component ((termOf m b).map (mulOf sv))
        ((tss.zip tbs).map fun q => [tterm q.1 (compOf m b), tterm (compOf m q.2) sv])))

def gselBody : GOps → M VBody :=
  geoBody (bothSources true) fun cx i => do
    let s ← get
    let bit ← consume (s.mread cx.h 0 i)
    if bit = 1 then copying id (fun _ => false) cx cx.o.b.toNat cx.ma i
    else copying id (fun _ => false) cx cx.o.c.toNat cx.mb i

/-! ### GNORM (15 R272) -/

/-- v / n or v / n³ for n = √(sn / sd): the root of v² over S or S³ with the sign of v; a zero keeps its sign. -/
def overRoot (v : Num) (sn sd : Nat) (cube : Bool) : Val :=
  match v with
  | .fin s n d =>
    if n = 0 then .num v
    else if cube then sqrtRat s (n * n * sd * sd * sd) (d * d * sn * sn * sn)
    else sqrtRat s (n * n * sd) (d * d * sn)
  | v => .num v

def gnormBody : GOps → M VBody :=
  geoBody (oneSource id) fun cx i => do
    let a ← cx.av (fun _ => true) i 0
    let tas ← readTangents cx.k (cx.av (fun _ => true) i)
    let live := bladesOf cx.live
    if a.any fun x => !x.2.isFinite then
      let f := nvIf (a.any fun x => x.2.isInf || x.2.signals)
      pure (live.map fun m => (m, { bits := fp32.canonical, tans := List.replicate cx.k fp32.canonical, flags := f }))
    else if a.all fun x => x.2.isZero then
      let rs ← copying id (fun _ => false) cx cx.o.b.toNat cx.ma i
      pure (rs.map fun r => (r.1, { r.2 with tans := List.replicate cx.k 0 }))
    else
      let out := a.filter fun x => !(bladeSet x.1).testBit 0
      let base := if out.all fun x => x.2.isZero then a.filter fun x => (bladeSet x.1).testBit 0 else out
      let sq := (sumOf false (base.map fun x => (mulOf x.2 x.2).1)).1
      match sq with
      | .fin _ sn sd =>
        pure (live.map fun m =>
          let am := compOf m a
          let r := geoFit (overRoot am sn sd false)
          (m, { bits := r.bits, flags := r.flags, tans := tas.map fun ta =>
            let dot := (sumOf false (base.map fun x => tterm (compOf x.1 ta) x.2)).1
            let top := (sumOf false [tterm (compOf m ta) sq, tterm dot am.negate]).1
            (geoFit (if top.isZero then .num .zero else overRoot top sn sd true)).bits }))
      | _ => pure []

/-! ### GEXP (15 R273) -/

/-- A rational number. -/
abbrev Q := Int × Nat
def Num.q : Num → Q
  | .fin s n d => (signed s n, d)
  | _ => (0, 1)
def qadd (x y : Q) : Q := (x.1 * y.2 + y.1 * x.2, x.2 * y.2)
def qneg (x : Q) : Q := (-x.1, x.2)
def qmul (x y : Q) : Q := (x.1 * y.1, x.2 * y.2)
/-- x / u for u > 0. -/
def qdiv (x u : Q) : Q := (x.1 * u.2, x.2 * u.1.toNat)
def qsum (xs : List Q) : Q := xs.foldl qadd (0, 1)
def qdot (xs ys : List Q) : Q := qsum (List.zipWith qmul xs ys)

/-- x · S + y · C for S = sin α / α and C = cos α at α² = u. -/
def trigForm (u x y : Q) : Val := trigVal u.1.toNat u.2 (x.1 * y.2) (y.1 * x.2) (x.2 * y.2)

/-- An exact rational value, written +0 when zero. -/
def qval (x : Q) : Val := .num (.ofRat x.1 x.2)

/-- The blades of grade 2 in index order, and the six components of them, absent ones 0. -/
def lineBlades : List Nat := [5, 6, 7, 8, 9, 10]
def bivector (x : List (Nat × Num)) : List Num := lineBlades.map fun m => compOf m x

/-- An exact zero whose terms are all −0 is −0 (15 R268). -/
def zeroOf (ts : List Num) (v : Val) : Val := if ts.all fun t => t.isZero && t.neg? then .num (.fin true 0 1) else v

/-- ±1, with the sign of a value that is no zero. -/
def signUnit (v : Val) : Num := .fin (2147483648 ≤ (geoFit v).bits) 1 1

/-- The entries of exp in the order 1, e01 to e23, e0123, for the six components `g`: its ideal part pairs with the reversed
direction part, a with f, b with e and c with d. A zero has the sign of its terms s·a and −τ·f, s·d, and β·s/2. -/
def expEntries (g : List Num) : List Val :=
  let p := g.take 3
  let r := g.drop 3
  let qr := r.map Num.q
  let u := qdot qr qr
  let pairs := p.zip r.reverse
  let hb := qdot (p.map Num.q) qr.reverse
  let beta := (geoSum (pairs.map fun x => (mulOf x.1 x.2).1)).1
  let s := if u.1 = 0 then one else signUnit (trigForm u (1, 1) (0, 1))
  let tau := if u.1 = 0 then beta else (mulOf beta (signUnit (trigForm u (qdiv (1, 1) u) (qneg (qdiv (1, 1) u))))).1
  let ideal (x : Num × Num) : Val := zeroOf [(mulOf s x.1).1, (mulOf tau x.2).1.negate]
    (if u.1 = 0 then qval x.1.q else let t := qdiv (qmul hb x.2.q) u; trigForm u (qadd x.1.q (qneg t)) t)
  let direct (d : Num) : Val := zeroOf [(mulOf s d).1] (if u.1 = 0 then qval (0, 1) else trigForm u d.q (0, 1))
  [if u.1 = 0 then qval (1, 1) else trigForm u (0, 1) (1, 1)] ++ pairs.map ideal ++ r.map direct
    ++ [zeroOf [(mulOf s beta).1] (if u.1 = 0 then qval hb else trigForm u hb (0, 1))]

/-- The directional derivatives of the entries along `dp`, `dr`. With T = (S − C) / u: dS = −T·hu, dC = −S·hu and
dT = (S − 3T)/u · hu, where hu = r · dr. -/
def expTangents (p r dp dr : List Q) : List Val :=
  let u := qdot r r
  let hb := qdot p r.reverse
  let hd := qadd (qdot dp r.reverse) (qdot p dr.reverse)
  let hu := qdot r dr
  if u.1 = 0 then [qval (0, 1)] ++ dp.map qval ++ dr.map qval ++ [qval hd]
  else
    -- x · S + y · T
    let form (x y : Q) : Val := let t := qdiv y u; trigForm u (qadd x t) (qneg t)
    let ideal (a da : Q) (f df : Q) : Val :=
      let w := qdiv (qmul (qmul hb f) hu) u
      form (qadd da (qneg w)) (qsum [qneg (qmul a hu), qneg (qmul hd f), qneg (qmul hb df), qmul (3, 1) w])
    let ideals := List.zipWith (fun x y => ideal x.1 x.2 y.1 y.2) (p.zip dp) (r.reverse.zip dr.reverse)
    [form (qneg hu) (0, 1)] ++ ideals ++ List.zipWith (fun d dd => form dd (qneg (qmul d hu))) r dr
      ++ [form hd (qneg (qmul hb hu))]

/-- The blades of the entries. -/
def expBlades : List Nat := [0, 5, 6, 7, 8, 9, 10, 15]

def gexpBody : GOps → M VBody :=
  geoBody (oneSource fun _ => 0b10101) fun cx i => do
    let a ← cx.av lineBlades.contains i 0
    let g := bivector a
    let tas ← readTangents cx.k (cx.av lineBlades.contains i)
    let nan (f : Flags) : Out := { bits := fp32.canonical, tans := List.replicate cx.k fp32.canonical, flags := f }
    let entries : List Out :=
      if g.any (!·.isFinite) then List.replicate 8 (nan (nvIf (g.any fun x => x.isInf || x.signals)))
      else
        let q := g.map Num.q
        let tans := tas.map fun ta =>
          let t := bivector ta
          if t.any (!·.isFinite) then List.replicate 8 (Val.num (.nan false))
          else expTangents (q.take 3) (q.drop 3) ((t.map Num.q).take 3) ((t.map Num.q).drop 3)
        (List.range 8).zip (expEntries g) |>.map fun e =>
          let f := geoFit e.2
          { bits := f.bits, tans := tans.map fun ts => (geoFit ((ts[e.1]?).getD (.num .zero))).bits, flags := f.flags }
    pure ((expBlades.zip entries).filter fun e => (bladesOf cx.live).contains e.1)

/-! ### GXSIGN (15 R276) -/

/-- The join of two lines (15 R261). -/
def lineJoin (y e : List Q) : Q := qdot y e.reverse

def gxsignBody : GOps → M VBody :=
  geoBody { b := .geo, c := .geo, infer := fun _ _ _ _ => 1 } fun cx i => do
    let a ← cx.av lineBlades.contains i 0
    let b ← cx.bv lineBlades.contains i 0
    let y := bivector a
    let e := bivector b
    let out (bits : Nat) (f : Flags) : Out := { bits := bits, flags := f, tans := List.replicate cx.k 0 }
    let r :=
      if (y ++ e).any (!·.isFinite) then out fp32.canonical NV
      else
        let v := (lineJoin (y.map Num.q) (e.map Num.q)).1
        let neg : Bool := if v ≠ 0 then decide (v < 0) else (match e.find? (!·.isZero) with | some x => x.neg? | none => false)
        out (if neg then 0xBF800000 else 0x3F800000) 0
    pure ([(0, r)].filter fun e => (bladesOf cx.live).contains e.1)

/-! ### Moves (15 R274, R275) -/

/-- The address of component `q` of element `i`. -/
def geoAddr (h : Hart) (o : GOps) (n i q : Nat) : Word :=
  let stride : Word := if o.c = 0 then BitVec.ofNat 64 (4 * n) else h.get (o.c.setWidth 5)
  h.get (o.b.setWidth 5) + BitVec.ofNat 64 i * stride + BitVec.ofNat 64 (4 * q)

/-- The probe pass of GLD and GST: each component is an element of 32 bits (15 R274). -/
def geoProbe (h : Hart) (o : GOps) (n : Nat) (acc : Access) : M ProbeTable :=
  probePass false true acc true (fun i => pure ((List.range n).map fun q => (geoAddr h o n i q, 4))) h.elements []

def gldBody (o : GOps) : M VBody := do
  let cx ← geoDispatch { b := .none, c := .none, infer := fun _ _ d own => if d = 0 then own else d } o
  let n := (bladesOf cx.mask).length
  let table ← geoProbe cx.h o n .load
  cx.setMask
  pure {
    vm := true
    elem := fun i => do
      (List.range n).zip (← found table i) |>.forM fun p => do
        let r ← vectorLoad p.2 4
        modify fun s =>
          let s := s.gwrite cx.h o.a.toNat p.1 i 0 r.1 r.2
          (List.range cx.k).foldl (fun s t => s.gwrite cx.h o.a.toNat p.1 i (t + 1) 0) s
    fill := cx.fill
    finish := pure () }

def gstBody (o : GOps) : M VBody := do
  let s ← get
  let h := s.h
  if h.badGeometry then trap 7 h.vtype
  let k := s.tanFor true
  let g := o.a.toNat
  let mask := h.gmask g
  windowCheck (h.checkUse (h.guse g mask) k [] [])
  let n := (bladesOf mask).length
  let table ← geoProbe h o n .store
  pure (storeBody true (fun i => do
    (List.range n).zip (← found table i) |>.forM fun p => do
      let s ← get
      let b := s.gread h g p.1 i 0
      putElement .element p.2 (leBytes 4 b.val) b.bad) (pure ()))

/-- The registers from `v` on that stand for the blades of a mask, as one operand; bound queues are left out. -/
def bladeUse (h : Hart) (v n : Nat) (source : Bool) : Use :=
  h.groupUse v (((List.range n).map (v + ·)).filter fun r => !(source && h.queued r)) h.refBytes 1

/-- The registers of a blade operand that are read from their windows. -/
def bladeRegs (h : Hart) (v n : Nat) : List Nat := ((List.range n).map (v + ·)).filter (!h.queued ·)

def gfromvBody (o : GOps) : M VBody := do
  let h ← hart
  if h.badGeometry then trap 7 h.vtype
  let d := o.d.toNat
  let n := (bladesOf (if d = 0 then h.gmask o.a.toNat else d)).length
  let v := o.b.toNat
  let src := bladeUse h v n true
  let k := (← get).tanFor true
  let dest := h.guse o.a.toNat (if d = 0 then h.gmask o.a.toNat else d)
  overlapCheck k ((dest.windows ++ src.windows).map (·, true))
  windowCheck (firstFailure [h.checkUse dest k src.windows [], h.checkUse src k [] []])
  awaitFull (bladeRegs h v n) []
  let cx ← geoDispatch { b := .none, c := .none, infer := fun _ _ d own => if d = 0 then own else d } o
  cx.setMask
  pure {
    vm := true
    elem := fun i => do
      let res ← ((List.range n).zip (bladesOf cx.mask)).mapM fun p => do
        let b ← movedElem (v + p.1) 32 false i 0
        let ts ← readTangents cx.k (movedElem (v + p.1) 32 false i)
        pure (p.2, copied false b ts)
      cx.put i res
    fill := cx.fill
    finish := endBindings ((List.range n).map (v + ·)) }

/-- GTOV writes vector registers, so the mask clash of R267, of windows that carry a mask, is not asked of it: DEDUCED,
log 62. -/
def gtovBody (o : GOps) : M VBody := do
  let s ← get
  let h := s.h
  if h.badGeometry then trap 7 h.vtype
  let k := s.tanFor true
  let g := o.b.toNat
  let own := h.gmask g
  let mask := if o.d = 0 then own else o.d.toNat
  let v := o.a.toNat
  let n := (bladesOf mask).length
  let dest := bladeUse h v n false
  let src := h.guse g own
  overlapCheck k ((dest.windows ++ src.windows).map (·, true))
  windowCheck (firstFailure [h.checkUse dest k src.windows [], h.checkUse src k [] []])
  awaitFull [] ((List.range n).map (v + ·))
  awaitPushes dest.windows k
  let cx : GCtx := ⟨o, h, k, own, 0, mask, mask &&& own⟩
  let put (i : Nat) (cs : List Out) : M Unit :=
    (List.range n).zip cs |>.forM fun p => modify fun s =>
      (s.vwrite h (v + p.1) 32 false i 0 p.2.bits p.2.bad).writeTans h (v + p.1) 32 i p.2.tanBad 1 p.2.tans
  let none' : Out := { bits := 0, tans := List.replicate k 0 }
  pure {
    vm := true
    elem := fun i => do
      let cs ← (bladesOf mask).mapM fun m => do return ((← cx.copyComp false g own i m).getD none')
      put i cs
    fill := fun i => put i (List.replicate n { bits := 0xFFFFFFFF, tans := List.replicate k 0xFFFFFFFF })
    finish := pure () }

/-! ### Meanings -/

def execGprod (o : GOps) : State → Host.Outcome State Fault Refusal := run (bilinear .geometric o >>= runVector)
def execGwedge (o : GOps) : State → Host.Outcome State Fault Refusal := run (bilinear .wedge o >>= runVector)
def execGjoin (o : GOps) : State → Host.Outcome State Fault Refusal := run (bilinear .join o >>= runVector)
def execGinner (o : GOps) : State → Host.Outcome State Fault Refusal := run (bilinear .inner o >>= runVector)
def execGsand (o : GOps) : State → Host.Outcome State Fault Refusal := run (gsandBody o >>= runVector)
def execGrev (o : GOps) : State → Host.Outcome State Fault Refusal := run (grevBody o >>= runVector)
def execGdual (o : GOps) : State → Host.Outcome State Fault Refusal := run (gdualBody o >>= runVector)
def execGgrade (o : GOps) : State → Host.Outcome State Fault Refusal := run (ggradeBody o >>= runVector)
def execGnorm (o : GOps) : State → Host.Outcome State Fault Refusal := run (gnormBody o >>= runVector)
def execGadd (o : GOps) : State → Host.Outcome State Fault Refusal := run (gaddBody o >>= runVector)
def execGsub (o : GOps) : State → Host.Outcome State Fault Refusal := run (gsubBody o >>= runVector)
def execGscale (o : GOps) : State → Host.Outcome State Fault Refusal := run (gscaleBody o >>= runVector)
def execGld (o : GOps) : State → Host.Outcome State Fault Refusal := run (gldBody o >>= runVector)
def execGst (o : GOps) : State → Host.Outcome State Fault Refusal := run (gstBody o >>= runVector)
def execGexp (o : GOps) : State → Host.Outcome State Fault Refusal := run (gexpBody o >>= runVector)
def execGxsign (o : GOps) : State → Host.Outcome State Fault Refusal := run (gxsignBody o >>= runVector)
def execGsel (o : GOps) : State → Host.Outcome State Fault Refusal := run (gselBody o >>= runVector)
def execGfromv (o : GOps) : State → Host.Outcome State Fault Refusal := run (gfromvBody o >>= runVector)
def execGtov (o : GOps) : State → Host.Outcome State Fault Refusal := run (gtovBody o >>= runVector)

end Sys2Proof.Machine
end

