-- ==== Sys2Proof/Machine/Interval.lean ====
section
/-! DEFINITION. The interval unit, majors 53 to 55 (18 R286 to R297). -/
namespace Sys2Proof.Machine

/-! ### Elements (18 R287) -/

/-- What an element of an interval register is read as: NaI, the empty set, or the reals from `lo` to `hi`. -/
inductive Iv where
  | nai
  | empty
  | set (lo hi : Num)
  deriving DecidableEq, Repr

/-- Stored bounds read as an interval (18 R287). -/
def ivRead (f : FloatFmt) (lo hi : Nat) : Iv :=
  let a := f.value lo
  let b := f.value hi
  if a.isNan || b.isNan then .nai
  else if b.lt a || a == .inf false || b == .inf true then .empty
  else .set a b

/-- +0 for a zero bound. -/
def plusZero (v : Num) : Num := if v.isZero then .zero else v

/-- The canonical stored bounds (18 R287). -/
def ivBits (f : FloatFmt) : Iv → Nat × Nat
  | .nai => (f.canonical, f.canonical)
  | .empty => (f.maxCode + 1, f.signBit true + f.maxCode + 1)
  | .set lo hi => ((f.fit .rdn false 0 (plusZero lo)).bits, (f.fit .rup false 0 (plusZero hi)).bits)

/-- An interval of exact bounds rounded outward (18 R290). -/
def outward (f : FloatFmt) (lo hi : Val) : Iv :=
  let g (rm : Rm) (v : Val) : Num := plusZero (f.value ((Fmt.float f false).fitVal rm false 0 false v).bits)
  .set (g .rdn lo) (g .rup hi)

/-! ### Forward arithmetic (18 R290) -/

def numMin (a b : Num) : Num := if b.lt a then b else a
def numMax (a b : Num) : Num := if a.lt b then b else a
def numLe (a b : Num) : Bool := !b.lt a
def Num.positive (a : Num) : Bool := Num.zero.lt a
def Num.negative (a : Num) : Bool := a.lt .zero

/-- A product of bounds, 0 · ∞ being 0. -/
def boundMul (a b : Num) : Num := if a.isZero || b.isZero then .zero else (mulOf a b).1
/-- A sum of bounds on one side. -/
def boundAdd (a b : Num) : Num := (sumOf false [a, b]).1
/-- A quotient of bounds for a divisor that is not negative: a nonzero bound over 0 is an infinity, 0 over it is 0. -/
def boundDiv (a b : Num) : Num := if a.isZero then .zero else if b.isZero then .inf a.neg? else (divOf a b).1

/-- The image of an operation: its bounds, or none when it is empty. -/
abbrev Image := Option (Val × Val)

def both (lo hi : Num) : Image := some (.num lo, .num hi)

/-- [a, b] / (c, d] for 0 ≤ c < d or 0 < c ≤ d, without the point v = 0. -/
def divPositive (a b c d : Num) : Num × Num :=
  (if a.negative then boundDiv a c else boundDiv a d,
   if b.positive then boundDiv b c else boundDiv b d)

/-- The operations of major 53 on two sets (18 R290). -/
def ivAdd (a b c d : Num) : Image := both (boundAdd a c) (boundAdd b d)
def ivSub (a b c d : Num) : Image := both (boundAdd a d.negate) (boundAdd b c.negate)
def ivMul (a b c d : Num) : Image :=
  let ps := [boundMul a d, boundMul b c, boundMul b d]
  both (ps.foldl numMin (boundMul a c)) (ps.foldl numMax (boundMul a c))
def ivDiv (a b c d : Num) : Image :=
  if c.isZero && d.isZero then none
  else if a.isZero && b.isZero then both .zero .zero
  else if c.negative && d.positive then both (.inf true) (.inf false)
  else if d.positive then let r := divPositive a b c d; both r.1 r.2
  else let r := divPositive a b d.abs c.abs; both r.2.negate r.1.negate
def ivSqr (a b _ _ : Num) : Image :=
  let x := boundMul a a
  let y := boundMul b b
  if !a.negative then both x y else if !b.positive then both y x else both .zero (numMax x y)
def ivSqrt (a b _ _ : Num) : Image :=
  if b.negative then none else some (if a.negative then .num .zero else (sqrtOp (plusZero a)).1, (sqrtOp (plusZero b)).1)
def ivExp (a b _ _ : Num) : Image := some ((exp2Op a).1, (exp2Op b).1)
def ivLog (a b _ _ : Num) : Image :=
  if !b.positive then none else some (if a.positive then (log2Op a).1 else .num (.inf true), (log2Op b).1)
def ivNeg (a b _ _ : Num) : Image := both b.negate a.negate
def ivAbs (a b _ _ : Num) : Image :=
  if !a.negative then both a b else if !b.positive then both b.negate a.negate else both .zero (numMax a.negate b)
def ivMin (a b c d : Num) : Image := both (numMin a c) (numMin b d)
def ivMax (a b c d : Num) : Image := both (numMax a c) (numMax b d)

abbrev IvOp := Num → Num → Num → Num → Image

/-- A forward operation on two intervals; a unary one ignores the second (18 R290). -/
def forward (f : FloatFmt) (op : IvOp) (unary : Bool) (x y : Iv) : Iv :=
  match x, y with
  | .nai, _ => .nai
  | .set a b, .set c d => match op a b c d with
    | some (lo, hi) => outward f lo hi
    | none => .empty
  | .set a b, .empty => if unary then (match op a b a b with
    | some (lo, hi) => outward f lo hi
    | none => .empty) else .empty
  | .set a b, .nai => if unary then (match op a b a b with
    | some (lo, hi) => outward f lo hi
    | none => .empty) else .nai
  | .empty, .nai => if unary then .empty else .nai
  | .empty, _ => .empty

/-! ### Sets (18 R291, R294, R295) -/

/-- Intersection. -/
def Iv.meet : Iv → Iv → Iv
  | .nai, _ => .nai
  | _, .nai => .nai
  | .set a b, .set c d => let lo := numMax a c; let hi := numMin b d; if hi.lt lo then .empty else .set lo hi
  | _, _ => .empty
/-- The smallest interval that holds both. -/
def Iv.hull : Iv → Iv → Iv
  | .nai, _ => .nai
  | _, .nai => .nai
  | .set a b, .set c d => .set (numMin a c) (numMax b d)
  | .empty, y => y
  | x, .empty => x

def Iv.hasZero : Iv → Bool
  | .set lo hi => !lo.positive && !hi.negative
  | _ => false
def Iv.negated : Iv → Iv
  | .set lo hi => .set hi.negate lo.negate
  | x => x
/-- [lo, +∞] and [−∞, hi]. -/
def above (lo : Num) : Iv := .set lo (.inf false)
def below (hi : Num) : Iv := .set (.inf true) hi
def Iv.lo : Iv → Num
  | .set lo _ => lo
  | _ => .inf false
def Iv.hi : Iv → Num
  | .set _ hi => hi
  | _ => .inf true
/-- The nonnegative part. -/
def Iv.nonneg (x : Iv) : Iv := x.meet (above .zero)

/-- The largest finite value of a format. -/
def FloatFmt.maxValue (f : FloatFmt) : Num := f.value f.maxCode

/-- The midpoint of a set (18 R295). -/
def midpoint (f : FloatFmt) (lo hi : Num) : Num :=
  match lo, hi with
  | .fin s n d, .fin t m e =>
    let v := addRat (signed s n) d (signed t m) e
    plusZero (f.value (f.fit .rne false 0 (.ofRat v.1 (2 * v.2))).bits)
  | .inf _, .inf _ => .zero
  | .inf _, _ => f.maxValue.negate
  | _, _ => f.maxValue

/-! ### Contractors (18 R291) -/

/-- How a contractor narrows x and y, given z; `same` says that b and c name one window. -/
abbrev Narrow := FloatFmt → Bool → Iv → Iv → Iv → Iv × Iv

/-- Two steps in order, the second reading the result of the first. -/
def twoSteps (first : FloatFmt → Iv → Iv → Iv → Iv) (second : FloatFmt → Iv → Iv → Iv → Iv) : Narrow := fun f same z x y =>
  let x' := first f z x y
  let y := if same then x' else y
  (x', second f z x' y)

def fwd (f : FloatFmt) (op : IvOp) (x y : Iv) : Iv := forward f op false x y

def narrowAdd : Narrow := twoSteps (fun f z x y => x.meet (fwd f ivSub z y)) (fun f z x' y => y.meet (fwd f ivSub z x'))
def narrowSub : Narrow := twoSteps (fun f z x y => x.meet (fwd f ivAdd z y)) (fun f z x' y => y.meet (fwd f ivSub x' z))
def narrowMul : Narrow := twoSteps
  (fun f z x y => if z.hasZero && y.hasZero then x else x.meet (fwd f ivDiv z y))
  (fun f z x' y => if z.hasZero && x'.hasZero then y else y.meet (fwd f ivDiv z x'))
def narrowDiv : Narrow := twoSteps (fun f z x y => x.meet (fwd f ivMul z y))
  (fun f z x' y => if x'.hasZero && z.hasZero then y else y.meet (fwd f ivDiv x' z))

/-- A one-operand contractor: x and y are the same. -/
def oneStep (step : FloatFmt → Iv → Iv → Iv) : Narrow := fun f _ z x _ => let x' := step f z x; (x', x')
/-- x meets r and −r, and the hull of the two. -/
def meetBoth (x r : Iv) : Iv := (x.meet r).hull (x.meet r.negated)

def narrowSqr : Narrow := oneStep fun f z x => meetBoth x (forward f ivSqrt true z.nonneg .empty)
def narrowSqrt : Narrow := oneStep fun f z x => x.meet (forward f ivSqr true z.nonneg .empty)
def narrowExp : Narrow := oneStep fun f z x => x.meet (forward f ivLog true z .empty)
def narrowLog : Narrow := oneStep fun f z x => x.meet (forward f ivExp true z .empty)
def narrowNeg : Narrow := oneStep fun _ z x => x.meet z.negated
def narrowAbs : Narrow := oneStep fun _ z x => meetBoth x z.nonneg

def narrowMin : Narrow := fun _ same z x y =>
  let x1 := x.meet (above z.lo)
  let y1 := if same then x1 else y.meet (above z.lo)
  (if z.hi.lt y1.lo then x1.meet z else x1, if z.hi.lt x1.lo then y1.meet z else y1)
def narrowMax : Narrow := fun _ same z x y =>
  let x1 := x.meet (below z.hi)
  let y1 := if same then x1 else y.meet (below z.hi)
  (if y1.hi.lt z.lo then x1.meet z else x1, if x1.hi.lt z.lo then y1.meet z else y1)

/-- A contractor on values: NaI spreads, an empty operand empties both (18 R291). -/
def contract (n : Narrow) (f : FloatFmt) (same : Bool) (z x y : Iv) : Iv × Iv :=
  if z = .nai || x = .nai || y = .nai then (.nai, .nai)
  else
    let r := n f same z x y
    if z = .empty || r.1 = .empty || r.2 = .empty then (.empty, .empty) else r

/-- The width of a set as a rational, none when it is unbounded. -/
def Iv.width : Iv → Option (Int × Nat)
  | .set (.fin s n d) (.fin t m e) => some (addRat (signed t m) e (-(signed s n)) d)
  | _ => none

/-- Whether narrowing passes the threshold (18 R293). -/
def narrowedPast (thr : Nat) (old new : Iv) : Bool :=
  match old, new with
  | .set _ _, .empty => true
  | .set _ _, .set _ _ =>
    match old.width, new.width with
    | none, some _ => true
    | some w, some w' =>
      let diff := addRat w.1 w.2 (-w'.1) w'.2
      thr * w.1 * diff.2 < 256 * diff.1 * w.2
    | _, _ => false
  | _, _ => false

/-! ### Dispatch and elements (18 R286, R289) -/

def ivFmt (p : Bool) : FloatFmt := if p then fp64 else fp32
def ivWidth (p : Bool) : Nat := if p then 64 else 32

/-- An interval register as an operand (18 R286). -/
def Hart.iuse (h : Hart) (i : Nat) : Use := ⟨[(h.iwin i, 2 * h.refBytes, 1)], none⟩

/-- The place of a bound of element `i` (18 R286). -/
def State.boundRead (s : State) (h : Hart) (r w i : Nat) (upper : Bool) : Bits :=
  s.laneRead h.stop (h.lane0 + i % h.lanes) (h.firstByte (h.iwin r) + (if upper then h.refBytes else 0) + i / h.lanes * (w / 8)) (w / 8)
def State.boundWrite (s : State) (h : Hart) (r w i : Nat) (upper : Bool) (v : Nat) (bad : Bool := false) : State :=
  s.laneWrite h.stop (h.lane0 + i % h.lanes) (h.firstByte (h.iwin r) + (if upper then h.refBytes else 0) + i / h.lanes * (w / 8)) (w / 8) v bad

/-- What an instruction's field names. -/
inductive IvKind where
  | iv | vec | mask | none
  deriving DecidableEq, Repr

/-- An interval instruction after its checks. -/
structure ICtx where
  o : IvOps
  h : Hart

def ICtx.f (cx : ICtx) : FloatFmt := ivFmt cx.o.p
def ICtx.w (cx : ICtx) : Nat := ivWidth cx.o.p
/-- Tangents of a vector destination that become +0 (11 R233). -/
def ICtx.k (cx : ICtx) : Nat := if cx.h.tan then cx.h.tanCount else 0

/-- An operand of a kind: its use, none when it is a bound queue as a source. -/
def Hart.ivUse (h : Hart) (kind : IvKind) (r w : Nat) (source : Bool) : List Use :=
  match kind with
  | .iv => [h.iuse r]
  | .vec => if source && h.queued r then [] else [h.vuse r w]
  | .mask => [h.muse r]
  | .none => []

/-- The vector registers that a source field reads. -/
def Hart.ivRegs (h : Hart) (kind : IvKind) (r : Nat) (source : Bool) : List Nat :=
  if kind = .vec && !(source && h.queued r) then [r] else []

/-- The type check of R289. -/
def Hart.badInterval (h : Hart) (p : Bool) : Bool := h.badType || h.group ≠ 1 || h.sewCode ≠ (if p then 19 else 18)

def windowsOf (us : List Use) : List Window := us.flatMap Use.windows

/-- Dispatch of a forward or set instruction with destination a; `bDest` for ISPLIT, `pair` for the compares. Of a pair of
windows that share bytes the first in the order a, b, c, m[a+1], m0 is named; m[a+1] has its own checks at its place in that order
(DEDUCED, log 25). -/
def ivDispatch (ka kb kc : IvKind) (bDest pair : Bool) (o : IvOps) : M ICtx := do
  let h ← hart
  if h.badInterval o.p then trap 7 h.vtype
  let w := ivWidth o.p
  if pair && o.a.toNat % 8 = 7 then trap 9 0x043
  let a := h.ivUse ka o.a.toNat w false
  let b := h.ivUse kb o.b.toNat w (!bDest)
  let c := h.ivUse kc o.c.toNat w true
  let m0 := if o.vm then [] else [h.muse 0]
  let a2 := if pair then [h.muse (o.a.toNat + 1)] else []
  -- the masks of a compare never overlap m0 (18 R296); m0 as another instruction's destination is the exception of R178
  let guard := if pair then [h.muse 0] else m0
  let aNever := windowsOf ((if bDest then b else []) ++ a2 ++ (if ka = .mask && o.a = 0 && !pair then [] else guard))
  windowCheck (firstFailure (
    a.map (h.checkUse · 0 (windowsOf ((if bDest then [] else b) ++ c)) aNever)
      ++ b.map (h.checkUse · 0 (if bDest then windowsOf c else windowsOf a2) (if bDest then windowsOf m0 else []))
      ++ c.map (h.checkUse · 0 (windowsOf a2) [])
      ++ a2.map (h.checkUse · 0 [] (windowsOf guard))
      ++ m0.map (h.checkUse · 0 [] [])))
  awaitFull (h.ivRegs kb o.b.toNat true ++ h.ivRegs kc o.c.toNat true) (h.ivRegs ka o.a.toNat false)
  awaitPushes (windowsOf (a ++ (if bDest then b else []) ++ a2)) (if ka = .vec && h.tan then h.tanCount else 0)
  pure ⟨o, h⟩

/-- Dispatch of a contractor: a is read, b and c are narrowed in place (18 R289, R291). -/
def contractDispatch (unary : Bool) (o : IvOps) : M ICtx := do
  let h ← hart
  if h.badInterval o.p then trap 7 h.vtype
  let a := h.iuse o.a.toNat
  let b := h.iuse o.b.toNat
  let c := if unary then [] else [h.iuse o.c.toNat]
  let m0 := if o.vm then [] else [h.muse 0]
  windowCheck (firstFailure (
    [h.checkUse a 0 (windowsOf (b :: c)) [], h.checkUse b 0 (windowsOf c) (windowsOf m0)]
      ++ c.map (h.checkUse · 0 [] (windowsOf m0)) ++ m0.map (h.checkUse · 0 [] [])))
  awaitPushes (windowsOf (b :: c))
  pure ⟨o, h⟩

/-- Reads element `i` of interval register `r`. -/
def ICtx.read (cx : ICtx) (r i : Nat) : M Iv := do
  let s ← get
  let lo ← consume (s.boundRead cx.h r cx.w i false)
  let hi ← consume (s.boundRead cx.h r cx.w i true)
  pure (ivRead cx.f lo hi)

def ICtx.putBits (cx : ICtx) (r i : Nat) (b : Nat × Nat) : M Unit := modify fun s =>
  (s.boundWrite cx.h r cx.w i false b.1).boundWrite cx.h r cx.w i true b.2
def ICtx.ones (cx : ICtx) (r i : Nat) : M Unit := cx.putBits r i (2 ^ cx.w - 1, 2 ^ cx.w - 1)

/-- Sets bits of HSTAT (18 R292). -/
def setHstat (bits : Word) : M Unit := modHart fun h => { h with hstat := h.hstat ||| bits }
/-- Writes an interval in canonical form; an empty one sets EMPTY (18 R293). -/
def ICtx.write (cx : ICtx) (r i : Nat) (x : Iv) : M Unit := do
  if x = .empty then setHstat 1
  cx.putBits r i (ivBits cx.f x)

/-- Writes an element of a vector destination; its tangents become +0. -/
def ICtx.putVec (cx : ICtx) (r i v : Nat) : M Unit := modify fun s =>
  (s.vwrite cx.h r cx.w false i 0 v).writeTans cx.h r cx.w i [] 1 (List.replicate cx.k 0)

/-- The element loop of an interval instruction. -/
def ivLoop (cx : ICtx) (elem fill : Nat → M Unit) (queues : List Nat) : M VBody :=
  pure { vm := cx.o.vm, elem := elem, fill := fill, finish := endBindings queues }

/-- A forward instruction (18 R290). -/
def ivForward (op : IvOp) (unary : Bool) (o : IvOps) : M VBody := do
  let cx ← ivDispatch .iv .iv (if unary then .none else .iv) false false o
  let a := o.a.toNat
  ivLoop cx (fun i => do
    let x ← cx.read o.b.toNat i
    let y ← if unary then pure .empty else cx.read o.c.toNat i
    cx.write a i (forward cx.f op unary x y)) (cx.ones a) []

def iaddBody (o : IvOps) : M VBody := ivForward ivAdd false o
def isubBody (o : IvOps) : M VBody := ivForward ivSub false o
def imulBody (o : IvOps) : M VBody := ivForward ivMul false o
def idivBody (o : IvOps) : M VBody := ivForward ivDiv false o
def isqrBody (o : IvOps) : M VBody := ivForward ivSqr true o
def isqrtBody (o : IvOps) : M VBody := ivForward ivSqrt true o
def iexpBody (o : IvOps) : M VBody := ivForward ivExp true o
def ilogBody (o : IvOps) : M VBody := ivForward ivLog true o
def inegBody (o : IvOps) : M VBody := ivForward ivNeg true o
def iabsBody (o : IvOps) : M VBody := ivForward ivAbs true o
def iminBody (o : IvOps) : M VBody := ivForward ivMin false o
def imaxBody (o : IvOps) : M VBody := ivForward ivMax false o

/-- A contractor (18 R291, R293): inactive and tail elements keep their values. -/
def ivContract (n : Narrow) (unary : Bool) (o : IvOps) : M VBody := do
  let cx ← contractDispatch unary o
  let b := o.b.toNat
  let c := if unary then b else o.c.toNat
  let same := unary || (cx.h.iwin b).same (cx.h.iwin c)
  pure (keepBody o.vm (fun i => do
    let z ← cx.read o.a.toNat i
    let x ← cx.read b i
    let y ← cx.read c i
    let r := contract n cx.f same z x y
    let thr := cx.h.ictl.toNat % 256
    if narrowedPast thr x r.1 || narrowedPast thr y r.2 then setHstat 2
    cx.write b i r.1
    cx.write c i r.2) (pure ()))

def caddBody (o : IvOps) : M VBody := ivContract narrowAdd false o
def csubBody (o : IvOps) : M VBody := ivContract narrowSub false o
def cmulBody (o : IvOps) : M VBody := ivContract narrowMul false o
def cdivBody (o : IvOps) : M VBody := ivContract narrowDiv false o
def csqrBody (o : IvOps) : M VBody := ivContract narrowSqr true o
def csqrtBody (o : IvOps) : M VBody := ivContract narrowSqrt true o
def cexpBody (o : IvOps) : M VBody := ivContract narrowExp true o
def clogBody (o : IvOps) : M VBody := ivContract narrowLog true o
def cnegBody (o : IvOps) : M VBody := ivContract narrowNeg true o
def cabsBody (o : IvOps) : M VBody := ivContract narrowAbs true o
def cminBody (o : IvOps) : M VBody := ivContract narrowMin false o
def cmaxBody (o : IvOps) : M VBody := ivContract narrowMax false o

/-! ### Set operations and conversions (18 R294 to R296) -/

/-- An instruction of two intervals with an interval result. -/
def ivSet (op : Iv → Iv → Iv) (o : IvOps) : M VBody := do
  let cx ← ivDispatch .iv .iv .iv false false o
  let a := o.a.toNat
  ivLoop cx (fun i => do
    let x ← cx.read o.b.toNat i
    let y ← cx.read o.c.toNat i
    cx.write a i (op x y)) (cx.ones a) []

def ihullBody (o : IvOps) : M VBody := ivSet Iv.hull o
def imeetBody (o : IvOps) : M VBody := ivSet Iv.meet o

/-- The halves of ISPLIT. -/
def ivSplit (f : FloatFmt) : Iv → Iv × Iv
  | .set lo hi => let m := midpoint f lo hi; (.set lo m, .set m hi)
  | x => (x, x)

def isplitBody (o : IvOps) : M VBody := do
  let cx ← ivDispatch .iv .iv .iv true false o
  ivLoop cx (fun i => do
    let x ← cx.read o.c.toNat i
    let r := ivSplit cx.f x
    cx.write o.a.toNat i r.1
    cx.write o.b.toNat i r.2) (fun i => do
      cx.ones o.a.toNat i
      cx.ones o.b.toNat i) []

/-- An instruction that writes a vector from an interval: `g` on the value and its stored bounds. -/
def ivToVec (g : FloatFmt → Iv → Nat → Nat → Nat) (o : IvOps) : M VBody := do
  let cx ← ivDispatch .vec .iv .none false false o
  let a := o.a.toNat
  ivLoop cx (fun i => do
    let s ← get
    let lo ← consume (s.boundRead cx.h o.b.toNat cx.w i false)
    let hi ← consume (s.boundRead cx.h o.b.toNat cx.w i true)
    cx.putVec a i (g cx.f (ivRead cx.f lo hi) lo hi)) (fun i => cx.putVec a i (2 ^ cx.w - 1)) []

def imidBody (o : IvOps) : M VBody := ivToVec (fun f x _ _ => match x with
  | .set lo hi => (f.fit .rne false 0 (midpoint f lo hi)).bits
  | _ => f.canonical) o
def iwidBody (o : IvOps) : M VBody := ivToVec (fun f x _ _ => match x with
  | .set lo hi => (f.fit .rup false 0 (sumOf false [hi, lo.negate]).1).bits
  | _ => f.canonical) o
def iloBody (o : IvOps) : M VBody := ivToVec (fun f x lo _ => match x with
  | .set _ _ => lo
  | .empty => (ivBits f .empty).1
  | .nai => f.canonical) o
def ihiBody (o : IvOps) : M VBody := ivToVec (fun f x _ hi => match x with
  | .set _ _ => hi
  | .empty => (ivBits f .empty).2
  | .nai => f.canonical) o

/-- The interval of two bounds of IMK (18 R294). -/
def makeInterval (lo hi : Num) : Iv :=
  if lo.isNan || hi.isNan || hi.lt lo || lo == .inf false || hi == .inf true then .nai else .set lo hi

def imkBody (o : IvOps) : M VBody := do
  let cx ← ivDispatch .iv .vec .vec false false o
  let a := o.a.toNat
  ivLoop cx (fun i => do
    let lo ← sourceElem o.b.toNat cx.w false i 0
    let hi ← sourceElem o.c.toNat cx.w false i 0
    cx.write a i (makeInterval (cx.f.value lo) (cx.f.value hi))) (cx.ones a) [o.b.toNat, o.c.toNat]

/-- A three-valued compare: certainly true and certainly false on two sets (18 R296). -/
def ivCompare (yes no : Num → Num → Num → Num → Bool) (o : IvOps) : M VBody := do
  let cx ← ivDispatch .mask .iv .iv false true o
  let a := o.a.toNat
  let put (i t u : Nat) : M Unit := modify fun s => (s.mwrite cx.h a i t).mwrite cx.h (a + 1) i u
  ivLoop cx (fun i => do
    let x ← cx.read o.b.toNat i
    let y ← cx.read o.c.toNat i
    match x, y with
    | .set lo hi, .set lo' hi' =>
      if yes lo hi lo' hi' then put i 1 0 else if no lo hi lo' hi' then put i 0 0 else put i 0 1
    | _, _ => put i 0 1) (fun i => put i 1 1) []

def icmpltBody (o : IvOps) : M VBody :=
  ivCompare (fun _ hi lo' _ => hi.lt lo') (fun lo _ _ hi' => numLe hi' lo) o
def icmpleBody (o : IvOps) : M VBody :=
  ivCompare (fun _ hi lo' _ => numLe hi lo') (fun lo _ _ hi' => hi'.lt lo) o
def icmpeqBody (o : IvOps) : M VBody :=
  ivCompare (fun lo hi lo' hi' => lo.eq hi && hi.eq lo' && lo'.eq hi') (fun lo hi lo' hi' => hi.lt lo' || hi'.lt lo) o

/-- Writes a mask bit from an instruction's test. -/
def ivMask (kb kc : IvKind) (test : ICtx → Nat → M Bool) (o : IvOps) : M VBody := do
  let cx ← ivDispatch .mask kb kc false false o
  let a := o.a.toNat
  ivLoop cx (fun i => do
    let t ← test cx i
    modify fun s => s.mwrite cx.h a i (if t then 1 else 0)) (fun i => modify fun s => s.mwrite cx.h a i 1)
    (if kb = .vec then [o.b.toNat] else [])

def iinBody (o : IvOps) : M VBody := ivMask .vec .iv (fun cx i => do
  let b ← sourceElem o.b.toNat cx.w false i 0
  let v := cx.f.value b
  let x ← cx.read o.c.toNat i
  match x with
  | .set lo hi => pure (v.isFinite && numLe lo v && numLe v hi)
  | _ => pure false) o
def iemptyBody (o : IvOps) : M VBody := ivMask .iv .none (fun cx i => do
  let x ← cx.read o.b.toNat i
  pure (x == .empty)) o
def isubsetBody (o : IvOps) : M VBody := ivMask .iv .iv (fun cx i => do
  let x ← cx.read o.b.toNat i
  let y ← cx.read o.c.toNat i
  match x, y with
  | .nai, _ => pure false
  | _, .nai => pure false
  | .empty, _ => pure true
  | .set lo hi, .set lo' hi' => pure (numLe lo' lo && numLe hi hi')
  | .set _ _, .empty => pure false) o

/-! ### Loads and stores (18 R297) -/

/-- Dispatch of ILD and IST. -/
def ivMemDispatch (o : VmOps) (load : Bool) : M Hart := do
  let h ← hart
  if h.badInterval (o.eew == 3) then trap 7 h.vtype
  let d := h.iuse o.a.toNat
  let idx := h.sourceUse (o.mode == 2) o.c.toNat h.sew
  let m0 := if o.vm then [] else [h.muse 0]
  windowCheck (firstFailure ([h.checkUse d 0 (if load then windowsOf idx else []) (if load then windowsOf m0 else [])]
    ++ idx.map (h.checkUse · 0 [] []) ++ m0.map (h.checkUse · 0 [] [])))
  awaitFull (if idx.isEmpty then [] else [o.c.toNat]) []
  if load then awaitPushes d.windows
  pure h

/-- Address of element `i`. -/
def ivAddr (h : Hart) (o : VmOps) (n i : Nat) : M Word := do
  let base := h.get o.b
  if o.mode = 0 then pure (base + BitVec.ofNat 64 (2 * n * i))
  else if o.mode = 1 then pure (base + BitVec.ofNat 64 i * h.get (o.c.setWidth 5))
  else
    let x ← sourceElem o.c.toNat h.sew false i 0
    pure (base + BitVec.ofNat 64 x)

/-- The probe pass of ILD and IST over both bounds of each element (18 R297). -/
def ivProbe (h : Hart) (o : VmOps) (n : Nat) (acc : Access) : M ProbeTable :=
  probePass true (o.mode != 2) acc o.vm (fun i => do
    let va ← ivAddr h o n i
    pure [(va, n), (va + BitVec.ofNat 64 n, n)]) h.elements []

/-- The places of the two bounds of an element; whether they are accessed as one (18 R297). -/
def ivPlaces (table : ProbeTable) (n i : Nat) : M (Nat × Nat × Bool) := do
  let locs ← found table i
  let lo := locs.headD 0
  pure (lo, (locs[1]?).getD 0, n == 4 && lo % 8 == 0)

def ildBody (o : VmOps) : M VBody := do
  let h ← ivMemDispatch o true
  let w := ivWidth (o.eew == 3)
  let n := w / 8
  let r := o.a.toNat
  let table ← ivProbe h o n .load
  let put (i : Nat) (lo hi : Nat × Bool) : M Unit := modify fun s =>
    (s.boundWrite h r w i false lo.1 lo.2).boundWrite h r w i true hi.1 hi.2
  pure {
    vm := o.vm
    elem := fun i => do
      let (lo, hi, whole) ← ivPlaces table n i
      if whole then
        let x ← vectorLoad lo 8
        put i (x.1 % 2 ^ 32, x.2) (x.1 / 2 ^ 32, x.2)
      else
        let x ← vectorLoad lo n
        put i x (← vectorLoad hi n)
    fill := fun i => put i (2 ^ w - 1, false) (2 ^ w - 1, false)
    finish := endBindings (if o.mode = 2 then [o.c.toNat] else []) }

def istBody (o : VmOps) : M VBody := do
  let h ← ivMemDispatch o false
  let w := ivWidth (o.eew == 3)
  let n := w / 8
  let r := o.a.toNat
  let table ← ivProbe h o n .store
  pure (storeBody o.vm (fun i => do
    let (lo, hi, whole) ← ivPlaces table n i
    let s ← get
    let x := s.boundRead h r w i false
    let y := s.boundRead h r w i true
    checkSdm lo x.bad
    checkSdm hi y.bad
    if whole then putElement .element lo (leBytes 4 x.val ++ leBytes 4 y.val) (if x.bad.isSome then x.bad else y.bad)
    else
      putElement .element lo (leBytes n x.val) x.bad
      putElement .element hi (leBytes n y.val) y.bad) (endBindings (if o.mode = 2 then [o.c.toNat] else [])))

/-! ### Meanings -/

def execIadd (o : IvOps) : State → Host.Outcome State Fault Refusal := run (iaddBody o >>= runVector)
def execIsub (o : IvOps) : State → Host.Outcome State Fault Refusal := run (isubBody o >>= runVector)
def execImul (o : IvOps) : State → Host.Outcome State Fault Refusal := run (imulBody o >>= runVector)
def execIdiv (o : IvOps) : State → Host.Outcome State Fault Refusal := run (idivBody o >>= runVector)
def execIsqr (o : IvOps) : State → Host.Outcome State Fault Refusal := run (isqrBody o >>= runVector)
def execIsqrt (o : IvOps) : State → Host.Outcome State Fault Refusal := run (isqrtBody o >>= runVector)
def execIexp (o : IvOps) : State → Host.Outcome State Fault Refusal := run (iexpBody o >>= runVector)
def execIlog (o : IvOps) : State → Host.Outcome State Fault Refusal := run (ilogBody o >>= runVector)
def execIneg (o : IvOps) : State → Host.Outcome State Fault Refusal := run (inegBody o >>= runVector)
def execIabs (o : IvOps) : State → Host.Outcome State Fault Refusal := run (iabsBody o >>= runVector)
def execImin (o : IvOps) : State → Host.Outcome State Fault Refusal := run (iminBody o >>= runVector)
def execImax (o : IvOps) : State → Host.Outcome State Fault Refusal := run (imaxBody o >>= runVector)
def execCadd (o : IvOps) : State → Host.Outcome State Fault Refusal := run (caddBody o >>= runVector)
def execCsub (o : IvOps) : State → Host.Outcome State Fault Refusal := run (csubBody o >>= runVector)
def execCmul (o : IvOps) : State → Host.Outcome State Fault Refusal := run (cmulBody o >>= runVector)
def execCdiv (o : IvOps) : State → Host.Outcome State Fault Refusal := run (cdivBody o >>= runVector)
def execCsqr (o : IvOps) : State → Host.Outcome State Fault Refusal := run (csqrBody o >>= runVector)
def execCsqrt (o : IvOps) : State → Host.Outcome State Fault Refusal := run (csqrtBody o >>= runVector)
def execCexp (o : IvOps) : State → Host.Outcome State Fault Refusal := run (cexpBody o >>= runVector)
def execClog (o : IvOps) : State → Host.Outcome State Fault Refusal := run (clogBody o >>= runVector)
def execCneg (o : IvOps) : State → Host.Outcome State Fault Refusal := run (cnegBody o >>= runVector)
def execCabs (o : IvOps) : State → Host.Outcome State Fault Refusal := run (cabsBody o >>= runVector)
def execCmin (o : IvOps) : State → Host.Outcome State Fault Refusal := run (cminBody o >>= runVector)
def execCmax (o : IvOps) : State → Host.Outcome State Fault Refusal := run (cmaxBody o >>= runVector)
def execIhull (o : IvOps) : State → Host.Outcome State Fault Refusal := run (ihullBody o >>= runVector)
def execImeet (o : IvOps) : State → Host.Outcome State Fault Refusal := run (imeetBody o >>= runVector)
def execIsplit (o : IvOps) : State → Host.Outcome State Fault Refusal := run (isplitBody o >>= runVector)
def execImid (o : IvOps) : State → Host.Outcome State Fault Refusal := run (imidBody o >>= runVector)
def execIwid (o : IvOps) : State → Host.Outcome State Fault Refusal := run (iwidBody o >>= runVector)
def execIlo (o : IvOps) : State → Host.Outcome State Fault Refusal := run (iloBody o >>= runVector)
def execIhi (o : IvOps) : State → Host.Outcome State Fault Refusal := run (ihiBody o >>= runVector)
def execImk (o : IvOps) : State → Host.Outcome State Fault Refusal := run (imkBody o >>= runVector)
def execIcmplt (o : IvOps) : State → Host.Outcome State Fault Refusal := run (icmpltBody o >>= runVector)
def execIcmple (o : IvOps) : State → Host.Outcome State Fault Refusal := run (icmpleBody o >>= runVector)
def execIcmpeq (o : IvOps) : State → Host.Outcome State Fault Refusal := run (icmpeqBody o >>= runVector)
def execIin (o : IvOps) : State → Host.Outcome State Fault Refusal := run (iinBody o >>= runVector)
def execIempty (o : IvOps) : State → Host.Outcome State Fault Refusal := run (iemptyBody o >>= runVector)
def execIsubset (o : IvOps) : State → Host.Outcome State Fault Refusal := run (isubsetBody o >>= runVector)
def execIld (o : VmOps) : State → Host.Outcome State Fault Refusal := run (ildBody o >>= runVector)
def execIst (o : VmOps) : State → Host.Outcome State Fault Refusal := run (istBody o >>= runVector)

end Sys2Proof.Machine
end

