-- ==== Sys2Proof/Machine/Fetch.lean ====
section
/-! DEFINITION. Fetching an instruction's parcels (03 R28, R29, R45, 06 R118). -/
namespace Sys2Proof.Machine

/-- What the instruction cache of a core has taken in, latest first (02 R19). -/
def State.icache (s : State) (stop : Nat) : List (Nat × Parcel) :=
  match s.icaches.find? (·.1 == stop) with
  | some c => c.2
  | none => []

/-- Takes a parcel into the instruction cache of a core. -/
def State.cacheParcel (s : State) (stop loc : Nat) (p : Parcel) : State :=
  { s with icaches := (stop, (loc, p) :: s.icache stop) :: s.icaches.filter (·.1 != stop) }

/-- The parcels that the instruction cache may give the hart in focus for a location: those taken in since its last FENCE.I
(06 R118). -/
def State.cachedAt (s : State) (loc : Nat) : List Parcel :=
  let c := s.icache s.h.stop
  ((c.take (c.length - s.h.ifence)).filter (·.1 == loc)).map (·.2)

/-- The parcel at a location as memory holds it now. -/
def State.parcelNow (s : State) (va : Word) (loc : Nat) : Except Fail Parcel × State :=
  if marked s.poison loc 2 then (.error (13, va), s)
  else
    let (bs, s) := s.rawRead loc 2
    (.ok (BitVec.ofNat 16 (leNat bs)), s)

/-- Whether a fetch finds a parcel that the cache holds. -/
def sameFetch (now : Except Fail Parcel) (held : Parcel) : Bool :=
  match now with
  | .ok p => p == held
  | .error _ => false

/-- Fetches one parcel: what memory holds now, or, where they differ, what a hart of the core fetched at that location since
this hart's last FENCE.I (02 R19, 06 R118, log 9). -/
def fetchParcel (va : Word) : M Parcel := do
  if va.getLsbD 0 then trap 2 va
  let loc ← locate va .fetch
  if regionOf loc = .control then trap 6 va
  let now ← modifyGet fun s => s.parcelNow va loc
  let held := (← get).cachedAt loc
  let others := held.filter (!sameFetch now ·)
  let i ← choose (others.length + 1)
  match (i, now) with
  | (0, .error (c, v)) => trap c v
  | (0, .ok p) =>
    if !held.contains p then modify fun s => s.cacheParcel s.h.stop loc p
    pure p
  | (n + 1, _) => pure ((others[n]?).getD 0)

/-- The parcels after the first, upward. -/
def fetchRest (va : Word) : Nat → M Nat
  | 0 => pure 0
  | n + 1 => do
    let p ← fetchParcel va
    let r ← fetchRest (va + 2) n
    pure (p.toNat + 65536 * r)

/-- Every parcel of the instruction at an address, before its legality is judged (03 R45). -/
def fetchCode (va : Word) : M Code := do
  let p ← fetchParcel va
  let n := lengthOf p
  let r ← fetchRest (va + 2) (n - 1)
  pure ⟨n, BitVec.ofNat 64 (p.toNat + 65536 * r)⟩

end Sys2Proof.Machine
end

