-- ==== Sys2Proof/Machine/LaneBlock.lean ====
section
/-! DEFINITION. Lane blocks: VFETCH and LEND (10 R219 to R223). One execution of VFETCH performs one step of its block; the
pc stays at the VFETCH until the block ends. -/
namespace Sys2Proof.Machine

/-! ### Dispatch (10 R219) -/

/-- The offset of the first LEND that begins an instruction, among `n` parcels from offset `o` of the block at `base`. The spec
does not say what a parcel that cannot be fetched does to the search: it is the trap of that fetch, before the other checks of
the dispatch (DESIGN CHOICE, log 81). -/
def findLend (base : Word) (o : Nat) : Nat → M (Option Nat)
  | 0 => pure none
  | n + 1 => do
    if 4096 ≤ o then pure none
    else
      let va := base + BitVec.ofNat 64 (2 * o)
      let p ← fetchParcel va
      let second ← if p = 0xDA02 then fetchParcel (va + 2) else pure 1
      if p = 0xDA02 && second = 0 then pure (some o) else findLend base (o + lengthOf p) n

/-- The lane-PC windows. -/
def Hart.laneUse (h : Hart) (v : BitVec 5) : Use := h.vuse v.toNat 32

/-- Dispatch of VFETCH: the LEND, the type, the lane-PC windows, the participating elements. -/
def laneDispatch (v : BitVec 5) (vm : Bool) : M LaneBlock := do
  let h ← hart
  match ← findLend (h.pc + 4) 0 4096 with
  | none => illegal (codeV 45 1 ⟨v, 0, 0, false, false, 0, vm, 0⟩)
  | some stop =>
    if h.badType || h.sliced then trap 7 h.vtype
    let m0 := if vm then [] else [h.muse 0]
    let use := h.laneUse v
    windowCheck (firstFailure (h.checkUse use 0 [] (m0.flatMap Use.windows) :: m0.map (h.checkUse · 0 [] [])))
    awaitFull (h.groupRegs v.toNat) (h.groupRegs v.toNat)
    awaitPushes use.windows
    let parts ← actives vm ((List.range (h.length - h.start)).map (h.start + ·))
    pure { parts := parts, stop := stop }

/-! ### One step (10 R220 to R222) -/

/-- Performs `f` on elements in turn: those done, and how the first that was not done stopped. -/
def laneEach {α : Type} (f : α → M Unit) : List α → M (List α × Option Stop)
  | [] => pure ([], none)
  | x :: xs => do
    match ← tryCatch (do f x; pure none) (fun e => pure (some e)) with
    | some e => pure ([], some e)
    | none =>
      let r ← laneEach f xs
      pure (x :: r.1, r.2)

/-- The elements of a step by blocks of 32. -/
def laneBlocks (is : List Nat) : List (Nat × List Nat) :=
  (is.foldl (fun ks i => insertSorted ks (i / 32)) []).map fun k => (k, is.filter (· / 32 == k))

/-- What a step performs of a list, and whether that is all of it: a step may stop after any element (10 R223, log 24). -/
def cutShort {α : Type} (xs : List α) : M (List α × Bool) := do
  match (← get).part with
  | some k => pure (xs.take (k + 1), decide (xs.length ≤ k + 1))
  | none => pure (xs, true)

/-- Performs a dispatched instruction for the elements of a step; VSTART, MP and TP play no part (10 R220). -/
def laneBody (b : VBody) (is : List Nat) : M (List Nat × Option Stop) := do
  match b.block with
  | none =>
    let (xs, all) ← cutShort is
    let r ← laneEach (fun i => do if ← active b.vm i then b.elem i) xs
    if r.2.isNone && all then b.finish
    pure r
  | some f =>
    let (xs, all) ← cutShort (laneBlocks is)
    let r ← laneEach (fun p => do f p.1 (← actives b.vm p.2)) xs
    if r.2.isNone && all then b.finish
    pure (r.1.flatMap (·.2), r.2)

/-- The V-format instructions that run inside a block: how each is dispatched (10 R220). -/
def laneVector : Instr → Option (VOps × M VBody)
  | .vcmpEq o => some (o, vcmpEqBody o)
  | .vcmpNe o => some (o, vcmpNeBody o)
  | .vcmpLt o => some (o, vcmpLtBody o)
  | .vcmpLe o => some (o, vcmpLeBody o)
  | .vcmpGt o => some (o, vcmpGtBody o)
  | .vcmpGe o => some (o, vcmpGeBody o)
  | .vcmpUn o => some (o, vcmpUnBody o)
  | .vcmpOrd o => some (o, vcmpOrdBody o)
  | .vadd o => some (o, vaddBody o)
  | .vsub o => some (o, vsubBody o)
  | .vrsub o => some (o, vrsubBody o)
  | .vmul o => some (o, vmulBody o)
  | .vmulh o => some (o, vmulhBody o)
  | .vdiv o => some (o, vdivBody o)
  | .vrem o => some (o, vremBody o)
  | .vma o => some (o, vmaBody o)
  | .vms o => some (o, vmsBody o)
  | .vnma o => some (o, vnmaBody o)
  | .vmin o => some (o, vminBody o)
  | .vmax o => some (o, vmaxBody o)
  | .vabs o => some (o, vabsBody o)
  | .vneg o => some (o, vnegBody o)
  | .vsqrt o => some (o, vsqrtBody o)
  | .vrcp o => some (o, vrcpBody o)
  | .vrsq o => some (o, vrsqBody o)
  | .vexp2 o => some (o, vexp2Body o)
  | .vlog2 o => some (o, vlog2Body o)
  | .vcvt o => some (o, vcvtBody o)
  | .vand o => some (o, vandBody o)
  | .vior o => some (o, viorBody o)
  | .vxor o => some (o, vxorBody o)
  | .vnot o => some (o, vnotBody o)
  | .vshl o => some (o, vshlBody o)
  | .vshr o => some (o, vshrBody o)
  | .vsha o => some (o, vshaBody o)
  | .vclz o => some (o, vclzBody o)
  | .vpopc o => some (o, vpopcBody o)
  | .vmerge o => some (o, vmergeBody o)
  | .vmv o => some (o, vmvBody o)
  | .vidx o => some (o, vidxBody o)
  | .vscl o => some (o, vsclBody o)
  | .vrnd o => some (o, vrndBody o)
  | .vdotq o => some (o, vdotqBody o)
  | .vclass o => some (o, vclassBody o)
  | _ => none

/-- The windows that a V-format instruction of major `maj` writes, the SV register of an MX conversion among them. -/
def Hart.laneWrites (h : Hart) (maj : Nat) (o : VOps) : List Window :=
  if maj < 32 then [h.mwin (o.a.toNat % 8)]
  else
    let fw := formatWord (h.formatReg o.n)
    (h.groupRegs o.a.toNat).map h.vwin ++ (if (fmtOf fw.df).isMx then [h.vwin fw.sv] else [])

/-- A window that the block writes shares no byte with the lane-PC register (10 R219). -/
def laneClash (v : BitVec 5) (ws : List Window) : M Unit := do
  let h ← hart
  match ws.find? fun w => (h.laneUse v).windows.any fun l => l.overlaps w with
  | some w => trap 9 (BitVec.ofNat 64 w.cr)
  | none => pure ()

/-- A V-format instruction of the block: STOCH is a bad format word (10 R220). -/
def laneV (v : BitVec 5) (maj : Nat) (c : Code) (i : Instr) (is : List Nat) : M (List Nat × Option Stop) := do
  match laneVector i with
  | none => trap 0 c.bits
  | some (o, body) =>
    let h ← hart
    let word := h.formatReg o.n
    if maj ≠ 42 && (formatWord word).rm = 5 then trap 8 word
    let b ← body
    laneClash v (h.laneWrites maj o)
    laneBody b is

/-- VLD, VST and VSTU with a window as data (10 R220). -/
def laneMemory (v : BitVec 5) (c : Code) (f : Fields) (is : List Nat) : M (List Nat × Option Stop) := do
  let h ← hart
  let o := f.vmOps
  let load := f.major.toNat = 24 && f.op3 = 0 && (Instr.vld o).wellFormed && isV o.a
  let store := f.major.toNat = 25 && f.op3.toNat < 2 && (Instr.vst o).wellFormed && !h.queued o.a.toNat
  if load then
    let b ← loadOn (some is) o plainEew
    laneClash v ((h.groupRegs o.a.toNat).map h.vwin)
    laneBody b is
  else if store then
    let b ← storeOn (some is) (if f.op3 = 0 then .element else .vector) o
    laneBody b is
  else trap 0 c.bits

/-- The comparison of a lane branch of major 10 to 15 at the SEW width (10 R221). -/
def laneCompare (maj w x y : Nat) : Bool :=
  let sx := intValue true w x
  let sy := intValue true w y
  match maj with
  | 10 => x == y | 11 => x != y | 12 => decide (sx < sy) | 13 => decide (sy ≤ sx) | 14 => decide (x < y) | _ => decide (y ≤ x)

/-- A lane branch: each element with its next offset (10 R221). A field that names no vector register, 28 to 31 where no queue is
bound to it among them, is an illegal instruction, though R33 speaks of other formats only (DESIGN CHOICE, log 82). -/
def laneBranch (c : Code) (maj a b o next : Nat) (off : Int) (is : List Nat) : M (List (Nat × Int) × Option Stop) := do
  if 27 < a || 27 < b then trap 0 c.bits
  let h ← hart
  let use := h.sourceUse true a h.sew ++ h.sourceUse true b h.sew
  windowCheck (firstFailure (use.map (h.checkUse · 0 [] [])))
  awaitFull ((if h.queued a then [] else h.groupRegs a) ++ (if h.queued b then [] else h.groupRegs b)) []
  let rec go : List Nat → M (List (Nat × Int) × Option Stop)
    | [] => pure ([], none)
    | i :: is => do
      let test : M (Option Stop × Bool) := do
        let x ← sourceElem a h.sew false i 0
        let y ← sourceElem b h.sew false i 0
        pure (none, laneCompare maj h.sew x y)
      match ← tryCatch test (fun e => pure (some e, false)) with
      | (some e, _) => pure ([], some e)
      | (none, taken) =>
        let r ← go is
        pure ((i, if taken then o + off else (o + next : Int)) :: r.1, r.2)
  let (xs, all) ← cutShort is
  let r ← go xs
  if r.2.isNone && all then endBindings [a, b]
  pure r

/-- The instruction `c` at offset `o` for elements of its step: those done with their next offsets (10 R222). -/
def laneStep (v : BitVec 5) (o : Nat) (c : Code) (is : List Nat) : M (List (Nat × Int) × Option Stop) := do
  let next := c.len
  let advance (m : M (List Nat × Option Stop)) : M (List (Nat × Int) × Option Stop) := do
    let r ← m
    pure (r.1.map fun i => (i, (o + next : Int)), r.2)
  let move (off : Int) : M (List (Nat × Int) × Option Stop) := do
    let (xs, _) ← cutShort is
    pure (xs.map fun i => (i, (o + off : Int)), none)
  if c.len = 1 then
    let p : Parcel := c.bits.setWidth 16
    if p.extractLsb' 11 4 = 9 then move (p.extractLsb' 0 11).toInt
    else if p = 0x6800 then move next
    else trap 0 c.bits
  else if c.len = 2 then
    let f := fieldsOf (c.bits.setWidth 32)
    let maj := f.major.toNat
    if 10 ≤ maj && maj ≤ 15 then laneBranch c maj f.a.toNat f.b.toNat o next f.imm15.toInt is
    else if maj = 16 then (if f.a = 0 then move f.imm20.toInt else trap 0 c.bits)
    else if maj = 24 || maj = 25 then advance (laneMemory v c f is)
    else match decodeV f with
      | .ok .lend => move next
      | .ok i => advance (laneV v maj c i is)
      | .error _ => trap 0 c.bits
  else trap 0 c.bits

/-! ### The block -/

/-- The offsets of some elements, from the lane-PC register. -/
def laneOffsets (v : BitVec 5) : List Nat → M (List (Nat × Nat))
  | [] => pure []
  | i :: is => do
    let s ← get
    let p ← consume (s.vread s.h v.toNat 32 false i 0)
    let r ← laneOffsets v is
    pure ((i, p) :: r)

/-- Writes the offsets of elements, modulo 2³². -/
def State.writeOffsets (s : State) (v : BitVec 5) (ps : List (Nat × Int)) : State :=
  ps.foldl (fun s p => s.vwrite s.h v.toNat 32 false p.1 0 (p.2 % 2 ^ 32).toNat) s

/-- VSTART as a stop leaves it: the lowest participating element that has not finished (10 R223). -/
def laneStart (stop : Nat) (ps : List (Nat × Nat)) (done : List (Nat × Int)) : Option Nat :=
  (ps.find? fun p => match done.find? (·.1 == p.1) with
    | some d => decide ((d.2 % 2 ^ 32).toNat < stop)
    | none => decide (p.2 < stop)).map (·.1)

/-- The step of a block that is next: the rest of the one under way, or the instruction at the lowest offset of the elements that
have not finished, for those that hold it (10 R222). -/
def nextStep (lane : LaneBlock) : List (Nat × Nat) → M (Nat × Code × List Nat)
  | ps => do
    match lane.step with
    | some t => pure (t.offset, ⟨t.len, t.bits⟩, t.left)
    | none =>
      let o := ps.foldl (fun m p => min m p.2) lane.stop
      let c ← fetchCode ((← hart).pc + 4 + BitVec.ofNat 64 (2 * o))
      pure (o, c, (ps.filter (·.2 == o)).map (·.1))

/-- What remains of a step that has been performed for some of its elements. -/
def stepLeft (o : Nat) (c : Code) (is : List Nat) (done : List (Nat × Int)) : Option LaneStep :=
  let left := is.filter fun i => done.all (·.1 != i)
  if left.isEmpty then none else some ⟨o, c.len, c.bits, left⟩

/-- One step of a block, or a part of one, or its end. -/
def laneAdvance (v : BitVec 5) (lane : LaneBlock) : M Unit := do
  let ps ← laneOffsets v lane.parts
  match ps.filter fun p => p.2 < lane.stop with
  | [] =>
    setStart 0
    retire (BitVec.ofNat 64 (8 + 2 * lane.stop))
  | p :: rest =>
    setStart p.1
    let (o, c, is) ← nextStep lane (p :: rest)
    let r ← laneStep v o c is
    modify fun s => s.writeOffsets v r.1
    modHart fun h => { h with lane := some { lane with step := stepLeft o c is r.1 } }
    match laneStart lane.stop ps r.1 with
    | some i => setStart i
    | none => pure ()
    match r.2 with
    | some e => throw e
    | none => pure ()

def execVfetch (v : BitVec 5) (vm : Bool) : State → Host.Outcome State Fault Refusal := run do
  let lane ← (match (← hart).lane with
    | some l => pure l
    | none => laneDispatch v vm)
  modHart fun h => { h with lane := some lane }
  laneAdvance v lane

/-- LEND reached outside a block has no effect (10 R219). -/
def execLend : State → Host.Outcome State Fault Refusal := run (retire 4)

end Sys2Proof.Machine
end

