-- ==== Sys2Proof/Machine/System.lean ====
section
/-! DEFINITION. System, control-register and memory-system instructions, majors 19 and 20, with UIRET (06 R113 to R120,
05 R90, 08 R153 to R158). -/
namespace Sys2Proof.Machine

/-! ### Control registers (06 R113 to R115) -/

/-- The check of R114 on a use of a control register by the instruction of code `c`. -/
def crCheck (cr : BitVec 12) (write : Bool) (c : Code) : M Unit := do
  match crAccess cr.toNat ((← hart).level == .user) with
  | .unassigned => illegal c
  | .denied => privileged c
  | .readOnly => if write then illegal c
  | .readWrite => pure ()

/-- s[a] := CR, then CR := `f` of the old value and s[b] where the instruction writes. -/
def crUpdate (a b : SReg) (cr : BitVec 12) (write : Bool) (f : Word → Word → Word) : M Unit := do
  let s ← get
  let old := s.crRead s.h cr.toNat
  let v ← rd b
  wr a old
  if write then modify fun s => s.crWrite cr.toNat (f old v)
  retire 4

def execCrd (a : SReg) (cr : BitVec 12) : State → Host.Outcome State Fault Refusal := run do
  crCheck cr false (codeSys 0 a 0 cr)
  crUpdate a 0 cr false fun _ v => v
def execCwr (a b : SReg) (cr : BitVec 12) : State → Host.Outcome State Fault Refusal := run do
  crCheck cr true (codeSys 1 a b cr)
  crUpdate a b cr true fun _ v => v
def execCset (a b : SReg) (cr : BitVec 12) : State → Host.Outcome State Fault Refusal := run do
  crCheck cr (b != 0) (codeSys 2 a b cr)
  crUpdate a b cr (b != 0) fun old v => old ||| v

/-- CCLR of LAMPCAUSE at user level clears OVF and nothing else (08 R157). -/
def Hart.clearOvf (h : Hart) : Hart := { h with lampcause := h.lampcause &&& ~~~0x0800000000000000 }

def execCclr (a b : SReg) (cr : BitVec 12) : State → Host.Outcome State Fault Refusal := run do
  if cr = 0x091 ∧ (← hart).level = .user then
    let old := (← hart).lampcause
    let v ← rd b
    wr a old
    if v.getLsbD 59 then modHart Hart.clearOvf
    retire 4
  else
    crCheck cr (b != 0) (codeSys 3 a b cr)
    crUpdate a b cr (b != 0) fun old v => old &&& ~~~v

/-- A control-register write takes effect (06 R115). -/
def execCrWrite (cr : BitVec 12) (v : Word) (s : State) : Host.Outcome State Fault Refusal := .next (s.crWrite cr.toNat v)
def execLampcauseOvfClear (s : State) : Host.Outcome State Fault Refusal := .next (s.onHart Hart.clearOvf)

/-! ### Traps, waits and halts (06 R113, R116; 08 R153, R158) -/

def execTrap (n : BitVec 12) : State → Host.Outcome State Fault Refusal := run (trap 15 (zx n))

/-- The return from a trap handler; PPL of 2 or 3 is illegal (08 R153), which comes before privilege (03 R45). -/
def execResume : State → Host.Outcome State Fault Refusal := run do
  let h ← hart
  if 2 ≤ (h.trapcause.extractLsb' 9 2).toNat then illegal (codeSys 5 0 0 0)
  if h.level = .user then privileged (codeSys 5 0 0 0)
  release
  modHart Hart.trapReturn

/-- Waits for a lamp to be delivered, unless lamps are disabled or one is pending (06 R116). -/
def execIdle : State → Host.Outcome State Fault Refusal := run do
  let h ← hart
  if !h.idle && (!h.lampEnable || !h.lamps.isEmpty) then retire 4
  else
    modHart fun h => { h with idle := true }
    stall

/-- Enters debug halt behind the instruction (06 R113, 08 R167). -/
def execHalt : State → Host.Outcome State Fault Refusal := run do
  if (← hart).level = .user then privileged (codeSys 7 0 0 0)
  retire 4
  modHart Hart.halt

/-- The return from a lamp handler (08 R158): the handler's own waits are over, the interrupted code's go on. -/
def Hart.lampReturn (h : Hart) : Hart :=
  let m := h.endStrip.endDoing.swapBank
  { m with
    lampcause := m.lampcause &&& ~~~0x8000000000000000
    pc := h.get 12
    lane := none
    pillarAt := none
    stepDue := m.stepDue || (m.level == .user && m.step) }

def execUiret : State → Host.Outcome State Fault Refusal := run do
  if !(← hart).inLamp then illegal (codeRR 21 11 0 0 0)
  modHart Hart.lampReturn

/-! ### Fences (05 R90, 06 R118) -/

/-- Every FENCE closes the strip and empties the read buffer; the model performs accesses in program order (log 5), pushes
apart, for which a full fence and a release wait (05 R87, R90). -/
def execFence (kind : BitVec 2) (_scope : BitVec 3) : State → Host.Outcome State Fault Refusal := run do
  closeStrip
  if kind ≠ 1 then release
  retire 4
def execFenceS : State → Host.Outcome State Fault Refusal := run do
  closeStrip
  retire 4
/-- Fetches from here on reflect every earlier store (06 R118). -/
def execFenceI : State → Host.Outcome State Fault Refusal := run do
  closeStrip
  modify fun s => s.onHart fun h => { h with ifence := (s.icache h.stop).length }
  retire 4

/-! ### Monitors (06 R119) -/

def execMarm (b : SReg) : State → Host.Outcome State Fault Refusal := run do
  let ea ← rd b
  let loc ← locate ea .load
  if regionOf loc = .device ∨ regionOf loc = .host then
    modHart fun h => { h with monitor := some ⟨loc / 128, false, false⟩ }
    retire 4
  else trap 6 ea

/-- MWAIT. A lamp that can be delivered comes first (`Hart.due`), and MWAIT waits anew after UIRET, so code 3 is the answer only
while delivery is held back: R119 and 08 R159 do not say which comes first (DEDUCED, log 47). -/
def execMwait (a : SReg) : State → Host.Outcome State Fault Refusal := run do
  let h ← hart
  let finish (code : Word) (disarm : Bool) : M Unit := do
    if disarm then modHart fun h => { h with monitor := none }
    wr a code
    retire 4
  match h.monitor with
  | none => finish 2 false
  | some m =>
    if m.hit then finish 0 true
    else if m.lost then finish 1 true
    else if !h.lamps.isEmpty then finish 3 false
    else stall

/-- A write of another observer, or the loss of the monitor, ends a waiting MWAIT (06 R119). -/
def execMonitorWake (k : HKey) (lost : Bool) (s : State) : Host.Outcome State Fault Refusal :=
  .next (s.onKey k fun h => match h.monitor with
    | some m => { h with monitor := some { m with lost := m.lost || lost }, blocked := h.blocked && !(m.hit || lost) }
    | none => h)

/-! ### Translations and the Assay interval (06 R120) -/

/-- Whether VMFLUSH names a translation: page and address space, each of them or all (06 R120). -/
def flushes (page : Option Nat) (asid : Option (BitVec 16)) (p : Nat) (a : Option (BitVec 16)) : Bool :=
  (page == none || page == some p) && (asid == none || a == none || a == asid)

/-- A translation that VMFLUSH waits for: that of a page and an address space, unless it is global; the core-local window has
none. -/
def kept (page : Option Nat) (asid : Option (BitVec 16)) (va : Nat) (a : Word) (glob : Bool) : Bool :=
  va < localBase && flushes page asid (va / 65536) (if glob then none else some (a.setWidth 16))

/-- Whether VMFLUSH waits (06 R120): a running route keeps a matching translation (21 R328), a LAUNCHI has still to read its count
word through one (07 R127), or a completion word whose place is translated is not yet written (19 R315). It does not wait for the
contributions of VSRED that wait for their convoy (07 R145): they are held at the location that was translated at issue, and the
spec does not say when such an access counts as performed (DESIGN CHOICE, log 85). -/
def State.flushWaits (s : State) (page : Option Nat) (asid : Option (BitVec 16)) : Bool :=
  (s.routeTiles.any fun t => t.status == .running && t.kept.any fun p => kept page asid (p.1 * 65536) t.asid p.2.2)
    || !s.finals.isEmpty
    || (s.launches.any fun l => l.st == .waiting && match l.countPa with
      | some p => kept page asid l.record.countVa.toNat l.asid p.2
      | none => false)
    || s.harts.any fun h => h.begun.any fun b => match b.doing with
      | .launch r (some p) => kept page asid r.countVa.toNat h.asid p.2
      | _ => false

def execVmflush (b c : SReg) : State → Host.Outcome State Fault Refusal := run do
  if (← hart).level = .user then privileged (codeRR 20 5 0 b c)
  let va ← rd b
  let as ← rd c
  let page := if b = 0 then none else some (va.toNat / 65536)
  let asid := if c = 0 then none else some (as.setWidth 16)
  modify fun s => { s with tlb := s.tlb.filter fun t => !flushes page asid t.page t.asid }
  closeStrip
  if (← get).flushWaits page asid then stall
  retire 4

/-- Closes the Assay interval; waits while one close runs and another is held (06 R120, 23 R350). -/
def execAssay : State → Host.Outcome State Fault Refusal := run do
  if (← hart).level = .user then privileged (codeRR 20 6 0 0 0)
  closeStrip
  let ok ← modifyGet fun s => s.assayClose
  if !ok then stall
  retire 4

end Sys2Proof.Machine
end

