-- ==== Sys2Proof/Machine/VectorShape.lean ====
section
/-! DEFINITION. Mask logic, permutes, reductions and scans, and access to tangents: majors 31, 40, 44, 45 and 46 (10 R213 to
R218, 04 R68, R69, 11 R232). -/
namespace Sys2Proof.Machine

/-! ### Mask logic (10 R213) -/

/-- The dispatch of the mask logic: cause 7, then cause 9, then the pushes that read the destination. -/
def maskDispatch (dest : Option Nat) (srcs : List Nat) : M Hart := do
  let h ← hart
  if h.badType then trap 7 h.vtype
  let ss := srcs.map h.muse
  let d := dest.toList.map fun m => h.checkUse (h.muse m) 0 (ss.flatMap Use.windows) []
  windowCheck (firstFailure (d ++ ss.map (h.checkUse · 0 [] [])))
  awaitPushes (dest.toList.map h.mwin)
  pure h

/-- m[d](i) := f(m[b](i), m[c](i)) for elements VSTART to VL − 1, unmasked, then the tail. -/
def maskLogic (f : Nat → Nat → Nat) (srcs : List Nat) (d b c : Nat) : State → Host.Outcome State Fault Refusal := run do
  let h ← maskDispatch (some d) srcs
  let bit (m i : Nat) : M Nat := do
    let s ← get
    if srcs.contains m then consume (s.mread h m i) else pure 0
  let body : VBody := {
    vm := true
    elem := fun i => do
      let x ← bit b i
      let y ← bit c i
      modify fun s => s.mwrite h d i (f x y)
    fill := fun i => modify fun s => s.mwrite h d i 1
    finish := pure () }
  runVector body

def execMand (d b c : BitVec 3) : State → Host.Outcome State Fault Refusal :=
  maskLogic (fun x y => x &&& y) [b.toNat, c.toNat] d.toNat b.toNat c.toNat
def execMior (d b c : BitVec 3) : State → Host.Outcome State Fault Refusal :=
  maskLogic (fun x y => x ||| y) [b.toNat, c.toNat] d.toNat b.toNat c.toNat
def execMxor (d b c : BitVec 3) : State → Host.Outcome State Fault Refusal :=
  maskLogic (fun x y => x ^^^ y) [b.toNat, c.toNat] d.toNat b.toNat c.toNat
def execMandn (d b c : BitVec 3) : State → Host.Outcome State Fault Refusal :=
  maskLogic (fun x y => x &&& (1 - y)) [b.toNat, c.toNat] d.toNat b.toNat c.toNat
def execMnot (d b : BitVec 3) : State → Host.Outcome State Fault Refusal :=
  maskLogic (fun x _ => 1 - x) [b.toNat] d.toNat b.toNat b.toNat
def execMset (d : BitVec 3) : State → Host.Outcome State Fault Refusal := maskLogic (fun _ _ => 1) [] d.toNat 0 0
def execMclr (d : BitVec 3) : State → Host.Outcome State Fault Refusal := maskLogic (fun _ _ => 0) [] d.toNat 0 0

/-- The set elements of m[b] among 0 to VL − 1. -/
def setElements (h : Hart) (b : Nat) : List Nat → M (List Nat)
  | [] => pure []
  | i :: is => do
    let s ← get
    let x ← consume (s.mread h b i)
    let r ← setElements h b is
    pure (if x = 1 then i :: r else r)

def execMpopc (a : SReg) (b : BitVec 3) : State → Host.Outcome State Fault Refusal := run do
  let h ← maskDispatch none [b.toNat]
  let is ← setElements h b.toNat (List.range h.length)
  wr a (BitVec.ofNat 64 is.length)
  setStart 0
  retire 4

def execMfirst (a : SReg) (b : BitVec 3) : State → Host.Outcome State Fault Refusal := run do
  let h ← maskDispatch none [b.toNat]
  let is ← setElements h b.toNat (List.range h.length)
  wr a (match is with | [] => BitVec.allOnes 64 | i :: _ => BitVec.ofNat 64 i)
  setStart 0
  retire 4

/-! ### Permutes (10 R214, R215) -/

def permuteSpec (forms : List Nat) : VSpec :=
  { use := { e8m0 := true }
    accept := fun fw => notMx fw.df && fw.df == fw.bf && (fmtOf fw.af).isInt
    forms := forms
    noShare := true }

/-- An element written as 0, its tangents +0. -/
def VCtx.nothing (cx : VCtx) : Out := { bits := 0, tans := List.replicate cx.k 0 }

def vslupBody (o : VOps) : M VBody := do
  let cx ← dispatch (permuteSpec [1, 2]) o
  let k ← cx.bBits 0 0
  let elem (i : Nat) : M Unit := if k ≤ i then do cx.put i (← cx.moveFrom o.c.toNat (i - k)) else pure ()
  pure { vm := o.vm, elem := elem, fill := cx.fill, finish := cx.finish (permuteSpec []), refill := fun i => k ≤ i }

def vsldnBody (o : VOps) : M VBody := do
  let cx ← dispatch (permuteSpec [1, 2]) o
  let k ← cx.bBits 0 0
  let elem (i : Nat) : M Unit := do
    if i + k < cx.h.length then cx.put i (← cx.moveFrom o.c.toNat (i + k)) else cx.put i cx.nothing
  pure { vm := o.vm, elem := elem, fill := cx.fill, finish := cx.finish (permuteSpec []) }

def vrgathBody (o : VOps) : M VBody :=
  mould (permuteSpec [0, 1]) (fun cx i => do
    let j ← cx.bBits i 0
    if j < cx.h.length then cx.moveFrom cx.o.c.toNat j else pure cx.nothing) o

def comprSpec : VSpec :=
  { use := { b := false, e8m0 := true }
    accept := fun fw => notMx fw.df && fw.df == fw.bf
    forms := [0]
    vmOk := (! ·)
    noShare := true }

def vcomprBody (o : VOps) : M VBody := do
  let cx ← dispatch comprSpec o
  let elem (i : Nat) : M Unit := do
    let below ← setElements cx.h 0 (List.range i)
    cx.put below.length (← cx.moveFrom o.c.toNat i)
  pure {
    vm := false
    elem := elem
    fill := cx.fill
    finish := cx.finish comprSpec
    refill := fun _ => false
    tailFrom := fun vl => do
      let on ← setElements cx.h 0 (List.range vl)
      pure on.length }

def execVslup (o : VOps) : State → Host.Outcome State Fault Refusal := run (vslupBody o >>= runVector)
def execVsldn (o : VOps) : State → Host.Outcome State Fault Refusal := run (vsldnBody o >>= runVector)
def execVrgath (o : VOps) : State → Host.Outcome State Fault Refusal := run (vrgathBody o >>= runVector)
def execVcompr (o : VOps) : State → Host.Outcome State Fault Refusal := run (vcomprBody o >>= runVector)

/-! ### Reductions and scans (10 R216 to R218, 04 R68, R69) -/

/-- A node of a tree: its value in DF and its tangents, with the flags raised below it. -/
structure Node where
  v : Num
  tans : List Num
  flags : Flags

/-- Tangents that a rule moves: a zero contributes exactly +0 (11 R228). -/
def movedTans (ts : List Num) : List Num := ts.map (tterm · one)

/-- A node fitted to DF; its tangents are the exact values of the rule. -/
def VCtx.node (cx : VCtx) (v : Num) (tans : List Num) (flags : Flags) : Node :=
  let r := cx.df.fit cx.rm cx.fw.sat 0 cx.df.isInt v
  let tan (t : Num) : Num :=
    if cx.df.isInt then .zero else cx.df.value (cx.df.fit cx.rm cx.fw.sat 0 false t).bits
  ⟨cx.df.value r.bits, tans.map tan, flags ||| r.flags⟩

/-- How two nodes combine. -/
abbrev Combine := VCtx → Node → Node → Node

def combineSum : Combine := fun cx u w =>
  let r := sumOf cx.rdn [u.v, w.v]
  cx.node r.1 (List.zipWith (fun a b => (sumOf cx.rdn [tterm a one, tterm b one]).1) u.tans w.tans) (u.flags ||| w.flags ||| r.2)

/-- Minimum or maximum: a tie keeps the left operand (11 R228). -/
def combinePick (pick : Num → Num → Num × Flags × Bool) : Combine := fun cx u w =>
  let r := pick u.v w.v
  cx.node r.1 (movedTans (if r.2.2 then w.tans else u.tans)) (u.flags ||| w.flags ||| r.2.1)

/-- Two nodes of the tree, present or absent. -/
def joinNodes (f : Node → Node → Node) : Option Node → Option Node → Option Node
  | some u, some w => some (f u w)
  | some u, none => some u
  | none, w => w

/-- One level of the tree. -/
def treeLevel (f : Node → Node → Node) : List (Option Node) → List (Option Node)
  | [] => []
  | [x] => [x]
  | x :: y :: r => joinNodes f x y :: treeLevel f r

/-- The canonical tree (04 R68): groups of 64 join level by level, and their results join alike. -/
def canonicalTree (f : Node → Node → Node) (xs : List (Option Node)) : Option Node :=
  ((List.range 17).foldl (fun l _ => treeLevel f l) xs).head?.join

/-- The initial value with the tree or the ordered fold (04 R69). -/
def reduceNodes (cx : VCtx) (f : Combine) (ordered : Bool) (init : Node) (xs : List (Option Node)) : Node :=
  if ordered then
    match xs.filterMap id with
    | [] => cx.node init.v (movedTans init.tans) init.flags
    | x :: r => r.foldl (f cx) (f cx init x)
  else match canonicalTree (f cx) xs with
    | none => cx.node init.v (movedTans init.tans) init.flags
    | some t => f cx init t

/-- What a node writes: the canonical NaN in the tangents of a NaN (11 R228). -/
def VCtx.nodeOut (cx : VCtx) (n : Node) : Out :=
  let bits := (cx.df.fit cx.rm cx.fw.sat 0 cx.df.isInt n.v).bits
  { bits := bits, flags := n.flags, tans := n.tans.map fun t => if cx.df.isInt then 0 else cx.fitTan n.v.isNan 0 0 (.num t) }

/-- The values 1 to k that `f` reads. -/
def readTans (f : Nat → M Num) (k : Nat) : M (List Num) := (List.range k).mapM fun t => f (t + 1)

/-- The initial value: b(0), s[b] or imm5. -/
def VCtx.initial (cx : VCtx) : M Node := do
  let v ← cx.bNum 0 0
  let ts ← readTans (cx.bNum 0) cx.k
  pure ⟨v, ts, 0⟩

/-- Elements of c, present where active, converted to DF. -/
def VCtx.nodes (cx : VCtx) : List Nat → M (List (Option Node))
  | [] => pure []
  | i :: is => do
    let n ← (do
      if ← active cx.o.vm i then
        let v ← cx.cNum i 0
        let ts ← readTans (cx.cNum i) cx.k
        pure (some (cx.node v (movedTans ts) 0))
      else pure none)
    return n :: (← cx.nodes is)

def reduceSpec : VSpec := { use := { ordered := true }, accept := alike, atZero := true }
def pickSpec : VSpec := { use := {}, accept := alike, atZero := true }

/-- Every node's flags of a reduction (10 R218). -/
def nodesFlags (xs : List (Option Node)) (n : Node) : Flags :=
  xs.foldl (fun f x => f ||| (match x with | some x => x.flags | none => 0)) n.flags

/-- A reduction: element 0 of d, written when VL > 0. R218 names VSTART 0 for its stops and for cause 14 alone and R163 has
VSTART = f at a consumed poisoned element: a reduction that takes cause 13 leaves VSTART at 0 (DEDUCED, log 75). -/
def reduction (spec : VSpec) (f : Combine) (ordered : FormatWord → Bool) (o : VOps) : State → Host.Outcome State Fault Refusal :=
  run do
    let cx ← dispatch spec o
    if 0 < cx.h.length then
      let init ← cx.initial
      let xs ← cx.nodes (List.range cx.h.length)
      let n := reduceNodes cx f (ordered cx.fw) init xs
      let out := cx.nodeOut n
      let flags := nodesFlags xs n
      checkFlags flags
      addFlags flags
      cx.put 0 out
    setStart 0
    cx.finish spec
    retire 4

def execVrsum (o : VOps) : State → Host.Outcome State Fault Refusal := reduction reduceSpec combineSum (·.ord) o
def execVrsumo (o : VOps) : State → Host.Outcome State Fault Refusal := reduction reduceSpec combineSum (fun _ => true) o
def execVrmin (o : VOps) : State → Host.Outcome State Fault Refusal := reduction pickSpec (combinePick minOf) (fun _ => false) o
def execVrmax (o : VOps) : State → Host.Outcome State Fault Refusal := reduction pickSpec (combinePick maxOf) (fun _ => false) o

def scanSpec : VSpec := { use := { ordered := true }, accept := alike, noShareC := true }

/-- The initial value is b's as the instruction finds it, also where d and b(0) are one (10 R217, log 34). -/
def vscanBody (o : VOps) : M VBody := do
  let cx ← dispatch scanSpec o
  let init ← tryCatch (do return Except.ok (← cx.initial)) fun e => pure (Except.error e)
  pure {
    vm := o.vm
    elem := fun i => do
      let first ← (match init with
        | .ok n => pure n
        | .error e => throw e : M Node)
      let xs ← cx.nodes (List.range (i + 1))
      let n := reduceNodes cx combineSum cx.fw.ord first xs
      let flags := nodesFlags xs n
      checkFlags flags
      addFlags flags
      cx.put i { cx.nodeOut n with flags := flags }
    fill := cx.fill
    finish := cx.finish scanSpec }

def execVscan (o : VOps) : State → Host.Outcome State Fault Refusal := run (vscanBody o >>= runVector)

/-! ### Tangents (11 R232) -/

/-- VTGET and VTSET copy bits under an index, and R201 sends their combinations here; E8M0, which has no tangents (R228), is
not accepted: DEDUCED, log 57. -/
def tangentSpec : VSpec :=
  { use := {}, accept := fun fw => fw.df == fw.bf && (fmtOf fw.af).isInt, forms := [1, 2], tangents := false }

/-- Cause 9 of R232 for the tangented window of register `v`: an index above 4, or the range of a register past VPART.LEN.
A load queue has no range. -/
def checkTangent (cx : VCtx) (v j : Nat) (queue : Bool) : M Unit := do
  let bad := if 4 < j then some (cx.h.vwin v).cr
    else if queue then none
    else (((cx.h.groupRegs v).map cx.h.vwin).find? fun w => cx.h.partLen < w.base + (j + 1) * w.len).map (·.cr)
  windowCheck bad

/-- Writes the same bits to tangents `lo` to `lo + n − 1` of an element. -/
def VCtx.putTans (cx : VCtx) (i lo n bits : Nat) (bad : Bool) : M Unit :=
  upFrom (fun t => modify fun s => s.vwrite cx.h cx.o.a.toNat cx.df.width cx.h.sliced i t bits bad) lo n

/-- Dispatch of VTGET (`get`: a tangent of c is read) or VTSET (a tangent of d is written): it answers the tangent number
too. -/
def tangentReady (o : VOps) (get : Bool) : M (VCtx × Nat) := do
  let cx ← dispatch tangentSpec o
  let j ← cx.bBits 0 0
  if get then checkTangent cx o.c.toNat j (cx.h.queued o.c.toNat)
  else
    checkTangent cx o.a.toNat j false
    awaitPushes ((cx.h.groupRegs o.a.toNat).map cx.h.vwin) j
  pure (cx, j)

def execVtget (o : VOps) : State → Host.Outcome State Fault Refusal := run do
  let (cx, j) ← tangentReady o true
  runVector {
    vm := o.vm
    elem := fun i => do
      let p ← movedElem o.c.toNat cx.df.width cx.h.sliced i j
      cx.put i { bits := cx.df.low p.val, bad := p.bad.isSome }
    fill := cx.fill
    finish := cx.finish tangentSpec }

def execVtset (o : VOps) : State → Host.Outcome State Fault Refusal := run do
  let (cx, j) ← tangentReady o false
  runVector {
    vm := o.vm
    elem := fun i => do
      let p ← movedElem o.c.toNat cx.df.width cx.h.sliced i 0
      cx.putTans i j 1 (cx.df.low p.val) p.bad.isSome
    fill := fun i => cx.putTans i j 1 (2 ^ cx.df.width - 1) false
    finish := cx.finish tangentSpec }

def zeroSpec : VSpec :=
  { use := { b := false, c := false }, accept := fun fw => notMx fw.df, forms := [0], tangents := false }

/-- Dispatch of VTZERO. -/
def vtzeroReady (o : VOps) : M VCtx := do
  let cx ← dispatch zeroSpec o
  checkTangent cx o.a.toNat cx.h.tanCount false
  awaitPushes ((cx.h.groupRegs o.a.toNat).map cx.h.vwin) cx.h.tanCount
  pure cx

def execVtzero (o : VOps) : State → Host.Outcome State Fault Refusal := run do
  let cx ← vtzeroReady o
  let k := cx.h.tanCount
  runVector {
    vm := o.vm
    elem := fun i => cx.putTans i 1 k 0 false
    fill := fun i => cx.putTans i 1 k (2 ^ cx.df.width - 1) false
    finish := cx.finish zeroSpec }

end Sys2Proof.Machine
end

