-- ==== Sys2Proof/Machine/Tangent.lean ====
section
/-! DEFINITION. The TAN prefix: a body that accepts it runs with the prefix's tangent count (03 R40, 11 R224). -/
namespace Sys2Proof.Machine

/-- The meaning of a body that accepts the prefix (03 R40). -/
def tanBody : Instr → Option (State → Host.Outcome State Fault Refusal)
  | .fadd o => some (execFadd o)
  | .fsub o => some (execFsub o)
  | .fmul o => some (execFmul o)
  | .fdiv o => some (execFdiv o)
  | .fsqrt o => some (execFsqrt o)
  | .fmin o => some (execFmin o)
  | .fmax o => some (execFmax o)
  | .fmac o => some (execFmac o)
  | .feq o => some (execFeq o)
  | .flt o => some (execFlt o)
  | .fle o => some (execFle o)
  | .fclass o => some (execFclass o)
  | .fcvti o => some (execFcvti o)
  | .fcvtf o => some (execFcvtf o)
  | .fcvt o => some (execFcvt o)
  | .fsgn o => some (execFsgn o)
  | .fsgnn o => some (execFsgnn o)
  | .fsgnx o => some (execFsgnx o)
  | .vadd o => some (execVadd o)
  | .vsub o => some (execVsub o)
  | .vrsub o => some (execVrsub o)
  | .vmul o => some (execVmul o)
  | .vmulh o => some (execVmulh o)
  | .vdiv o => some (execVdiv o)
  | .vrem o => some (execVrem o)
  | .vma o => some (execVma o)
  | .vms o => some (execVms o)
  | .vnma o => some (execVnma o)
  | .vmin o => some (execVmin o)
  | .vmax o => some (execVmax o)
  | .vabs o => some (execVabs o)
  | .vneg o => some (execVneg o)
  | .vsqrt o => some (execVsqrt o)
  | .vrcp o => some (execVrcp o)
  | .vrsq o => some (execVrsq o)
  | .vexp2 o => some (execVexp2 o)
  | .vlog2 o => some (execVlog2 o)
  | .vcvt o => some (execVcvt o)
  | .vand o => some (execVand o)
  | .vior o => some (execVior o)
  | .vxor o => some (execVxor o)
  | .vnot o => some (execVnot o)
  | .vshl o => some (execVshl o)
  | .vshr o => some (execVshr o)
  | .vsha o => some (execVsha o)
  | .vclz o => some (execVclz o)
  | .vpopc o => some (execVpopc o)
  | .vmerge o => some (execVmerge o)
  | .vmv o => some (execVmv o)
  | .vidx o => some (execVidx o)
  | .vslup o => some (execVslup o)
  | .vsldn o => some (execVsldn o)
  | .vrgath o => some (execVrgath o)
  | .vcompr o => some (execVcompr o)
  | .vextr o => some (execVextr o)
  | .vins o => some (execVins o)
  | .vscl o => some (execVscl o)
  | .vrnd o => some (execVrnd o)
  | .vdotq o => some (execVdotq o)
  | .vclass o => some (execVclass o)
  | .vrsum o => some (execVrsum o)
  | .vrsumo o => some (execVrsumo o)
  | .vrmin o => some (execVrmin o)
  | .vrmax o => some (execVrmax o)
  | .vscan o => some (execVscan o)
  | .gprod o => some (execGprod o)
  | .gwedge o => some (execGwedge o)
  | .gjoin o => some (execGjoin o)
  | .ginner o => some (execGinner o)
  | .gsand o => some (execGsand o)
  | .grev o => some (execGrev o)
  | .gdual o => some (execGdual o)
  | .ggrade o => some (execGgrade o)
  | .gnorm o => some (execGnorm o)
  | .gadd o => some (execGadd o)
  | .gsub o => some (execGsub o)
  | .gscale o => some (execGscale o)
  | .gld o => some (execGld o)
  | .gst o => some (execGst o)
  | .gexp o => some (execGexp o)
  | .gxsign o => some (execGxsign o)
  | .gsel o => some (execGsel o)
  | .gfromv o => some (execGfromv o)
  | .gtov o => some (execGtov o)
  | _ => none

/-- The outcome of a body without its prefix in execution. -/
def dropPrefix : Host.Outcome State Fault Refusal → Host.Outcome State Fault Refusal
  | .next s => .next { s with tanPrefix := none }
  | o => o

/-- Prefix and body execute together; before any other body TAN is illegal. -/
def execTan (k : BitVec 2) (body : Instr) (s : State) : Host.Outcome State Fault Refusal :=
  match tanBody body with
  | some f => dropPrefix (f { s with tanPrefix := some k.toNat })
  | none => run (illegal (encode (.tan k body))) s

end Sys2Proof.Machine
end

