-- ==== Sys2Proof/Machine/Dispatch.lean ====
section
/-! DEFINITION. One arm for each constructor of `Instr`: the instruction's meaning. -/
namespace Sys2Proof.Machine

def exec (i : Instr) (s : State) : Host.Outcome State Fault Refusal :=
  match i with
  | .add a b c => Sys2Proof.Machine.execAdd a b c s
  | .addw a b c => Sys2Proof.Machine.execAddw a b c s
  | .sub a b c => Sys2Proof.Machine.execSub a b c s
  | .subw a b c => Sys2Proof.Machine.execSubw a b c s
  | .and a b c => Sys2Proof.Machine.execAnd a b c s
  | .ior a b c => Sys2Proof.Machine.execIor a b c s
  | .xor a b c => Sys2Proof.Machine.execXor a b c s
  | .lsl a b c => Sys2Proof.Machine.execLsl a b c s
  | .lslw a b c => Sys2Proof.Machine.execLslw a b c s
  | .lsr a b c => Sys2Proof.Machine.execLsr a b c s
  | .lsrw a b c => Sys2Proof.Machine.execLsrw a b c s
  | .asr a b c => Sys2Proof.Machine.execAsr a b c s
  | .asrw a b c => Sys2Proof.Machine.execAsrw a b c s
  | .mul a b c => Sys2Proof.Machine.execMul a b c s
  | .mulw a b c => Sys2Proof.Machine.execMulw a b c s
  | .mulhs a b c => Sys2Proof.Machine.execMulhs a b c s
  | .mulhn a b c => Sys2Proof.Machine.execMulhn a b c s
  | .divs a b c => Sys2Proof.Machine.execDivs a b c s
  | .divsw a b c => Sys2Proof.Machine.execDivsw a b c s
  | .divn a b c => Sys2Proof.Machine.execDivn a b c s
  | .divnw a b c => Sys2Proof.Machine.execDivnw a b c s
  | .rems a b c => Sys2Proof.Machine.execRems a b c s
  | .remsw a b c => Sys2Proof.Machine.execRemsw a b c s
  | .remn a b c => Sys2Proof.Machine.execRemn a b c s
  | .remnw a b c => Sys2Proof.Machine.execRemnw a b c s
  | .slt a b c => Sys2Proof.Machine.execSlt a b c s
  | .sltn a b c => Sys2Proof.Machine.execSltn a b c s
  | .mins a b c => Sys2Proof.Machine.execMins a b c s
  | .maxs a b c => Sys2Proof.Machine.execMaxs a b c s
  | .minn a b c => Sys2Proof.Machine.execMinn a b c s
  | .maxn a b c => Sys2Proof.Machine.execMaxn a b c s
  | .clz a b => Sys2Proof.Machine.execClz a b s
  | .ctz a b => Sys2Proof.Machine.execCtz a b s
  | .popc a b => Sys2Proof.Machine.execPopc a b s
  | .bswp a b => Sys2Proof.Machine.execBswp a b s
  | .addi a b imm => Sys2Proof.Machine.execAddi a b imm s
  | .andi a b imm => Sys2Proof.Machine.execAndi a b imm s
  | .iori a b imm => Sys2Proof.Machine.execIori a b imm s
  | .xori a b imm => Sys2Proof.Machine.execXori a b imm s
  | .slti a b imm => Sys2Proof.Machine.execSlti a b imm s
  | .lsli a b n => Sys2Proof.Machine.execLsli a b n s
  | .lsri a b n => Sys2Proof.Machine.execLsri a b n s
  | .asri a b n => Sys2Proof.Machine.execAsri a b n s
  | .lih a imm => Sys2Proof.Machine.execLih a imm s
  | .addpc a imm => Sys2Proof.Machine.execAddpc a imm s
  | .ld sz a b imm => Sys2Proof.Machine.execLd sz a b imm s
  | .lda sz a b imm => Sys2Proof.Machine.execLda sz a b imm s
  | .st sz a b imm => Sys2Proof.Machine.execSt sz a b imm s
  | .stl sz a b imm => Sys2Proof.Machine.execStl sz a b imm s
  | .aadd o => Sys2Proof.Machine.execAadd o s
  | .aand o => Sys2Proof.Machine.execAand o s
  | .aior o => Sys2Proof.Machine.execAior o s
  | .axor o => Sys2Proof.Machine.execAxor o s
  | .amins o => Sys2Proof.Machine.execAmins o s
  | .amaxs o => Sys2Proof.Machine.execAmaxs o s
  | .aminn o => Sys2Proof.Machine.execAminn o s
  | .amaxn o => Sys2Proof.Machine.execAmaxn o s
  | .aswp o => Sys2Proof.Machine.execAswp o s
  | .acas o => Sys2Proof.Machine.execAcas o s
  | .fadd o => Sys2Proof.Machine.execFadd o s
  | .fsub o => Sys2Proof.Machine.execFsub o s
  | .fmul o => Sys2Proof.Machine.execFmul o s
  | .fdiv o => Sys2Proof.Machine.execFdiv o s
  | .fsqrt o => Sys2Proof.Machine.execFsqrt o s
  | .fmin o => Sys2Proof.Machine.execFmin o s
  | .fmax o => Sys2Proof.Machine.execFmax o s
  | .fmac o => Sys2Proof.Machine.execFmac o s
  | .feq o => Sys2Proof.Machine.execFeq o s
  | .flt o => Sys2Proof.Machine.execFlt o s
  | .fle o => Sys2Proof.Machine.execFle o s
  | .fclass o => Sys2Proof.Machine.execFclass o s
  | .fcvti o => Sys2Proof.Machine.execFcvti o s
  | .fcvtf o => Sys2Proof.Machine.execFcvtf o s
  | .fcvt o => Sys2Proof.Machine.execFcvt o s
  | .fsgn o => Sys2Proof.Machine.execFsgn o s
  | .fsgnn o => Sys2Proof.Machine.execFsgnn o s
  | .fsgnx o => Sys2Proof.Machine.execFsgnx o s
  | .beq a b imm => Sys2Proof.Machine.execBeq a b imm s
  | .bne a b imm => Sys2Proof.Machine.execBne a b imm s
  | .blt a b imm => Sys2Proof.Machine.execBlt a b imm s
  | .bge a b imm => Sys2Proof.Machine.execBge a b imm s
  | .bltn a b imm => Sys2Proof.Machine.execBltn a b imm s
  | .bgen a b imm => Sys2Proof.Machine.execBgen a b imm s
  | .jal a imm => Sys2Proof.Machine.execJal a imm s
  | .ptb n imm => Sys2Proof.Machine.execPtb n imm s
  | .jr a b imm => Sys2Proof.Machine.execJr a b imm s
  | .ptbr n b imm => Sys2Proof.Machine.execPtbr n b imm s
  | .brt n => Sys2Proof.Machine.execBrt n s
  | .brtnz n b => Sys2Proof.Machine.execBrtnz n b s
  | .brtz n b => Sys2Proof.Machine.execBrtz n b s
  | .callt n => Sys2Proof.Machine.execCallt n s
  | .crd a cr => Sys2Proof.Machine.execCrd a cr s
  | .cwr a b cr => Sys2Proof.Machine.execCwr a b cr s
  | .cset a b cr => Sys2Proof.Machine.execCset a b cr s
  | .cclr a b cr => Sys2Proof.Machine.execCclr a b cr s
  | .trap n => Sys2Proof.Machine.execTrap n s
  | .resume => Sys2Proof.Machine.execResume s
  | .idle => Sys2Proof.Machine.execIdle s
  | .halt => Sys2Proof.Machine.execHalt s
  | .crWrite cr v => Sys2Proof.Machine.execCrWrite cr v s
  | .lampcauseOvfClear => Sys2Proof.Machine.execLampcauseOvfClear s
  | .fence kind scope => Sys2Proof.Machine.execFence kind scope s
  | .fenceS => Sys2Proof.Machine.execFenceS s
  | .fenceI => Sys2Proof.Machine.execFenceI s
  | .marm b => Sys2Proof.Machine.execMarm b s
  | .mwait a => Sys2Proof.Machine.execMwait a s
  | .monitorWake k lost => Sys2Proof.Machine.execMonitorWake k lost s
  | .vmflush b c => Sys2Proof.Machine.execVmflush b c s
  | .assay => Sys2Proof.Machine.execAssay s
  | .launch a b => Sys2Proof.Machine.execLaunch a b s
  | .launchi a b => Sys2Proof.Machine.execLaunchi a b s
  | .retire => Sys2Proof.Machine.execRetire s
  | .yield => Sys2Proof.Machine.execYield s
  | .farm b => Sys2Proof.Machine.execFarm b s
  | .fstrip a b => Sys2Proof.Machine.execFstrip a b s
  | .post b c => Sys2Proof.Machine.execPost b c s
  | .waiti b c => Sys2Proof.Machine.execWaiti b c s
  | .bar => Sys2Proof.Machine.execBar s
  | .convoy => Sys2Proof.Machine.execConvoy s
  | .lwait a b => Sys2Proof.Machine.execLwait a b s
  | .uiret => Sys2Proof.Machine.execUiret s
  | .sstart a b => Sys2Proof.Machine.execSstart a b s
  | .swait a b => Sys2Proof.Machine.execSwait a b s
  | .stest a b => Sys2Proof.Machine.execStest a b s
  | .skill a b => Sys2Proof.Machine.execSkill a b s
  | .rbind a b => Sys2Proof.Machine.execRbind a b s
  | .runbind => Sys2Proof.Machine.execRunbind s
  | .route a b => Sys2Proof.Machine.execRoute a b s
  | .rrecv a b => Sys2Proof.Machine.execRrecv a b s
  | .rret a b c => Sys2Proof.Machine.execRret a b c s
  | .rwait a b => Sys2Proof.Machine.execRwait a b s
  | .rstat a b c => Sys2Proof.Machine.execRstat a b c s
  | .vsetvl a b c => Sys2Proof.Machine.execVsetvl a b c s
  | .vsetvli a b vt => Sys2Proof.Machine.execVsetvli a b vt s
  | .vshape b => Sys2Proof.Machine.execVshape b s
  | .winv v b c => Sys2Proof.Machine.execWinv v b c s
  | .winm m b c => Sys2Proof.Machine.execWinm m b c s
  | .wing w b c => Sys2Proof.Machine.execWing w b c s
  | .wini w b c => Sys2Proof.Machine.execWini w b c s
  | .winrd a b => Sys2Proof.Machine.execWinrd a b s
  | .vld o => Sys2Proof.Machine.execVld o s
  | .vldff o => Sys2Proof.Machine.execVldff o s
  | .vldm o => Sys2Proof.Machine.execVldm o s
  | .vfill o => Sys2Proof.Machine.execVfill o s
  | .vst o => Sys2Proof.Machine.execVst o s
  | .vstu o => Sys2Proof.Machine.execVstu o s
  | .vstm o => Sys2Proof.Machine.execVstm o s
  | .vspill o => Sys2Proof.Machine.execVspill o s
  | .vsredIadd o => Sys2Proof.Machine.execVsredIadd o s
  | .vsredFadd o => Sys2Proof.Machine.execVsredFadd o s
  | .vsredMins o => Sys2Proof.Machine.execVsredMins o s
  | .vsredMaxs o => Sys2Proof.Machine.execVsredMaxs o s
  | .vsredMinn o => Sys2Proof.Machine.execVsredMinn o s
  | .vsredMaxn o => Sys2Proof.Machine.execVsredMaxn o s
  | .vsredAnd o => Sys2Proof.Machine.execVsredAnd o s
  | .vsredIor o => Sys2Proof.Machine.execVsredIor o s
  | .vsredoIadd o => Sys2Proof.Machine.execVsredoIadd o s
  | .vsredoFadd o => Sys2Proof.Machine.execVsredoFadd o s
  | .vsredoMins o => Sys2Proof.Machine.execVsredoMins o s
  | .vsredoMaxs o => Sys2Proof.Machine.execVsredoMaxs o s
  | .vsredoMinn o => Sys2Proof.Machine.execVsredoMinn o s
  | .vsredoMaxn o => Sys2Proof.Machine.execVsredoMaxn o s
  | .vsredoAnd o => Sys2Proof.Machine.execVsredoAnd o s
  | .vsredoIor o => Sys2Proof.Machine.execVsredoIor o s
  | .vbin m b v => Sys2Proof.Machine.execVbin m b v s
  | .vpush b v => Sys2Proof.Machine.execVpush b v s
  | .vpushDelivery id => Sys2Proof.Machine.execVpushDelivery id s
  | .vfe v n => Sys2Proof.Machine.execVfe v n s
  | .vcmpEq o => Sys2Proof.Machine.execVcmpEq o s
  | .vcmpNe o => Sys2Proof.Machine.execVcmpNe o s
  | .vcmpLt o => Sys2Proof.Machine.execVcmpLt o s
  | .vcmpLe o => Sys2Proof.Machine.execVcmpLe o s
  | .vcmpGt o => Sys2Proof.Machine.execVcmpGt o s
  | .vcmpGe o => Sys2Proof.Machine.execVcmpGe o s
  | .vcmpUn o => Sys2Proof.Machine.execVcmpUn o s
  | .vcmpOrd o => Sys2Proof.Machine.execVcmpOrd o s
  | .mand d b c => Sys2Proof.Machine.execMand d b c s
  | .mior d b c => Sys2Proof.Machine.execMior d b c s
  | .mxor d b c => Sys2Proof.Machine.execMxor d b c s
  | .mandn d b c => Sys2Proof.Machine.execMandn d b c s
  | .mnot d b => Sys2Proof.Machine.execMnot d b s
  | .mpopc a b => Sys2Proof.Machine.execMpopc a b s
  | .mfirst a b => Sys2Proof.Machine.execMfirst a b s
  | .mset d => Sys2Proof.Machine.execMset d s
  | .mclr d => Sys2Proof.Machine.execMclr d s
  | .vadd o => Sys2Proof.Machine.execVadd o s
  | .vsub o => Sys2Proof.Machine.execVsub o s
  | .vrsub o => Sys2Proof.Machine.execVrsub o s
  | .vmul o => Sys2Proof.Machine.execVmul o s
  | .vmulh o => Sys2Proof.Machine.execVmulh o s
  | .vdiv o => Sys2Proof.Machine.execVdiv o s
  | .vrem o => Sys2Proof.Machine.execVrem o s
  | .vma o => Sys2Proof.Machine.execVma o s
  | .vms o => Sys2Proof.Machine.execVms o s
  | .vnma o => Sys2Proof.Machine.execVnma o s
  | .vmin o => Sys2Proof.Machine.execVmin o s
  | .vmax o => Sys2Proof.Machine.execVmax o s
  | .vabs o => Sys2Proof.Machine.execVabs o s
  | .vneg o => Sys2Proof.Machine.execVneg o s
  | .vsqrt o => Sys2Proof.Machine.execVsqrt o s
  | .vrcp o => Sys2Proof.Machine.execVrcp o s
  | .vrsq o => Sys2Proof.Machine.execVrsq o s
  | .vexp2 o => Sys2Proof.Machine.execVexp2 o s
  | .vlog2 o => Sys2Proof.Machine.execVlog2 o s
  | .vcvt o => Sys2Proof.Machine.execVcvt o s
  | .vand o => Sys2Proof.Machine.execVand o s
  | .vior o => Sys2Proof.Machine.execVior o s
  | .vxor o => Sys2Proof.Machine.execVxor o s
  | .vnot o => Sys2Proof.Machine.execVnot o s
  | .vshl o => Sys2Proof.Machine.execVshl o s
  | .vshr o => Sys2Proof.Machine.execVshr o s
  | .vsha o => Sys2Proof.Machine.execVsha o s
  | .vclz o => Sys2Proof.Machine.execVclz o s
  | .vpopc o => Sys2Proof.Machine.execVpopc o s
  | .vmerge o => Sys2Proof.Machine.execVmerge o s
  | .vmv o => Sys2Proof.Machine.execVmv o s
  | .vidx o => Sys2Proof.Machine.execVidx o s
  | .vslup o => Sys2Proof.Machine.execVslup o s
  | .vsldn o => Sys2Proof.Machine.execVsldn o s
  | .vrgath o => Sys2Proof.Machine.execVrgath o s
  | .vcompr o => Sys2Proof.Machine.execVcompr o s
  | .vextr o => Sys2Proof.Machine.execVextr o s
  | .vins o => Sys2Proof.Machine.execVins o s
  | .vscl o => Sys2Proof.Machine.execVscl o s
  | .vrnd o => Sys2Proof.Machine.execVrnd o s
  | .vdotq o => Sys2Proof.Machine.execVdotq o s
  | .vclass o => Sys2Proof.Machine.execVclass o s
  | .vrsum o => Sys2Proof.Machine.execVrsum o s
  | .vrsumo o => Sys2Proof.Machine.execVrsumo o s
  | .vrmin o => Sys2Proof.Machine.execVrmin o s
  | .vrmax o => Sys2Proof.Machine.execVrmax o s
  | .vscan o => Sys2Proof.Machine.execVscan o s
  | .vfetch v vm => Sys2Proof.Machine.execVfetch v vm s
  | .lend => Sys2Proof.Machine.execLend s
  | .vtget o => Sys2Proof.Machine.execVtget o s
  | .vtset o => Sys2Proof.Machine.execVtset o s
  | .vtzero o => Sys2Proof.Machine.execVtzero o s
  | .tan k body => Sys2Proof.Machine.execTan k body s
  | .gprod o => Sys2Proof.Machine.execGprod o s
  | .gwedge o => Sys2Proof.Machine.execGwedge o s
  | .gjoin o => Sys2Proof.Machine.execGjoin o s
  | .ginner o => Sys2Proof.Machine.execGinner o s
  | .gsand o => Sys2Proof.Machine.execGsand o s
  | .grev o => Sys2Proof.Machine.execGrev o s
  | .gdual o => Sys2Proof.Machine.execGdual o s
  | .ggrade o => Sys2Proof.Machine.execGgrade o s
  | .gnorm o => Sys2Proof.Machine.execGnorm o s
  | .gadd o => Sys2Proof.Machine.execGadd o s
  | .gsub o => Sys2Proof.Machine.execGsub o s
  | .gscale o => Sys2Proof.Machine.execGscale o s
  | .gld o => Sys2Proof.Machine.execGld o s
  | .gst o => Sys2Proof.Machine.execGst o s
  | .gexp o => Sys2Proof.Machine.execGexp o s
  | .gxsign o => Sys2Proof.Machine.execGxsign o s
  | .gsel o => Sys2Proof.Machine.execGsel o s
  | .gfromv o => Sys2Proof.Machine.execGfromv o s
  | .gtov o => Sys2Proof.Machine.execGtov o s
  | .iadd o => Sys2Proof.Machine.execIadd o s
  | .isub o => Sys2Proof.Machine.execIsub o s
  | .imul o => Sys2Proof.Machine.execImul o s
  | .idiv o => Sys2Proof.Machine.execIdiv o s
  | .isqr o => Sys2Proof.Machine.execIsqr o s
  | .isqrt o => Sys2Proof.Machine.execIsqrt o s
  | .iexp o => Sys2Proof.Machine.execIexp o s
  | .ilog o => Sys2Proof.Machine.execIlog o s
  | .ineg o => Sys2Proof.Machine.execIneg o s
  | .iabs o => Sys2Proof.Machine.execIabs o s
  | .imin o => Sys2Proof.Machine.execImin o s
  | .imax o => Sys2Proof.Machine.execImax o s
  | .cadd o => Sys2Proof.Machine.execCadd o s
  | .csub o => Sys2Proof.Machine.execCsub o s
  | .cmul o => Sys2Proof.Machine.execCmul o s
  | .cdiv o => Sys2Proof.Machine.execCdiv o s
  | .csqr o => Sys2Proof.Machine.execCsqr o s
  | .csqrt o => Sys2Proof.Machine.execCsqrt o s
  | .cexp o => Sys2Proof.Machine.execCexp o s
  | .clog o => Sys2Proof.Machine.execClog o s
  | .cneg o => Sys2Proof.Machine.execCneg o s
  | .cabs o => Sys2Proof.Machine.execCabs o s
  | .cmin o => Sys2Proof.Machine.execCmin o s
  | .cmax o => Sys2Proof.Machine.execCmax o s
  | .ihull o => Sys2Proof.Machine.execIhull o s
  | .imeet o => Sys2Proof.Machine.execImeet o s
  | .isplit o => Sys2Proof.Machine.execIsplit o s
  | .imid o => Sys2Proof.Machine.execImid o s
  | .iwid o => Sys2Proof.Machine.execIwid o s
  | .imk o => Sys2Proof.Machine.execImk o s
  | .ilo o => Sys2Proof.Machine.execIlo o s
  | .ihi o => Sys2Proof.Machine.execIhi o s
  | .icmplt o => Sys2Proof.Machine.execIcmplt o s
  | .icmple o => Sys2Proof.Machine.execIcmple o s
  | .icmpeq o => Sys2Proof.Machine.execIcmpeq o s
  | .iin o => Sys2Proof.Machine.execIin o s
  | .iempty o => Sys2Proof.Machine.execIempty o s
  | .isubset o => Sys2Proof.Machine.execIsubset o s
  | .ild o => Sys2Proof.Machine.execIld o s
  | .ist o => Sys2Proof.Machine.execIst o s
  | .mclaim b => Sys2Proof.Machine.execMclaim b s
  | .matrixStateGrant stop => Sys2Proof.Machine.execMatrixStateGrant stop s
  | .mfree => Sys2Proof.Machine.execMfree s
  | .msetvl b c => Sys2Proof.Machine.execMsetvl b c s
  | .mwipe t => Sys2Proof.Machine.execMwipe t s
  | .opadd o => Sys2Proof.Machine.execOpadd o s
  | .opsub o => Sys2Proof.Machine.execOpsub o s
  | .opxsc o => Sys2Proof.Machine.execOpxsc o s
  | .trowr o => Sys2Proof.Machine.execTrowr o s
  | .tcolr o => Sys2Proof.Machine.execTcolr o s
  | .troww o => Sys2Proof.Machine.execTroww o s
  | .tcolw o => Sys2Proof.Machine.execTcolw o s
  | .mld o => Sys2Proof.Machine.execMld o s
  | .mldt o => Sys2Proof.Machine.execMldt o s
  | .mst o => Sys2Proof.Machine.execMst o s
  | .mstt o => Sys2Proof.Machine.execMstt o s
  | .tileTransferComplete id => Sys2Proof.Machine.execTileTransferComplete id s
  | .mcvt o => Sys2Proof.Machine.execMcvt o s
  | .cIll bits => Sys2Proof.Machine.execCIll bits s
  | .cAdd a c => Sys2Proof.Machine.execCAdd a c s
  | .cAddi a imm => Sys2Proof.Machine.execCAddi a imm s
  | .cMov a c => Sys2Proof.Machine.execCMov a c s
  | .cLi a imm => Sys2Proof.Machine.execCLi a imm s
  | .cLd a n => Sys2Proof.Machine.execCLd a n s
  | .cSt a n => Sys2Proof.Machine.execCSt a n s
  | .cBeqz a off => Sys2Proof.Machine.execCBeqz a off s
  | .cBnez a off => Sys2Proof.Machine.execCBnez a off s
  | .cJ off => Sys2Proof.Machine.execCJ off s
  | .cLsli a n => Sys2Proof.Machine.execCLsli a n s
  | .cVsetvl a => Sys2Proof.Machine.execCVsetvl a s
  | .cBrt n => Sys2Proof.Machine.execCBrt n s
  | .cNop => Sys2Proof.Machine.execCNop s
  | .cSub a c => Sys2Proof.Machine.execCSub a c s
  | .launchReady lid => Sys2Proof.Machine.execLaunchReady lid s
  | .placement lid => Sys2Proof.Machine.execPlacement lid s
  | .preEmption lid => Sys2Proof.Machine.execPreEmption lid s
  | .slotEviction stop lid => Sys2Proof.Machine.execSlotEviction stop lid s
  | .savedHartReplacement k => Sys2Proof.Machine.execSavedHartReplacement k s
  | .victimResume stop => Sys2Proof.Machine.execVictimResume stop s
  | .hartRetirement k => Sys2Proof.Machine.execHartRetirement k s
  | .launchCompletion lid => Sys2Proof.Machine.execLaunchCompletion lid s
  | .stripRequest k => Sys2Proof.Machine.execStripRequest k s
  | .postMessage s_i => Sys2Proof.Machine.execPostMessage s_i s
  | .barrierRelease lid => Sys2Proof.Machine.execBarrierRelease lid s
  | .convoyRelease lid => Sys2Proof.Machine.execConvoyRelease lid s
  | .lampDelivery k => Sys2Proof.Machine.execLampDelivery k s
  | .engineFault k => Sys2Proof.Machine.execEngineFault k s
  | .debugSingleStep k => Sys2Proof.Machine.execDebugSingleStep k s
  | .coreError stop => Sys2Proof.Machine.execCoreError stop s
  | .gangLost k => Sys2Proof.Machine.execGangLost k s
  | .dbgHaltreq stop v => Sys2Proof.Machine.execDbgHaltreq stop v s
  | .debugHalt k => Sys2Proof.Machine.execDebugHalt k s
  | .dbgGoreq stop v => Sys2Proof.Machine.execDbgGoreq stop v s
  | .dbgdata stop write => Sys2Proof.Machine.execDbgdata stop write s
  | .streamStart id => Sys2Proof.Machine.execStreamStart id s
  | .streamElement id => Sys2Proof.Machine.execStreamElement id s
  | .streamCompletion id => Sys2Proof.Machine.execStreamCompletion id s
  | .streamFault id => Sys2Proof.Machine.execStreamFault id s
  | .routeReservation k => Sys2Proof.Machine.execRouteReservation k s
  | .routeRowDelivery stop entry row slot => Sys2Proof.Machine.execRouteRowDelivery stop entry row slot s
  | .reassembly stop entry => Sys2Proof.Machine.execReassembly stop entry s
  | .routeTimeout stop entry => Sys2Proof.Machine.execRouteTimeout stop entry s
  | .routeTimeoutTrap k => Sys2Proof.Machine.execRouteTimeoutTrap k s
  | .assayctlClose => Sys2Proof.Machine.execAssayctlClose s
  | .assayRehashDone => Sys2Proof.Machine.execAssayRehashDone s
  | .patrolScrub pa err => Sys2Proof.Machine.execPatrolScrub pa err s
  | .meshMonitorWindow die lmax lmean => Sys2Proof.Machine.execMeshMonitorWindow die lmax lmean s
  | .linkDown link => Sys2Proof.Machine.execLinkDown link s
  | .linkUp link => Sys2Proof.Machine.execLinkUp link s
  | .counterClear pa => Sys2Proof.Machine.execCounterClear pa s
  | .hostMemAccess pa n write => Sys2Proof.Machine.execHostMemAccess pa n write s
  | .getVersion => Sys2Proof.Machine.execGetVersion s
  | .getCapabilities => Sys2Proof.Machine.execGetCapabilities s
  | .negotiateAlgorithms => Sys2Proof.Machine.execNegotiateAlgorithms s
  | .getDigests => Sys2Proof.Machine.execGetDigests s
  | .getCertificate => Sys2Proof.Machine.execGetCertificate s
  | .challenge nonce => Sys2Proof.Machine.execChallenge nonce s
  | .getMeasurements index => Sys2Proof.Machine.execGetMeasurements index s
  | .securityVersionWrite v => Sys2Proof.Machine.execSecurityVersionWrite v s
  | .powerModeWrite v => Sys2Proof.Machine.execPowerModeWrite v s
  | .powerGrant => Sys2Proof.Machine.execPowerGrant s
  | .thermalHold => Sys2Proof.Machine.execThermalHold s
  | .thermalRelease => Sys2Proof.Machine.execThermalRelease s
  | .powerGood => Sys2Proof.Machine.execPowerGood s
  | .illegalInstruction bits => Sys2Proof.Machine.execIllegalInstruction bits s
  | .softError place correctable => Sys2Proof.Machine.execSoftError place correctable s
  | .coreReset stop => Sys2Proof.Machine.execCoreReset stop s
  | .nodeRemoval node => Sys2Proof.Machine.execNodeRemoval node s

end Sys2Proof.Machine
end

