-- ==== Sys2Proof/Machine/Step.lean ====
section
/-! DEFINITION. One step of the device: an instruction of the hart in focus, what is due at its boundary, or an event; and
how a word is placed where the next step fetches it. -/
namespace Sys2Proof.Machine

/-- The instruction that stands for an event. -/
noncomputable def Event.instr : Event → Instr
  | .crWrite cr v => .crWrite cr v
  | .lampcauseOvfClear => .lampcauseOvfClear
  | .monitorWake k lost => .monitorWake k lost
  | .vpushDelivery id => .vpushDelivery id
  | .matrixStateGrant stop => .matrixStateGrant stop
  | .tileTransferComplete id => .tileTransferComplete id
  | .launchReady lid => .launchReady lid
  | .placement lid => .placement lid
  | .preEmption lid => .preEmption lid
  | .slotEviction stop lid => .slotEviction stop lid
  | .savedHartReplacement k => .savedHartReplacement k
  | .victimResume stop => .victimResume stop
  | .hartRetirement k => .hartRetirement k
  | .launchCompletion lid => .launchCompletion lid
  | .stripRequest k => .stripRequest k
  | .postMessage i => .postMessage i
  | .barrierRelease lid => .barrierRelease lid
  | .convoyRelease lid => .convoyRelease lid
  | .lampDelivery k => .lampDelivery k
  | .engineFault k => .engineFault k
  | .debugSingleStep k => .debugSingleStep k
  | .coreError stop => .coreError stop
  | .gangLost k => .gangLost k
  | .dbgHaltreq stop v => .dbgHaltreq stop v
  | .debugHalt k => .debugHalt k
  | .dbgGoreq stop v => .dbgGoreq stop v
  | .dbgdata stop write => .dbgdata stop write
  | .streamStart id => .streamStart id
  | .streamElement id => .streamElement id
  | .streamCompletion id => .streamCompletion id
  | .streamFault id => .streamFault id
  | .routeReservation k => .routeReservation k
  | .routeRowDelivery stop entry row slot => .routeRowDelivery stop entry row slot
  | .reassembly stop entry => .reassembly stop entry
  | .routeTimeout stop entry => .routeTimeout stop entry
  | .routeTimeoutTrap k => .routeTimeoutTrap k
  | .assayctlClose => .assayctlClose
  | .assayRehashDone => .assayRehashDone
  | .patrolScrub pa err => .patrolScrub pa err
  | .meshMonitorWindow die lmax lmean => .meshMonitorWindow die lmax lmean
  | .linkDown link => .linkDown link
  | .linkUp link => .linkUp link
  | .counterClear pa => .counterClear pa
  | .hostMemAccess pa n write => .hostMemAccess pa n write
  | .getVersion => .getVersion
  | .getCapabilities => .getCapabilities
  | .negotiateAlgorithms => .negotiateAlgorithms
  | .getDigests => .getDigests
  | .getCertificate => .getCertificate
  | .challenge nonce => .challenge nonce
  | .getMeasurements index => .getMeasurements index
  | .securityVersionWrite v => .securityVersionWrite v
  | .powerModeWrite v => .powerModeWrite v
  | .powerGrant => .powerGrant
  | .thermalHold => .thermalHold
  | .thermalRelease => .thermalRelease
  | .powerGood => .powerGood
  | .illegalInstruction bits => .illegalInstruction bits
  | .softError place correctable => .softError place correctable
  | .coreReset stop => .coreReset stop
  | .nodeRemoval node => .nodeRemoval node

/-- What runs at the pc of the hart in focus: the decoded instruction, or cause 0 (03 R44). -/
noncomputable def runCode (c : Code) (s : State) : Host.Outcome State Fault Refusal :=
  match decode c.bits with
  | .ok i => exec i s
  | .error _ => exec (.illegalInstruction c.bits) s

/-- Fetches at the pc and executes; a fetch that fails is a trap (03 R45). -/
noncomputable def fetchAndRun (s : State) : Host.Outcome State Fault Refusal :=
  let r := (fetchCode s.h.pc).run s
  match r.1 with
  | .ok c => runCode c r.2
  | .error (.trap cause v) => .next (r.2.takeTrap cause v)
  | .error .wait => .next r.2

/-- The turn of the hart in focus: what is due at its boundary comes before its next instruction (08 R159). -/
noncomputable def hartTurn (s : State) : Host.Outcome State Fault Refusal :=
  match s.h.due with
  | some (.event e) => exec e.instr s
  | some .evict => .next (s.takeEviction s.h.key)
  | none => fetchAndRun s

/-- What follows an outcome. -/
def afterStep : Host.Outcome State Fault Refusal → Host.Outcome State Fault Refusal
  | .next s => .next s.endStep
  | o => o

/-- One step. A device whose firmware was refused is dead once nothing comes from outside (24 R360); otherwise, with nothing
to do, nothing changes. -/
noncomputable def step (s : State) : Host.Outcome State Fault Refusal :=
  match s.turn with
  | .hart => afterStep (hartTurn s)
  | .event e => afterStep (exec e.instr s)
  | .nothing =>
    if s.nextInput.isSome then .next s.schedule
    else if s.devstat.getLsbD 1 then .fault .deviceDead
    else .next s

/-! ### Placing a word -/

/-- A hart that can issue: nothing due, nothing under way. -/
def Hart.ready (h : Hart) : Hart :=
  { h with
    live := true, haltReq := false, halted := false, frozen := false, saved := false, blocked := false, idle := false
    retiring := false, stepDue := false, gangLost := [], faults := [], timeouts := [], evict := none, lamps := []
    waitReg := none, begun := [], lane := none }

/-- The first page from which a placed word is fetched when the pc cannot be. -/
def placePc : Word := 0x10000

/-- A top-level leaf that maps the low half of the address space to itself, with every permission. -/
def State.identityMap (s : State) : State :=
  { (s.onHart fun h => { h with pc := placePc, ptbase := 0 }) with
    mem := s.mem.writeNat 0 8 0x3F, poison := s.poison.filter (· ≠ 0), tlb := [] }

/-- The bytes of a word at a location. -/
def State.placeAt (s : State) (loc w : Nat) : State :=
  { s with mem := s.mem.writeNat loc 8 w, poison := s.poison.filter fun p => p * 8 + 8 ≤ loc || loc + 8 ≤ p * 8 }

/-- `s` with the instruction `w` of `nbits` bits where the next step fetches, and the hart in focus about to fetch it. A hart
that is not there, or whose pc cannot be fetched from, gets a pc and a page table of its own. -/
def State.withFetchWord (s : State) (nbits w : Nat) : State :=
  let t := { (s.onHart Hart.ready) with turn := .hart, part := none, outside := none, tanPrefix := none, tlb := [], icaches := [] }
  let t := if s.h.live && (match (t.locate t.h.space t.h.pc .fetch).1 with | .ok loc => regionOf loc == .device | .error _ => false)
      && t.h.pc.toNat % 65536 < 65529 && !t.h.pc.getLsbD 0 then t else t.identityMap
  match (t.locate t.h.space t.h.pc .fetch).1 with
  | .ok loc => t.placeAt loc (w % 2 ^ nbits)
  | .error _ => t

end Sys2Proof.Machine
end

