-- ==== Sys2Proof/Safety.lean ====
section
/-! DEFINITION. What claims are stated in: a safe run, the invariants of the device, and how a meaning ends. -/
namespace Sys2Proof.Machine

/-! ### Invariants -/

/-- Every storage is in canonical form. -/
def State.canonical (s : State) : Bool := s.mem.wf && s.regs.wf && s.tiles.wf

/-- A hart has the turn only when it can issue: it is placed, and not frozen, halted, saved or waiting
(07 R139, R140, R143; 08 R168). -/
def State.turnFits (s : State) : Bool := s.turn != .hart || s.h.runnable

/-- MROWS and MCOLS of every core are at most 64 (13 R238). -/
def State.extentsOk (s : State) : Bool := s.matrices.all fun m => m.mrows.toNat ≤ 64 && m.mcols.toNat ≤ 64

/-! ### Safe runs -/

/-- A run of `n` steps that neither faults nor meets an instruction without a meaning. -/
def State.runsSafely : Nat → State → Prop
  | 0, _ => True
  | n + 1, s => match step s with
    | .next t => t.runsSafely n
    | _ => False

/-! ### How a meaning ends -/

/-- `m` succeeds on `s` with answer `a` and leaves `t`: it takes no trap and does not wait. -/
def Gives {α : Type} (m : M α) (s : State) (a : α) (t : State) : Prop := m.run.run s = (.ok a, t)

/-- The hart in focus writes a scalar register, and the instruction of `len` bytes retires. -/
def State.writes (s : State) (a : SReg) (v : Word) (len : Word := 4) : State := (s.onHart fun h => h.put a v).retire len

/-! ### What an access needs -/

/-- An aligned access of the hart in focus to `n` bytes at `ea` is allowed and reaches plain storage at `loc`; `t` is the
state once the address is translated (05 R73 to R76, R85, R91). -/
structure State.Reaches (s : State) (acc : Access) (ea : Word) (n loc : Nat) (t : State) : Prop where
  aligned : ea.toNat % n = 0
  found : s.locate s.h.space ea acc = (.ok loc, t)
  storage : regionOf loc ≠ .control ∧ regionOf loc ≠ .link
  free : t.conflict t.h.key (acc == .store) .virt ea.toNat (ea.toNat + n) = false

/-- An access of the hart in focus at `va` finds plain storage at `loc` without a translation being made (05 R73 to R76). -/
def State.Lies (s : State) (acc : Access) (va : Word) (loc : Nat) : Prop :=
  s.locate s.h.space va acc = (.ok loc, s) ∧ regionOf loc ≠ .control ∧ regionOf loc ≠ .link

/-- The same for one of the accesses of an instruction that stores the bytes `touched`: none of them is one that the translation
rests on. -/
def State.LiesWhile (s : State) (touched : Nat → Prop) (acc : Access) (va : Word) (loc : Nat) : Prop :=
  (∀ u : State, u.tlb = s.tlb → u.links = s.links → (∀ x, ¬ touched x → u.mem.read x = s.mem.read x) →
    (∀ w, (∀ i, i < 8 → ¬ touched (8 * w + i)) → (w ∈ u.poison ↔ w ∈ s.poison)) →
    u.locate s.h.space va acc = (.ok loc, u)) ∧ regionOf loc ≠ .control ∧ regionOf loc ≠ .link

/-- Every store of the open strip is a scalar one (05 R80). -/
def Hart.scalarStrip (h : Hart) : Prop := ∀ e ∈ h.strip, e.kind = .scalar

/-! ### Vector instructions -/

/-- Nothing stands in the way of the elements of an instruction: nothing stops it part-way, no register memory is poisoned, no
floating-point trap is enabled, no queue is bound. -/
structure State.Calm (s : State) : Prop where
  whole : s.part = none
  clean : s.regPoison = []
  masked : s.h.fcsr.setWidth 5 = (0 : Flags)
  loose : ∀ q < 4, s.h.queue q = none

/-- The state after the loop of a vector instruction: register memory, flags, SSTEP and HSTAT have changed, VSTART is 0 and
the instruction has retired. -/
def State.afterLoop (s : State) (regs : Memory) (f : Flags) (sstep hstat : Word) (len : Word := 4) : State :=
  (({ s with regs := regs }).onHart fun h =>
    { h with fcsr := raise h.fcsr f, sstep := sstep, hstat := hstat, vstart := 0 }).retire len

/-- A byte of register memory that lies in tangents `lo` to `hi` − 1 of one of some windows (0 the primal), in the hart's
lanes (11 R226). -/
def Hart.inTangents (h : Hart) (ws : List Window) (lo hi loc : Nat) : Prop :=
  ∃ w ∈ ws, ∃ lane off, h.lane0 ≤ lane ∧ lane < h.lane0 + h.lanes ∧
    h.firstByte w + lo * w.bytes ≤ off ∧ off < h.firstByte w + hi * w.bytes ∧ loc = regLoc h.stop lane off

/-- A byte of register memory that lies in one of some windows or its tangents 1 to `k`. -/
def Hart.inWindows (h : Hart) (ws : List Window) (k loc : Nat) : Prop := h.inTangents ws 0 (k + 1) loc

/-- Nothing but its addresses decides what a vector access finds: no Pillar entry, no open strip, no mark in memory. -/
structure State.Plain (s : State) : Prop where
  noEntry : s.pillars = []
  noStrip : s.h.strip = []
  noMark : s.poison = []

/-- VPART lies within the lanes' memories (09 R169). -/
def Hart.fits (h : Hart) : Prop := h.partBase + h.partLen ≤ 8192

/-- An instruction of the mould: what it accepts and what it does once dispatched. -/
structure MouldRow where
  instr : VOps → Instr
  spec : VSpec
  body : VOps → M VBody

/-- The conversions, arithmetic, bit and move instructions of the lanes (10 R202 to R211). -/
def laneRows : List MouldRow :=
  [⟨.vadd, arithStoch, vaddBody⟩, ⟨.vsub, arithStoch, vsubBody⟩, ⟨.vrsub, arithStoch, vrsubBody⟩,
   ⟨.vmul, arithStoch, vmulBody⟩, ⟨.vmulh, integral, vmulhBody⟩, ⟨.vdiv, arith, vdivBody⟩, ⟨.vrem, integral, vremBody⟩,
   ⟨.vma, accumulating, vmaBody⟩, ⟨.vms, accumulating, vmsBody⟩, ⟨.vnma, accumulating, vnmaBody⟩,
   ⟨.vmin, arith, vminBody⟩, ⟨.vmax, arith, vmaxBody⟩, ⟨.vabs, unaryAlike, vabsBody⟩, ⟨.vneg, unaryAlike, vnegBody⟩]
  ++ [⟨.vsqrt, unarySpec true, vsqrtBody⟩, ⟨.vrcp, unarySpec true, vrcpBody⟩, ⟨.vrsq, unarySpec true, vrsqBody⟩,
   ⟨.vexp2, unarySpec false, vexp2Body⟩, ⟨.vlog2, unarySpec false, vlog2Body⟩, ⟨.vcvt, vcvtSpec, vcvtBody⟩,
   ⟨.vand, bitwise, vandBody⟩, ⟨.vior, bitwise, viorBody⟩, ⟨.vxor, bitwise, vxorBody⟩, ⟨.vnot, notSpec, vnotBody⟩,
   ⟨.vshl, shiftSpec, vshlBody⟩, ⟨.vshr, shiftSpec, vshrBody⟩, ⟨.vsha, shiftSpec, vshaBody⟩,
   ⟨.vclz, countSpec, vclzBody⟩, ⟨.vpopc, countSpec, vpopcBody⟩]
  ++ [⟨.vmerge, mergeSpec, vmergeBody⟩, ⟨.vmv, vmvSpec, vmvBody⟩, ⟨.vidx, vidxSpec, vidxBody⟩, ⟨.vscl, vsclSpec, vsclBody⟩,
   ⟨.vrnd, roundSpec, vrndBody⟩, ⟨.vdotq, dotSpec, vdotqBody⟩, ⟨.vclass, classSpec, vclassBody⟩]

/-- The compares, permutes and the scan (10 R212, R214, R215, R218). -/
def shapeRows : List MouldRow :=
  let compare : VSpec := { compareSpec with toMask := true, tangents := false }
  [⟨.vcmpEq, compare, vcmpEqBody⟩, ⟨.vcmpNe, compare, vcmpNeBody⟩, ⟨.vcmpLt, compare, vcmpLtBody⟩,
   ⟨.vcmpLe, compare, vcmpLeBody⟩, ⟨.vcmpGt, compare, vcmpGtBody⟩, ⟨.vcmpGe, compare, vcmpGeBody⟩,
   ⟨.vcmpUn, compare, vcmpUnBody⟩, ⟨.vcmpOrd, compare, vcmpOrdBody⟩]
  ++ [⟨.vslup, permuteSpec [1, 2], vslupBody⟩, ⟨.vsldn, permuteSpec [1, 2], vsldnBody⟩,
   ⟨.vrgath, permuteSpec [0, 1], vrgathBody⟩, ⟨.vcompr, comprSpec, vcomprBody⟩, ⟨.vscan, scanSpec, vscanBody⟩]

/-- The reductions: instruction and what it accepts (10 R216 to R218). -/
def reduceRows : List ((VOps → Instr) × VSpec) :=
  [(.vrsum, reduceSpec), (.vrsumo, reduceSpec), (.vrmin, pickSpec), (.vrmax, pickSpec)]

/-- SSTEP after an instruction under the format word s24 + n retires (04 R66). -/
def State.nextSstep (s : State) (n : BitVec 3) : Word :=
  if (formatWord (s.h.formatReg n)).rm = 5 then (s.h.sstep + 1) &&& 0xFFFFFFFF else s.h.sstep

/-- The windows that an instruction of the mould may write: its destination, and the scale register of an MX destination. -/
def State.mouldWindows (s : State) (spec : VSpec) (o : VOps) : List Window :=
  let fw := formatWord (s.h.formatReg o.n)
  (if spec.toMask then s.h.muse (o.a.toNat % 8) else s.h.vuse o.a.toNat (fmtOf fw.df).width).windows
    ++ (if (fmtOf fw.df).isMx then (s.h.svuse fw.sv).windows else [])

/-- `f` succeeds on the numbers from `i` to `i + n − 1` in order. -/
inductive Performs (f : Nat → M Unit) : Nat → Nat → State → State → Prop where
  | done (i : Nat) (s : State) : Performs f i 0 s s
  | next {i n : Nat} {s t u : State} : Gives (f i) s () t → Performs f (i + 1) n t u → Performs f i (n + 1) s u

/-- Instructions of an element loop: constructor and what dispatch leaves. -/
structure LoopRow (ops : Type) where
  instr : ops → Instr
  body : ops → M VBody

/-- The geometry instructions that access no memory (15 R269 to R276). -/
noncomputable def geoRows : List (LoopRow GOps) :=
  [⟨.gprod, bilinear .geometric⟩, ⟨.gwedge, bilinear .wedge⟩, ⟨.gjoin, bilinear .join⟩, ⟨.ginner, bilinear .inner⟩,
   ⟨.gsand, gsandBody⟩, ⟨.grev, grevBody⟩, ⟨.gdual, gdualBody⟩, ⟨.ggrade, ggradeBody⟩, ⟨.gnorm, gnormBody⟩,
   ⟨.gadd, gaddBody⟩, ⟨.gsub, gsubBody⟩, ⟨.gscale, gscaleBody⟩, ⟨.gexp, gexpBody⟩, ⟨.gxsign, gxsignBody⟩,
   ⟨.gsel, gselBody⟩, ⟨.gfromv, gfromvBody⟩, ⟨.gtov, gtovBody⟩]

/-- The windows that a geometry instruction writes. -/
def State.geoWindows (s : State) (i : Instr) (o : GOps) : List Window :=
  match i with
  | .gtov _ =>
    let mask := if o.d = 0 then s.h.gmask o.b.toNat else o.d.toNat
    (List.range (bladesOf mask).length).map fun q => s.h.vwin (o.a.toNat + q)
  | _ => [s.h.gwin o.a.toNat]

/-- Forward interval arithmetic, set operations and conversions (18 R290, R294, R295). -/
noncomputable def intervalRows : List (LoopRow IvOps) :=
  [⟨.iadd, iaddBody⟩, ⟨.isub, isubBody⟩, ⟨.imul, imulBody⟩, ⟨.idiv, idivBody⟩, ⟨.isqr, isqrBody⟩, ⟨.isqrt, isqrtBody⟩,
   ⟨.iexp, iexpBody⟩, ⟨.ilog, ilogBody⟩, ⟨.ineg, inegBody⟩, ⟨.iabs, iabsBody⟩, ⟨.imin, iminBody⟩, ⟨.imax, imaxBody⟩,
   ⟨.ihull, ihullBody⟩, ⟨.imeet, imeetBody⟩, ⟨.isplit, isplitBody⟩, ⟨.imk, imkBody⟩]
/-- The contractors (18 R291). -/
noncomputable def contractRows : List (LoopRow IvOps) :=
  [⟨.cadd, caddBody⟩, ⟨.csub, csubBody⟩, ⟨.cmul, cmulBody⟩, ⟨.cdiv, cdivBody⟩, ⟨.csqr, csqrBody⟩, ⟨.csqrt, csqrtBody⟩,
   ⟨.cexp, cexpBody⟩, ⟨.clog, clogBody⟩, ⟨.cneg, cnegBody⟩, ⟨.cabs, cabsBody⟩, ⟨.cmin, cminBody⟩, ⟨.cmax, cmaxBody⟩]
/-- The interval instructions with a vector destination. -/
noncomputable def boundRows : List (LoopRow IvOps) := [⟨.imid, imidBody⟩, ⟨.iwid, iwidBody⟩, ⟨.ilo, iloBody⟩, ⟨.ihi, ihiBody⟩]
/-- The interval compares and tests with a mask destination (18 R296, R294). -/
noncomputable def testRows : List (LoopRow IvOps) :=
  [⟨.icmplt, icmpltBody⟩, ⟨.icmple, icmpleBody⟩, ⟨.icmpeq, icmpeqBody⟩, ⟨.iin, iinBody⟩, ⟨.iempty, iemptyBody⟩,
   ⟨.isubset, isubsetBody⟩]

/-- The windows that an interval instruction writes. -/
def State.intervalWindows (s : State) (i : Instr) (o : IvOps) : List Window :=
  let a := o.a.toNat
  let b := o.b.toNat
  match i with
  | .isplit _ => [s.h.iwin a, s.h.iwin b]
  | .cadd _ | .csub _ | .cmul _ | .cdiv _ | .cmin _ | .cmax _ => [s.h.iwin b, s.h.iwin o.c.toNat]
  | .csqr _ | .csqrt _ | .cexp _ | .clog _ | .cneg _ | .cabs _ => [s.h.iwin b]
  | .imid _ | .iwid _ | .ilo _ | .ihi _ => [s.h.vwin a]
  | .icmplt _ | .icmple _ | .icmpeq _ => [s.h.mwin a, s.h.mwin (a + 1)]
  | .iin _ | .iempty _ | .isubset _ => [s.h.mwin a]
  | _ => [s.h.iwin a]

/-- The element loops that load (09 R187, R189, 15 R274, 18 R297). -/
noncomputable def loadRows : List (LoopRow VmOps) := [⟨.vld, vldBody⟩, ⟨.vldm, vldmBody⟩, ⟨.ild, ildBody⟩]
/-- The element loops that store or reduce into memory (09 R187, R189, R191, 18 R297). -/
noncomputable def storeRows : List (LoopRow VmOps) :=
  [⟨.vst, vstBody⟩, ⟨.vstu, vstuBody⟩, ⟨.vstm, vstmBody⟩, ⟨.ist, istBody⟩]
  ++ [⟨.vsredIadd, scatterBody false 0⟩, ⟨.vsredMins, scatterBody false 2⟩, ⟨.vsredMaxs, scatterBody false 3⟩,
   ⟨.vsredMinn, scatterBody false 4⟩, ⟨.vsredMaxn, scatterBody false 5⟩, ⟨.vsredAnd, scatterBody false 6⟩,
   ⟨.vsredIor, scatterBody false 7⟩, ⟨.vsredoIadd, scatterBody true 0⟩, ⟨.vsredoFadd, scatterBody true 1⟩,
   ⟨.vsredoMins, scatterBody true 2⟩, ⟨.vsredoMaxs, scatterBody true 3⟩, ⟨.vsredoMinn, scatterBody true 4⟩,
   ⟨.vsredoMaxn, scatterBody true 5⟩, ⟨.vsredoAnd, scatterBody true 6⟩, ⟨.vsredoIor, scatterBody true 7⟩]

end Sys2Proof.Machine
end

