-- ==== Sys2Proof/Certificates/Slice0/Obligations.lean ====
section
/-! DEFINITION. The statements about this machine. One that says what a storage reads back, or that the rest of it stays, starts
from a state whose storages are canonical (`State.canonical`), which every step keeps (StorageInvariantKept). -/
open Sys2Proof Sys2Proof.Machine

/-! ### Scalar integer instructions -/

/-- 06 R99: each register-register instruction completes, writes s[a] as the table gives it, and changes nothing else
but the pc (the division codes are R100's). A 32-bit variant computes on the low halves and sign-extends. 06 R99: MULHS
and MULHN write bits 127 to 64 of the signed and of the natural product; what the single-source codes write: CLZ and CTZ
the number of leading and of trailing zero bits, 64 for zero, POPC the number of one bits, BSWP the bytes in reverse
order. -/
def Obligations.IntegerRegisterResults : Prop :=
  ((∀ p ∈ ([
     (.add, fun x y => x + y), (.sub, fun x y => x - y), (.and, fun x y => x &&& y), (.ior, fun x y => x ||| y),
     (.xor, fun x y => x ^^^ y), (.lsl, fun x y => x <<< (y.toNat % 64)), (.lsr, fun x y => x >>> (y.toNat % 64)),
     (.asr, fun x y => x.sshiftRight (y.toNat % 64)), (.mul, fun x y => x * y),
     (.slt, fun x y => if x.toInt < y.toInt then 1 else 0), (.sltn, fun x y => if x.toNat < y.toNat then 1 else 0),
     (.mins, fun x y => if y.toInt < x.toInt then y else x), (.maxs, fun x y => if x.toInt < y.toInt then y else x),
     (.minn, fun x y => if y.toNat < x.toNat then y else x), (.maxn, fun x y => if x.toNat < y.toNat then y else x)]
       : List ((SReg → SReg → SReg → Instr) × (Word → Word → Word))),
     ∀ a b c s, exec (p.1 a b c) s = .next (s.writes a (p.2 (s.h.get b) (s.h.get c)))) ∧
   (∀ p ∈ ([
     (.addw, fun x y => x + y), (.subw, fun x y => x - y), (.lslw, fun x y => x <<< (y.toNat % 32)),
     (.lsrw, fun x y => x >>> (y.toNat % 32)), (.asrw, fun x y => x.sshiftRight (y.toNat % 32)), (.mulw, fun x y => x * y)]
       : List ((SReg → SReg → SReg → Instr) × (BitVec 32 → BitVec 32 → BitVec 32))),
     ∀ a b c s, exec (p.1 a b c) s =
       .next (s.writes a ((p.2 ((s.h.get b).setWidth 32) ((s.h.get c).setWidth 32)).signExtend 64)))) ∧
  ((∀ a b c s,
     exec (.mulhs a b c) s = .next (s.writes a (BitVec.ofInt 64 ((s.h.get b).toInt * (s.h.get c).toInt / 2 ^ 64))) ∧
     exec (.mulhn a b c) s = .next (s.writes a (BitVec.ofNat 64 ((s.h.get b).toNat * (s.h.get c).toNat / 2 ^ 64)))) ∧
   ∀ a b s, let x := s.h.get b
     (∃ v : Word, exec (.clz a b) s = .next (s.writes a v) ∧ v.toNat ≤ 64 ∧
       (∀ j, j < 64 → 64 ≤ v.toNat + j → x.getLsbD j = false) ∧ (v.toNat < 64 → x.getLsbD (63 - v.toNat) = true)) ∧
     (∃ v : Word, exec (.ctz a b) s = .next (s.writes a v) ∧ v.toNat ≤ 64 ∧
       (∀ j, j < v.toNat → x.getLsbD j = false) ∧ (v.toNat < 64 → x.getLsbD v.toNat = true)) ∧
     exec (.popc a b) s = .next (s.writes a (BitVec.ofNat 64 ((List.range 64).filter x.getLsbD).length)) ∧
     (∃ v : Word, exec (.bswp a b) s = .next (s.writes a v) ∧
       ∀ k, k < 8 → v.extractLsb' (8 * k) 8 = x.extractLsb' (8 * (7 - k)) 8))

/-- 06 R100: division never traps; a quotient that cannot be represented saturates toward the sign of the exact result.
The 32-bit variants apply the same table at 32 bits, and then sign-extend. The two worked words decode as the rule says.
-/
def Obligations.DivisionTable : Prop :=
  let quotS (n : Nat) (x y : BitVec n) : BitVec n :=
    if y = 0 then
      if x = 0 then 0 else if 0 < x.toInt then BitVec.ofInt n (2 ^ (n - 1) - 1) else BitVec.ofInt n (-2 ^ (n - 1))
    else if x.toInt = -2 ^ (n - 1) ∧ y.toInt = -1 then BitVec.ofInt n (2 ^ (n - 1) - 1)
    else BitVec.ofInt n (x.toInt.tdiv y.toInt)
  let quotN (n : Nat) (x y : BitVec n) : BitVec n :=
    if y = 0 then if x = 0 then 0 else BitVec.ofNat n (2 ^ n - 1) else BitVec.ofNat n (x.toNat / y.toNat)
  let remS (n : Nat) (x y : BitVec n) : BitVec n :=
    if y = 0 then x else BitVec.ofInt n (x.toInt.tmod y.toInt)
  let remN (n : Nat) (x y : BitVec n) : BitVec n := if y = 0 then x else BitVec.ofNat n (x.toNat % y.toNat)
  ∀ a b c s, let x := s.h.get b; let y := s.h.get c
    exec (.divs a b c) s = .next (s.writes a (quotS 64 x y)) ∧
    exec (.divn a b c) s = .next (s.writes a (quotN 64 x y)) ∧
    exec (.rems a b c) s = .next (s.writes a (remS 64 x y)) ∧
    exec (.remn a b c) s = .next (s.writes a (remN 64 x y)) ∧
    exec (.divsw a b c) s = .next (s.writes a ((quotS 32 (x.setWidth 32) (y.setWidth 32)).signExtend 64)) ∧
    exec (.divnw a b c) s = .next (s.writes a ((quotN 32 (x.setWidth 32) (y.setWidth 32)).signExtend 64)) ∧
    exec (.remsw a b c) s = .next (s.writes a ((remS 32 (x.setWidth 32) (y.setWidth 32)).signExtend 64)) ∧
    exec (.remnw a b c) s = .next (s.writes a ((remN 32 (x.setWidth 32) (y.setWidth 32)).signExtend 64)) ∧
    decode 0x635C8000 = .ok (.add 12 13 14) ∧ decode 0x635D8000 = .ok (.addw 12 13 14)

/-- 06 R101, R102, 03 R37: each immediate instruction completes and writes s[a] as the table gives it; each compressed
instruction that accesses no memory does what its 32-bit instruction does and is two bytes long; C.ILL takes cause 0. 06
R110, R111: each compare and branch, jump and prepared branch completes; what it links is written, then control passes
to the target when the comparison holds and to the next instruction when it does not. -/
def Obligations.ImmediateBranchCompressed : Prop :=
  ((∀ p ∈ ([
     (.addi, fun x i => x + i), (.andi, fun x i => x &&& i), (.iori, fun x i => x ||| i), (.xori, fun x i => x ^^^ i),
     (.slti, fun x i => if x.toInt < i.toInt then 1 else 0)]
       : List ((SReg → SReg → BitVec 12 → Instr) × (Word → Word → Word))),
     ∀ a b imm s, exec (p.1 a b imm) s = .next (s.writes a (p.2 (s.h.get b) (imm.signExtend 64)))) ∧
   (∀ p ∈ ([(.lsli, fun x n => x <<< n), (.lsri, fun x n => x >>> n), (.asri, fun x n => x.sshiftRight n)]
       : List ((SReg → SReg → BitVec 6 → Instr) × (Word → Nat → Word))),
     ∀ a b n s, exec (p.1 a b n) s = .next (s.writes a (p.2 (s.h.get b) n.toNat))) ∧
   (∀ a imm s, exec (.lih a imm) s = .next (s.writes a (BitVec.ofInt 64 (imm.toInt * 4096)))) ∧
   (∀ a imm s, exec (.addpc a imm) s = .next (s.writes a (s.h.pc + BitVec.ofInt 64 (imm.toInt * 4096)))) ∧
   (∀ a c s, exec (.cAdd a c) s = .next (s.writes a (s.h.get a + s.h.get c) 2)) ∧
   (∀ a c s, exec (.cSub a c) s = .next (s.writes a (s.h.get a - s.h.get c) 2)) ∧
   (∀ a c s, exec (.cMov a c) s = .next (s.writes a (s.h.get c) 2)) ∧
   (∀ a imm s, exec (.cAddi a imm) s = .next (s.writes a (s.h.get a + imm.signExtend 64) 2)) ∧
   (∀ a imm s, exec (.cLi a imm) s = .next (s.writes a (imm.signExtend 64) 2)) ∧
   (∀ a n s, exec (.cLsli a n) s = .next (s.writes a (s.h.get a <<< n.toNat) 2)) ∧
   (∀ s, exec .cNop s = .next (s.retire 2)) ∧
   (∀ a off s, exec (.cBeqz a off) s =
     .next (if s.h.get a = 0 then s.onHart fun h => h.goTo (h.pc + off.signExtend 64 * 2) else s.retire 2)) ∧
   (∀ a off s, exec (.cBnez a off) s =
     .next (if s.h.get a = 0 then s.retire 2 else s.onHart fun h => h.goTo (h.pc + off.signExtend 64 * 2))) ∧
   (∀ off s, exec (.cJ off) s = .next (s.onHart fun h => h.goTo (h.pc + off.signExtend 64 * 2))) ∧
   (∀ n s, exec (.cBrt n) s = .next (s.onHart fun h => h.goTo (h.b[n.toNat]'n.isLt))) ∧
   (∀ bits s, exec (.cIll bits) s = .next (s.takeTrap 0 (s.trapBits (encode (.cIll bits)))))) ∧
  ((∀ p ∈ ([
     (.beq, fun x y => x = y), (.bne, fun x y => x ≠ y), (.blt, fun x y => x.toInt < y.toInt),
     (.bge, fun x y => y.toInt ≤ x.toInt), (.bltn, fun x y => x.toNat < y.toNat), (.bgen, fun x y => y.toNat ≤ x.toNat)]
       : List ((SReg → SReg → BitVec 15 → Instr) × (Word → Word → Prop))),
     ∀ a b imm s,
       (p.2 (s.h.get a) (s.h.get b) →
         exec (p.1 a b imm) s = .next (s.onHart fun h => h.goTo (h.pc + imm.signExtend 64 * 2))) ∧
       (¬ p.2 (s.h.get a) (s.h.get b) → exec (p.1 a b imm) s = .next (s.retire 4))) ∧
   (∀ a imm s, exec (.jal a imm) s =
     .next ((s.onHart fun h => h.put a (h.pc + 4)).onHart fun h => h.goTo (s.h.pc + imm.signExtend 64 * 2))) ∧
   (∀ a b imm s, exec (.jr a b imm) s =
     .next ((s.onHart fun h => h.put a (h.pc + 4)).onHart fun h => h.goTo (s.h.get b + imm.signExtend 64))) ∧
   (∀ n imm s, exec (.ptb n imm) s = .next ((s.onHart fun h =>
     { h with b := h.b.set n.toNat (h.pc + imm.signExtend 64 * 2) n.isLt }).retire 4)) ∧
   (∀ n b imm s, exec (.ptbr n b imm) s = .next ((s.onHart fun h =>
     { h with b := h.b.set n.toNat (h.get b + imm.signExtend 64) n.isLt }).retire 4)) ∧
   (∀ n s, exec (.brt n) s = .next (s.onHart fun h => h.goTo (h.b[n.toNat]'n.isLt))) ∧
   (∀ n b s, exec (.brtnz n b) s =
     .next (if s.h.get b = 0 then s.retire 4 else s.onHart fun h => h.goTo (h.b[n.toNat]'n.isLt))) ∧
   (∀ n b s, exec (.brtz n b) s =
     .next (if s.h.get b = 0 then s.onHart fun h => h.goTo (h.b[n.toNat]'n.isLt) else s.retire 4)) ∧
   (∀ n s, exec (.callt n) s =
     .next ((s.onHart fun h => h.put 1 (h.pc + 4)).onHart fun h => h.goTo (s.h.b[n.toNat]'n.isLt))))

/-- 06 R96, 11 R231: s0 reads as zero and discards a write; a write of another scalar register changes that register
alone, and under HCTL.TAN its tangents 1 to TANN.N become zero. -/
def Obligations.ScalarRegisterFile : Prop :=
  ∀ (h : Hart) (a r : SReg) (v : Word),
    h.get 0 = 0 ∧
    (h.put a v).get r = (if r = a ∧ a ≠ 0 then v else h.get r) ∧
    (∀ j, 1 ≤ j → j ≤ 4 →
      (h.put a v).stanOf r j = if r = a ∧ h.tan = true ∧ j ≤ h.tanCount then 0 else h.stanOf r j) ∧
    h.put a v = { h with s := (h.put a v).s, stan := (h.put a v).stan }

/-! ### Branches, jumps and prepared branches -/

/-! ### Control registers -/

/-- 06 R114: which level may read and write which control register by CRD, CWR, CSET and CCLR, what each does where it
may, and which trap it takes where it may not. The rows are the table's: first and last number, whether user level
reads, whether it writes, whether the supervisor writes. At user level CCLR of LAMPCAUSE clears OVF alone. -/
def Obligations.ControlRegisterAccess : Prop :=
  let rows : List (Nat × Nat × Bool × Bool × Bool) := [
    (0x000, 0x006, true, true, true), (0x010, 0x012, true, false, true), (0x013, 0x014, true, false, true),
    (0x020, 0x03B, true, true, true), (0x03C, 0x043, true, true, true), (0x044, 0x053, true, true, true),
    (0x054, 0x063, true, true, true), (0x070, 0x071, true, false, true), (0x080, 0x081, true, true, true),
    (0x090, 0x090, true, true, true), (0x091, 0x091, true, false, true), (0x0A0, 0x0A0, true, true, true),
    (0x0B0, 0x0B3, true, false, false), (0x100, 0x102, false, false, true), (0x110, 0x111, false, false, true),
    (0x120, 0x121, false, false, true), (0x180, 0x187, false, false, true), (0x188, 0x18F, false, false, true),
    (0x200, 0x27F, true, true, true)]
  ∀ (a b : SReg) (cr : BitVec 12) (s : State),
    let user : Bool := s.h.level == .user
    let old := s.crRead s.h cr.toNat
    let v := s.h.get b
    let stops (i : Instr) (c : Nat) : Prop := exec i s = .next (s.takeTrap c (s.trapBits (encode i)))
    let updates (i : Instr) (new : Word) : Prop :=
      exec i s = .next (((s.onHart fun h => h.put a old).crWrite cr.toNat new).retire 4)
    let reads (i : Instr) : Prop := exec i s = .next (s.writes a old)
    let cclrOvf : Prop := cr = 0x091 ∧ user = true
    match rows.find? fun r => r.1 ≤ cr.toNat && cr.toNat ≤ r.2.1 with
    | none => stops (.crd a cr) 0 ∧ stops (.cwr a b cr) 0 ∧ stops (.cset a b cr) 0 ∧ stops (.cclr a b cr) 0
    | some (_, _, userReads, userWrites, superWrites) =>
      let mayRead : Bool := !user || userReads
      let mayWrite : Bool := if user then userWrites else superWrites
      (mayRead = true → reads (.crd a cr)) ∧
      (mayRead = false →
        stops (.crd a cr) 1 ∧ stops (.cwr a b cr) 1 ∧ stops (.cset a b cr) 1 ∧ stops (.cclr a b cr) 1) ∧
      (mayWrite = true → updates (.cwr a b cr) v ∧
        (b ≠ 0 → updates (.cset a b cr) (old ||| v) ∧ updates (.cclr a b cr) (old &&& ~~~v))) ∧
      (mayRead = true → mayWrite = false → stops (.cwr a b cr) 0 ∧
        (b ≠ 0 → stops (.cset a b cr) 0 ∧ (¬ cclrOvf → stops (.cclr a b cr) 0))) ∧
      (mayRead = true → b = 0 → reads (.cset a b cr) ∧ reads (.cclr a b cr)) ∧
      (cclrOvf → exec (.cclr a b cr) s = .next ((s.onHart fun h =>
        { h.put a old with lampcause := if v.getLsbD 59 then h.lampcause &&& ~~~0x0800000000000000 else h.lampcause }).retire 4))

/-- 04 R56, 11 R225, 08 R154, R160, 09 R169, R171, R173, 13 R238, 23 R346, R349: what a control register reads after the
supervisor writes `v` to it: its reserved fields read zero, FCSR.DRM and TANN keep a value that a write may not give them,
HCTL.DET never changes, a write of VPART changes BASE and LEN alone, NETTHR.TP follows MODE 1 and 2, and a write of ASSAYCTL
sets EN and starts or requests a close. 06 R114, R115, 08 R157: a control-register write takes effect on the register alone, and the clearing of OVF
touches no other bit: writing one control register changes what no other reads. A change of LAMPCAUSE.IN exchanges the
bank in use (the model's reading, log 19), so LAMPCAUSE is left out of the writes. -/
def Obligations.ControlRegisterWrites : Prop :=
  (let whole : List Nat := [0x001, 0x002, 0x090, 0x100, 0x102] ++ (List.range 16).map (0x180 + ·)
   let masked : List (Nat × Word) := [
     (0x003, 0xFFFFFFFF), (0x005, 3), (0x006, 0xFF), (0x010, 0x1FFFF), (0x011, 0x80000000000001FF), (0x012, 0xFFFFFFFF),
     (0x013, 0xFFFF), (0x081, 3), (0x0A0, 0xFFFFFFFF), (0x101, 0xE61F), (0x110, 0xFFFF), (0x111, 0xFFFFFFFFFF000),
     (0x091, 0xF80FFFFFFFFFFFFF)]
     ++ (List.range 28).map (0x020 + ·, 0x1FFF1FFF) ++ (List.range 8).map (0x03C + ·, 0x1FFF1FFF)
     ++ (List.range 16).map (0x044 + ·, 0x1F1FFF1FFF) ++ (List.range 16).map (0x054 + ·, 0x1FFF1FFF)
   ∀ (s : State) (v : Word),
     let back (n : Nat) : Word := let t := s.crWrite n v; t.crRead t.h n
     (∀ n ∈ whole, back n = v) ∧
     (∀ p ∈ masked, back p.1 = v &&& p.2) ∧
     (∀ n ∈ [0x070, 0x071], (back n).toNat = min 64 (v.toNat % 128)) ∧
     back 0x000 = (v &&& 0x1F1F) ||| (if v.toNat / 65536 % 8 < 5 then v &&& 0x70000 else s.h.fcsr &&& 0x70000) ∧
     back 0x004 = (if 1 ≤ v.toNat % 8 ∧ v.toNat % 8 ≤ 4 then v &&& 7 else s.h.tann) ∧
     (s.h.level ≠ .user → back 0x080 = (v &&& 0xE) ||| (s.h.hctl &&& 1)) ∧
     (s.h.level = .user → back 0x080 = (v &&& 6) ||| (s.h.hctl &&& 9)) ∧
     (∀ n, n < 128 → back (0x200 + n) = if n % 32 = 0 then 0 else v) ∧
     (∀ n ∈ [0x0B0, 0x0B1, 0x0B2, 0x0B3], back n = s.crRead s.h n) ∧
     back 0x014 = (s.h.vpart &&& ~~~0x1FFF1FFF) ||| (v &&& 0x1FFF1FFF) ∧
     (s.h.stop < 160 →
       let old := s.crRead s.h 0x120
       let mode := if v.toNat / 65536 % 4 = 3 then old.toNat / 65536 % 4 else v.toNat / 65536 % 4
       back 0x120 = (v &&& 0xFFFF) ||| BitVec.ofNat 64 (mode * 65536) |||
         (if mode = 1 then 0 else if mode = 2 then 0x80000000 else old &&& 0x80000000)) ∧
     (let old := s.crRead s.h 0x121
      back 0x121 = (old &&& 0xFFFFFFFF00000000) ||| (v &&& 4) ||| (if old.getLsbD 1 || v.getLsbD 0 then 2 else 0) ∧
      (v.getLsbD 0 = false → (s.crWrite 0x121 v).assay.allDirty = (s.assay.allDirty || (v.getLsbD 2 && !old.getLsbD 2))))) ∧
  ((∀ cr v s, exec (.crWrite cr v) s = .next (s.crWrite cr.toNat v)) ∧
   (∀ s, exec .lampcauseOvfClear s =
     .next (s.onHart fun h => { h with lampcause := h.lampcause &&& ~~~0x0800000000000000 })) ∧
   ∀ (s : State) (n m : Nat) (v : Word),
     crAccess n false ≠ .unassigned → crAccess m false ≠ .unassigned → n ≠ m → n ≠ 0x091 →
     let t := s.crWrite n v
     t.crRead t.h m = s.crRead s.h m ∧ t.mem = s.mem ∧ t.regs = s.regs ∧ t.tiles = s.tiles ∧ t.others = s.others ∧
       t.h.s = s.h.s ∧ t.h.pc = s.h.pc ∧ t.h.level = s.h.level)

/-! ### Traps, lamps and debug halt -/

/-- 08 R149 to R151: what taking a trap below firmware level does: the trap registers, HCTL.TAN and STEP, the level, the
pc; the strip closes, the hart leaves the instruction it waited at, of which it keeps what is not done again (log 38), and
nothing else of what the spec gives the hart changes. At firmware level it enters debug halt
with the trap registers written and TRAPCAUSE.PPL reading 2, and no handler runs. -/
def Obligations.TrapEntry : Prop :=
  (∀ (s : State) (c : Nat) (v : Word), s.h.level ≠ .firmware → c < 32 →
    let t := s.takeTrap c v
    t.h.trappc = s.h.pc ∧ t.h.trapval = v ∧ t.h.level = .supervisor ∧ t.h.pc = s.svec ∧
    t.h.trapcause.toNat = (if s.h.inLamp then 2 ^ 15 else 0) + (if s.h.tan then 2 ^ 14 else 0)
      + (if s.h.step then 2 ^ 13 else 0) + (if s.h.level = .user then 0 else 2 ^ 9) + c ∧
    t.h.hctl = s.h.hctl &&& ~~~0xA ∧ t.h.strip = [] ∧ t.h.rbuf = [] ∧
    t.h.lampDue = false ∧ t.h.begun = s.h.begun.filter (·.doing.kept) ∧
    t = { s with h := { s.h with
      trappc := t.h.trappc, trapcause := t.h.trapcause, trapval := t.h.trapval, hctl := t.h.hctl, level := t.h.level
      pc := t.h.pc, strip := [], rbuf := [], queues := t.h.queues, lane := none, begun := t.h.begun
      idle := false, retiring := false, waitReg := none, claimAt := none, pillarAt := none } }) ∧
  ∀ (s : State) (c : Nat) (v : Word), s.h.level = .firmware → c < 32 →
    let t := s.takeTrap c v
    t.h.halted = true ∧ t.h.runnable = false ∧ t.h.trappc = s.h.pc ∧ t.h.trapval = v ∧
    t.h.trapcause.toNat / 2 ^ 9 % 4 = 2 ∧ t.h.trapcause.toNat % 32 = c ∧ t.h.pc = s.h.pc ∧ t.h.level = .firmware ∧
    t.h.s = s.h.s ∧ t.mem = s.mem

/-- 08 R153: RESUME at supervisor level restores the level, HCTL.TAN and STEP and the pc from the trap registers, closes
the strip and empties the read buffer, once the earlier pushes of the hart are delivered (a full fence, 05 R87, R90); with
TRAPCAUSE.PPL of 2 or 3 it raises cause 0, which 03 R45 puts before the cause 1 that it raises at user level. That the return
to user level clears `asked`, so that the handler of 07 R140 is over, is the model's choice (log 66). The
bank in use is untouched, so a hart that trapped in a lamp handler returns into it. TRAP takes cause 15 with TRAPPC at
itself; HALT raises cause 1 at user level; the three words are as the rule writes them. -/
def Obligations.ResumeReturns : Prop :=
  decode 0x0000A605 = .ok .resume ∧ decode 0x0000A62C = .ok (.trap 5) ∧ decode 0x0000A607 = .ok .halt ∧
  ∀ s : State,
    (∀ n, exec (.trap n) s = .next (s.takeTrap 15 (n.zeroExtend 64)) ∧ (s.takeTrap 15 (n.zeroExtend 64)).h.trappc = s.h.pc) ∧
    (s.h.level = .user → exec .halt s = .next (s.takeTrap 1 (s.trapBits (encode .halt)))) ∧
    (s.h.level = .user → s.h.trapcause.toNat / 2 ^ 9 % 4 < 2 →
      exec .resume s = .next (s.takeTrap 1 (s.trapBits (encode .resume)))) ∧
    (2 ≤ s.h.trapcause.toNat / 2 ^ 9 % 4 →
      exec .resume s = .next (s.takeTrap 0 (s.trapBits (encode .resume)))) ∧
    (s.h.level ≠ .user → s.h.trapcause.toNat / 2 ^ 9 % 4 < 2 → s.pushing s.h.key = true →
      exec .resume s = .next (s.onHart fun h => { h with blocked := true })) ∧
    (s.h.level ≠ .user → s.h.trapcause.toNat / 2 ^ 9 % 4 < 2 → s.pushing s.h.key = false →
      ∃ t, exec .resume s = .next t ∧
        t.h.level = (if s.h.trapcause.toNat / 2 ^ 9 % 4 = 0 then .user else .supervisor) ∧
        t.h.hctl = (s.h.hctl &&& ~~~0xA) ||| (if s.h.trapcause.getLsbD 14 then 2 else 0)
          ||| (if s.h.trapcause.getLsbD 13 then 8 else 0) ∧
        t.h.pc = s.h.trappc ∧ t.h.strip = [] ∧ t.h.rbuf = [] ∧ t.h.inLamp = s.h.inLamp ∧
        t = { s with h := { s.h with
          level := t.h.level, hctl := t.h.hctl, pc := t.h.pc, strip := [], rbuf := [], queues := t.h.queues
          begun := t.h.begun, asked := if s.h.trapcause.toNat / 2 ^ 9 % 4 = 0 then none else s.h.asked } })

/-- 08 R156: delivery of a lamp that is due: the oldest pending entry, the shadow bank with the interrupted pc in s12,
LAMPCAUSE, and control at LAMPPC. 06 R116: a hart that waits in IDLE goes on behind it once its lamp handler returns,
and IDLE retires at once when lamps are disabled or one is pending; otherwise the hart waits. 08 R154: an IDLE that ends so
under HCTL.STEP makes cause 16 due, as every instruction that retires does. -/
def Obligations.LampsAndIdle : Prop :=
  (∀ (s : State) (l : Lamp) (rest : List Lamp), s.h.live = true → s.h.lampDue = true → s.h.lamps = l :: rest → s.h.idle = false →
     ∃ t, exec (.lampDelivery s.h.key) s = .next t ∧
       t.h.pc = s.h.lamppc ∧ t.h.get 12 = s.h.pc ∧ t.h.lamps = rest ∧ t.h.inLamp = true ∧
       t.h.lampcause.getLsbD 62 = !rest.isEmpty ∧ t.h.lampcause.extractLsb' 60 2 = (if l.route then 1 else 0) ∧
       t.h.lampcause.getLsbD 59 = s.h.lampcause.getLsbD 59 ∧ t.h.lampcause.extractLsb' 0 52 = l.id.extractLsb' 0 52 ∧
       (∀ i, 1 ≤ i → i < 8 → t.h.s[12 + i]! = s.h.alt[i]!) ∧ (∀ i, i < 8 → t.h.alt[i]! = s.h.s[12 + i]!) ∧
       (∀ r : Fin 32, r.val < 12 ∨ 19 < r.val → t.h.s[r] = s.h.s[r]) ∧
       t.h.strip = [] ∧ t.h.rbuf = [] ∧ t.h.level = s.h.level ∧ t.h.vstart = s.h.vstart ∧ t.mem = s.mem ∧ t.regs = s.regs) ∧
  (∀ s : State,
     (s.h.idle = false → s.h.lampEnable = false ∨ s.h.lamps ≠ [] → exec .idle s = .next (s.retire 4)) ∧
     (s.h.lampEnable = true → s.h.lamps = [] →
       exec .idle s = .next (s.onHart fun h => { h with idle := true, blocked := true })) ∧
     (s.h.idle = true → exec .idle s = .next (s.onHart fun h => { h with blocked := true })) ∧
     (∀ l rest, s.h.live = true → s.h.lampDue = true → s.h.lamps = l :: rest → s.h.idle = true →
       ∃ t, exec (.lampDelivery s.h.key) s = .next t ∧ t.h.get 12 = s.h.pc + 4 ∧ t.h.idle = false ∧
         t.h.stepDue = (s.h.stepDue || s.h.step)))

/-- 08 R158: UIRET outside a lamp handler raises cause 0; inside one it returns to the pc in the shadow bank's s12, on
the main bank, with LAMPCAUSE.IN clear. No lamp is delivered inside a handler, a trap there is taken with TRAPCAUSE.LAMP
1, and a hart that retires is gone with its lamps. -/
def Obligations.UiretReturns : Prop :=
  decode 0x0000AA0B = .ok .uiret ∧
  (∀ (k : HKey) (s : State) (h : Hart), s.hartOf? k = some h → h.retiring = true → s.drained k = true →
    ∃ u : State, exec (.hartRetirement k) s = .next u ∧ u.hartOf? k = none) ∧
  ∀ s : State,
    (s.h.inLamp = true → s.h.lampDue = false) ∧
    (s.h.inLamp = true → s.h.live = true → exec (.lampDelivery s.h.key) s = .next s) ∧
    (∀ c v, s.h.inLamp = true → c < 32 → (s.takeTrap c v).h.trapcause.getLsbD 15 = true) ∧
    (s.h.inLamp = false → exec .uiret s = .next (s.takeTrap 0 (s.trapBits (encode .uiret)))) ∧
    (s.h.inLamp = true → ∃ t, exec .uiret s = .next t ∧
      t.h.pc = s.h.get 12 ∧ t.h.inLamp = false ∧ t.h.lampcause = s.h.lampcause &&& ~~~0x8000000000000000 ∧
      (∀ i, i < 8 → t.h.s[12 + i]! = s.h.alt[i]!) ∧ (∀ i, i < 8 → t.h.alt[i]! = s.h.s[12 + i]!) ∧
      (∀ r : Fin 32, r.val < 12 ∨ 19 < r.val → t.h.s[r] = s.h.s[r]) ∧
      t.h.strip = [] ∧ t.h.rbuf = [] ∧ t.h.level = s.h.level ∧ t.h.lamps = s.h.lamps ∧ t.mem = s.mem ∧ t.regs = s.regs)

/-- 06 R113, 03 R44, R46, 08 R152, R154, R164, R166, 21 R335: TRAP takes cause 15 with its immediate, a pattern that is
no instruction cause 0 with its bits; while HCTL.STEP is 1 at user level an instruction that retires (an ADD here) makes
cause 16 due; the asynchronous traps: each, when it is due at user level, enters the handler with its cause and its
value and is due no more. 08 R159: what a hart at a boundary takes first: a debug halt request, then gang loss, then
the faults, then a lamp; above user level it takes none of the asynchronous traps and no lamp. R159 gives causes 18, 20 and
16 no order among themselves: that the model takes them in this order is its own choice (log 39). -/
def Obligations.BoundaryTraps : Prop :=
  ((∀ n s, exec (.trap n) s = .next (s.takeTrap 15 (n.zeroExtend 64))) ∧
   (∀ bits s, exec (.illegalInstruction bits) s = .next (s.takeTrap 0 bits)) ∧
   (∀ (a b c : SReg) (s : State), s.h.level = .user → s.h.step = true → s.h.haltReq = false →
     s.h.frozen = false → s.h.halted = false → s.h.saved = false → s.h.gangLost = [] → s.h.faults = [] → s.h.timeouts = [] →
     ∃ t, exec (.add a b c) s = .next t ∧ t.h.pc = s.h.pc + 4 + s.prefixLen ∧
       t.h.due = some (.event (.debugSingleStep s.h.key))) ∧
   ∀ s : State, s.h.live = true → s.h.canTrap = true →
     (∀ v rest, s.h.faults = v :: rest → exec (.engineFault s.h.key) s =
       .next ((s.onHart fun h => { h with faults := rest }).takeTrap 18 v)) ∧
     (∀ v rest, s.h.timeouts = v :: rest → exec (.routeTimeoutTrap s.h.key) s =
       .next ((s.onHart fun h => { h with timeouts := rest }).takeTrap 20 v)) ∧
     (s.h.stepDue = true → exec (.debugSingleStep s.h.key) s =
       .next ((s.onHart fun h => { h with stepDue := false }).takeTrap 16 0)) ∧
     (∀ stop rest, s.h.gangLost = stop :: rest → exec (.gangLost s.h.key) s =
       .next ((s.onHart fun h => { h with gangLost := rest }).takeTrap 17 (BitVec.ofNat 64 stop)))) ∧
  (∀ h : Hart, h.halted = false → h.frozen = false → h.saved = false →
     (h.haltReq = true → h.due = some (.event (.debugHalt h.key))) ∧
     (h.haltReq = false → h.level ≠ .user → h.due = none) ∧
     (h.haltReq = false → h.level = .user →
       (h.gangLost ≠ [] → h.due = some (.event (.gangLost h.key))) ∧
       (h.gangLost = [] →
         (h.faults ≠ [] → h.due = some (.event (.engineFault h.key))) ∧
         (h.faults = [] → h.timeouts ≠ [] → h.due = some (.event (.routeTimeoutTrap h.key))) ∧
         (h.faults = [] → h.timeouts = [] → h.stepDue = true → h.due = some (.event (.debugSingleStep h.key))) ∧
         (h.faults = [] → h.timeouts = [] → h.stepDue = false → h.evict = none → h.lampDue = true →
           h.due = some (.event (.lampDelivery h.key))))))

/-! ### Fences, monitors, halts -/

/-- 05 R87, R90, 06 R113, R116, R118 to R120, 08 R168: FENCE, FENCE.S and FENCE.I close the strip, a FENCE that is more than an
acquire waits until the earlier pushes of the hart are delivered, and after FENCE.I the hart sees none of what its core fetched
before (log 9); HALT above user level halts behind itself; MARM arms the monitor on the line in device or host memory, and takes
the trap of an address that is not translated; MWAIT answers the four codes and otherwise waits; VMFLUSH removes the matching
translations and no other, and waits while a running route or a LAUNCHI that has its count still to read keeps a matching one,
global ones matching every address space, and, which is the model's own (log 41), while a completion word with its place
translated is not yet written; ASSAY requests a close. HALT, VMFLUSH and ASSAY take cause 1 at user level. -/
def Obligations.FencesAndMonitors : Prop :=
  ∀ s : State, let closed := s.onHart Hart.endStrip
    (closed.h.strip = [] ∧ closed.h.rbuf = [] ∧ ∀ q < 4, closed.h.queue q = none) ∧
    (∀ kind scope,
      (kind = 1 → exec (.fence kind scope) s = .next (closed.retire 4)) ∧
      (kind ≠ 1 → s.pushing s.h.key = false → exec (.fence kind scope) s = .next ((closed.onHart Hart.settle).retire 4)) ∧
      (kind ≠ 1 → s.pushing s.h.key = true → exec (.fence kind scope) s =
        .next (closed.onHart fun h => { h with blocked := true }))) ∧
    exec .fenceS s = .next (closed.retire 4) ∧
    (let t := (closed.onHart fun h => { h with ifence := (s.icache h.stop).length }).retire 4
     exec .fenceI s = .next t ∧ ∀ loc, t.cachedAt loc = []) ∧
    (s.h.level ≠ .user → exec .halt s = .next ((s.retire 4).onHart Hart.halt)) ∧
    (∀ k, s.h.live = true → s.h.key = k → s.h.haltReq = true → s.h.halted = false →
      ∃ t, exec (.debugHalt k) s = .next t ∧ t.h.halted = true ∧ t.h.haltReq = false ∧ t.h.pc = s.h.pc ∧ t.h.strip = [] ∧
        t.h.s = s.h.s ∧ t.mem = s.mem) ∧
    (∀ b loc t, s.locate s.h.space (s.h.get b) .load = (.ok loc, t) → regionOf loc = .device ∨ regionOf loc = .host →
      exec (.marm b) s = .next ((t.onHart fun h => { h with monitor := some ⟨loc / 128, false, false⟩ }).retire 4)) ∧
    (∀ b loc t, s.locate s.h.space (s.h.get b) .load = (.ok loc, t) → regionOf loc ≠ .device → regionOf loc ≠ .host →
      exec (.marm b) s = .next (t.takeTrap 6 (s.h.get b))) ∧
    (∀ b c v t, s.locate s.h.space (s.h.get b) .load = (.error (c, v), t) → exec (.marm b) s = .next (t.takeTrap c v)) ∧
    (∀ a, s.h.monitor = none → exec (.mwait a) s = .next (s.writes a 2)) ∧
    (∀ a m, s.h.monitor = some m →
      let disarmed := s.onHart fun h => { h with monitor := none }
      (m.hit = true → exec (.mwait a) s = .next (disarmed.writes a 0)) ∧
      (m.hit = false → m.lost = true → exec (.mwait a) s = .next (disarmed.writes a 1)) ∧
      (m.hit = false → m.lost = false → s.h.lamps ≠ [] → exec (.mwait a) s = .next (s.writes a 3)) ∧
      (m.hit = false → m.lost = false → s.h.lamps = [] →
        exec (.mwait a) s = .next (s.onHart fun h => { h with blocked := true }))) ∧
    (∀ m lost, s.h.live = true → s.h.monitor = some m → exec (.monitorWake s.h.key lost) s =
      .next (s.onHart fun h => { h with
        monitor := some { m with lost := m.lost || lost }, blocked := h.blocked && !(m.hit || lost) })) ∧
    (∀ b c, s.h.level ≠ .user →
      let names (page : Nat) (asid : Option (BitVec 16)) : Prop :=
        (b = 0 ∨ page = (s.h.get b).toNat / 65536) ∧ (c = 0 ∨ asid = none ∨ asid = some ((s.h.get c).setWidth 16))
      let keeps (va : Nat) (asid : Word) (everywhere : Bool) : Prop :=
        va < localBase ∧ names (va / 65536) (if everywhere then none else some (asid.setWidth 16))
      let held : Prop :=
        (∃ r ∈ s.routeTiles, r.status = .running ∧ ∃ p ∈ r.kept, keeps (p.1 * 65536) r.asid p.2.2) ∨ s.finals ≠ [] ∨
        (∃ l ∈ s.launches, l.st = .waiting ∧ ∃ p, l.countPa = some p ∧ keeps l.record.countVa.toNat l.asid p.2) ∨
        (∃ h ∈ s.harts, ∃ x ∈ h.begun, ∃ r p, x.doing = .launch r (some p) ∧ keeps r.countVa.toNat h.asid p.2)
      ∃ t : State, t = { closed with tlb := t.tlb } ∧ (∀ e, e ∈ t.tlb ↔ e ∈ s.tlb ∧ ¬ names e.page e.asid) ∧
        (¬ held → exec (.vmflush b c) s = .next (t.retire 4)) ∧
        (held → exec (.vmflush b c) s = .next (t.onHart fun h => { h with blocked := true }))) ∧
    (s.h.level ≠ .user →
      (s.assay.busy = none → ∃ t : State, exec .assay s = .next (t.retire 4) ∧ t = { closed with assay := t.assay } ∧
        t.assay.busy ≠ none ∧ t.assay.dirty = [] ∧ t.assay.allDirty = false) ∧
      (s.assay.busy ≠ none → s.assay.held = false →
        exec .assay s = .next ({ closed with assay := { s.assay with held := true } }.retire 4)) ∧
      (s.assay.busy ≠ none → s.assay.held = true →
        exec .assay s = .next (closed.onHart fun h => { h with blocked := true }))) ∧
    (s.h.level = .user → ∀ b c,
      exec .halt s = .next (s.takeTrap 1 (s.trapBits (encode .halt))) ∧
      exec (.vmflush b c) s = .next (s.takeTrap 1 (s.trapBits (encode (.vmflush b c)))) ∧
      exec .assay s = .next (s.takeTrap 1 (s.trapBits (encode .assay))))

/-! ### Scalar loads, stores and atomics -/

/-- 06 R103, 05 R80, R83, R87: a load of 1, 2, 4 or 8 bytes without a mark writes the little-endian value, extended by its suffix;
a plain load may answer a line of the read buffer, which has no mark there either, in place of memory, LDA reads memory and closes
the strip; C.LD reads the doubleword at s2 plus its offset. No register but the destination, no byte of any storage, no mark and no
other hart changes. -/
def Obligations.ScalarLoads : Prop :=
  let plainLoad (i : Instr) (s : State) (a : SReg) (ea : Word) (n : Nat) (value : List Byte → Word) (len : Word) : Prop :=
    ∀ loc t, s.Reaches .load ea n loc t → marked t.poison loc n = false → s.h.scalarStrip →
      (∀ l ∈ s.h.rbuf, l.line = loc / 128 → marked l.marks loc n = false) →
      ∃ bs u, exec i s = .next u ∧
        (bs = s.mem.readBytes loc n ∨
          (bufferable loc = true ∧ ∃ l ∈ s.h.rbuf, l.line = loc / 128 ∧ bs = (l.bytes.drop (loc % 128)).take n)) ∧
        (∀ l ∈ u.h.rbuf, l ∈ s.h.rbuf ∨ bufferable loc = true ∧ l.line = loc / 128 ∧
          l.bytes = s.mem.readBytes (loc / 128 * 128) 128 ∧ ∀ w, w ∈ l.marks ↔ w ∈ s.poison ∧ w * 8 / 128 = loc / 128) ∧
        (u.mem, u.poison, u.regs, u.regPoison, u.tiles, u.others) =
          (s.mem, s.poison, s.regs, s.regPoison, s.tiles, s.others) ∧
        u = ({ t with tick := u.tick }.onHart fun h => { h with rbuf := u.h.rbuf }).writes a (value bs) len
  (∀ p ∈ ([(.b, 1, false), (.bs, 1, true), (.h, 2, false), (.hs, 2, true), (.w, 4, false), (.ws, 4, true), (.d, 8, false)]
      : List (MemSize × Nat × Bool)),
    let value (bs : List Byte) : Word :=
      let v := BitVec.ofNat (8 * p.2.1) (leNat bs)
      if p.2.2 then v.signExtend 64 else v.setWidth 64
    ∀ (a b : SReg) (imm : BitVec 12) (s : State), let ea := s.h.get b + imm.signExtend 64
      plainLoad (.ld p.1 a b imm) s a ea p.2.1 value 4 ∧
      (∀ loc t, (s.onHart Hart.endStrip).Reaches .load ea p.2.1 loc t → marked t.poison loc p.2.1 = false →
        exec (.lda p.1 a b imm) s = .next (t.writes a (value (s.mem.readBytes loc p.2.1))) ∧
        (t.mem, t.poison, t.regs, t.regPoison, t.tiles, t.others) =
          (s.mem, s.poison, s.regs, s.regPoison, s.tiles, s.others))) ∧
  (∀ (a : SReg) (n : BitVec 6) (s : State),
    plainLoad (.cLd a n) s a (s.h.get 2 + BitVec.ofNat 64 (8 * n.toNat)) 8 (fun bs => BitVec.ofNat 64 (leNat bs)) 2)

/-- 06 R103, 05 R83, 06 R119, 08 R165, 23 R349: a store writes the low bytes of s[a], lowest first, and no other byte of
memory; it clears the poison of the words it covers whole, updates the hart's buffered lines, reaches the monitors of
other harts and marks the page dirty. STL, a release, first waits until the earlier pushes of the hart are delivered, and
closes the strip; C.ST stores the doubleword at s2 plus its offset. -/
def Obligations.ScalarStores : Prop :=
  let stores (i : Instr) (s s0 : State) (a : SReg) (ea : Word) (n : Nat) (after : Hart → Hart) (len : Word) : Prop :=
    s.canonical = true → ∀ loc t, s0.Reaches .store ea n loc t → s0.h.scalarStrip →
      ∃ u : State, exec i s = .next (u.retire len) ∧
        (∀ k, k < n → u.mem.read (loc + k) = (s.h.get a).extractLsb' (8 * k) 8) ∧
        (∀ x, x < loc ∨ loc + n ≤ x → u.mem.read x = s.mem.read x) ∧
        (∀ w, w ∈ u.poison ↔ w ∈ s.poison ∧ (w * 8 < loc ∨ loc + n < w * 8 + 8)) ∧
        u.others = s.others.map (·.hitBy (some s.h.key) loc n false) ∧
        (s.assay.en = true → loc < 2 ^ 39 → u.assay.allDirty = true ∨ loc / 65536 ∈ u.assay.dirty) ∧
        u = ({ t with
          mem := u.mem, poison := u.poison, others := u.others, assay := { t.assay with dirty := u.assay.dirty } }).onHart
            fun h => after { h with
              strip := { pa := loc, old := s.mem.readBytes loc n, kind := .scalar, marks := marksIn s.poison loc n } :: h.strip
              rbuf := (h.updateBuffer loc (leBytes n (s.h.get a).toNat) false []).rbuf }
  (∀ p ∈ ([(.b, 1), (.h, 2), (.w, 4), (.d, 8)] : List (MemSize × Nat)), ∀ (a b : SReg) (imm : BitVec 12) (s : State),
    let ea := s.h.get b + imm.signExtend 64
    stores (.st p.1 a b imm) s s a ea p.2 id 4 ∧
    (s.pushing s.h.key = true → exec (.stl p.1 a b imm) s =
      .next ((s.onHart Hart.endStrip).onHart fun h => { h with blocked := true })) ∧
    (s.pushing s.h.key = false →
      stores (.stl p.1 a b imm) s ((s.onHart Hart.endStrip).onHart Hart.settle) a ea p.2 Hart.endStrip 4)) ∧
  (∀ (a : SReg) (n : BitVec 6) (s : State), stores (.cSt a n) s s a (s.h.get 2 + BitVec.ofNat 64 (8 * n.toNat)) 8 id 2)

/-- 06 R104, R105, 05 R87, R93, 06 R119, 08 R165, 23 R349: an atomic on an aligned word or doubleword leaves the old value in
s[a], a word sign-extended, and the new value of the table in memory; no other byte and no other register changes; it reaches
the monitors of other harts, clears the poison of the words it covers whole and marks the page dirty. One that is not relaxed
also closes the strip, and one that is a release first waits until the earlier pushes of the hart are delivered. -/
def Obligations.AtomicResults : Prop :=
  ∀ p ∈ ([
    (.aadd, fun _ m x _ => m + x), (.aand, fun _ m x _ => m &&& x), (.aior, fun _ m x _ => m ||| x),
    (.axor, fun _ m x _ => m ^^^ x), (.amins, fun _ m x _ => if x.toInt < m.toInt then x else m),
    (.amaxs, fun _ m x _ => if m.toInt < x.toInt then x else m), (.aminn, fun _ m x _ => if x.toNat < m.toNat then x else m),
    (.amaxn, fun _ m x _ => if m.toNat < x.toNat then x else m), (.aswp, fun _ _ x _ => x),
    (.acas, fun _ m x e => if m = e then x else m)]
      : List ((AtOps → Instr) × ((w : Nat) → BitVec w → BitVec w → BitVec w → BitVec w))),
    ∀ (o : AtOps) (s : State),
      let closed := s.onHart Hart.endStrip
      (2 ≤ o.ord.toNat → s.pushing s.h.key = true → exec (p.1 o) s = .next (closed.onHart fun h => { h with blocked := true })) ∧
      ∀ (loc : Nat) (t : State),
      let n := if o.dbl then 8 else 4
      let s0 := if o.ord = 0 then s else if o.ord.toNat < 2 then closed else closed.onHart Hart.settle
      s.canonical = true → (2 ≤ o.ord.toNat → s.pushing s.h.key = false) → s0.Reaches .store (s.h.get o.b) n loc t →
      marked t.poison loc n = false → s0.h.scalarStrip →
      let old := BitVec.ofNat (8 * n) (s.mem.readNat loc n)
      let new := p.2 (8 * n) old ((s.h.get o.c).setWidth (8 * n)) ((s.h.get o.a).setWidth (8 * n))
      ∃ u : State, exec (p.1 o) s = .next (u.retire 4) ∧
        u.mem.readNat loc n = new.toNat ∧
        (∀ x, x < loc ∨ loc + n ≤ x → u.mem.read x = s.mem.read x) ∧
        (o.ord ≠ 0 → u.h.strip = [] ∧ u.h.rbuf = []) ∧
        (∀ w, w ∈ u.poison ↔ w ∈ s.poison ∧ (w * 8 < loc ∨ loc + n < w * 8 + 8)) ∧
        u.others = s.others.map (·.hitBy (some s.h.key) loc n false) ∧
        (s.assay.en = true → loc < 2 ^ 39 → u.assay.allDirty = true ∨ loc / 65536 ∈ u.assay.dirty) ∧
        u = ({ t with
          mem := u.mem, poison := u.poison, others := u.others, assay := { t.assay with dirty := u.assay.dirty } }).onHart
            fun h => ({ h with strip := u.h.strip, rbuf := u.h.rbuf, queues := u.h.queues }).put o.a (old.signExtend 64)

/-- 05 R73, R91, 06 R103, R105, 08 R165, 24 R355: an access past the 52-bit space raises cause 6, a misaligned LDA, STL
or atomic cause 2, poisoned data that a register would receive cause 13, from memory or, for a plain load, from a buffered line,
control space at user level cause 6, and a
failed translation of a load, a store or an atomic its own cause: memory and registers stand as they were (a release traps
once it no longer waits for pushes). A plain access that is not naturally aligned
is performed byte by byte, here at firmware level in device memory, where addresses are locations. -/
def Obligations.ScalarAccessFaults : Prop :=
  (∀ (a b : SReg) (imm : BitVec 12) (s : State), let ea := s.h.get b + imm.signExtend 64
    s.h.level = .firmware → s.pillars = [] → s.h.scalarStrip → ea.toNat + 8 ≤ 2 ^ 39 →
    ∀ sz, ea.toNat % memBytes sz ≠ 0 →
    (s.h.rbuf = [] → marked s.poison ea.toNat (memBytes sz) = false →
      ∃ u, exec (.ld sz a b imm) s = .next u ∧
        u = (s.onHart fun h => { h with rbuf := u.h.rbuf }).writes a
          (extend (memBytes sz) (memSigned sz) (s.mem.readNat ea.toNat (memBytes sz)))) ∧
    (s.canonical = true → ∃ u, exec (.st sz a b imm) s = .next u ∧
      (∀ k, k < memBytes sz → u.mem.read (ea.toNat + k) = (s.h.get a).extractLsb' (8 * k) 8) ∧
      (∀ x, x < ea.toNat ∨ ea.toNat + memBytes sz ≤ x → u.mem.read x = s.mem.read x) ∧
      u.h.s = s.h.s ∧ u.h.pc = s.h.pc + 4 + s.prefixLen ∧ u.regs = s.regs ∧ u.h.level = s.h.level)) ∧
  ∀ (s : State) (a b : SReg) (imm : BitVec 12), let ea := s.h.get b + imm.signExtend 64
    let closed := s.onHart Hart.endStrip
    let settled := closed.onHart Hart.settle
    let idle : Prop := s.pushing s.h.key = false
    (∀ sz, 2 ^ 52 ≤ ea.toNat → exec (.ld sz a b imm) s = .next (s.takeTrap 6 ea) ∧
      exec (.st sz a b imm) s = .next (s.takeTrap 6 ea)) ∧
    (∀ sz, ea.toNat % memBytes sz ≠ 0 → exec (.lda sz a b imm) s = .next (closed.takeTrap 2 ea) ∧
      (idle → exec (.stl sz a b imm) s = .next (settled.takeTrap 2 ea))) ∧
    (∀ i ∈ ([.aadd, .aand, .aior, .axor, .amins, .amaxs, .aminn, .amaxn, .aswp, .acas] : List (AtOps → Instr)), ∀ o : AtOps,
      let n := if o.dbl then 8 else 4
      let at' := s.h.get o.b
      let s0 := if o.ord = 0 then s else if o.ord.toNat < 2 then closed else settled
      (2 ≤ o.ord.toNat → idle) →
      (at'.toNat % n ≠ 0 → exec (i o) s = .next (s0.takeTrap 2 at')) ∧
      (∀ c v t, at'.toNat % n = 0 → s0.locate s.h.space at' .store = (.error (c, v), t) → exec (i o) s = .next (t.takeTrap c v)) ∧
      (∀ loc t, s0.Reaches .store at' n loc t → marked t.poison loc n = true → s0.h.scalarStrip →
        exec (i o) s = .next (t.takeTrap 13 at'))) ∧
    (∀ sz c v t, ea.toNat % memBytes sz = 0 →
      (closed.locate s.h.space ea .load = (.error (c, v), t) → exec (.lda sz a b imm) s = .next (t.takeTrap c v)) ∧
      (idle → settled.locate s.h.space ea .store = (.error (c, v), t) → exec (.stl sz a b imm) s = .next (t.takeTrap c v))) ∧
    (∀ sz loc t, closed.Reaches .load ea (memBytes sz) loc t → marked t.poison loc (memBytes sz) = true →
      exec (.lda sz a b imm) s = .next (t.takeTrap 13 ea)) ∧
    (∀ sz c v t, ea.toNat % memBytes sz = 0 → s.locate s.h.space ea .load = (.error (c, v), t) →
      exec (.ld sz a b imm) s = .next (t.takeTrap c v)) ∧
    (∀ sz c v t, ea.toNat % memBytes sz = 0 → s.locate s.h.space ea .store = (.error (c, v), t) →
      exec (.st sz a b imm) s = .next (t.takeTrap c v)) ∧
    (∀ sz loc t, s.Reaches .load ea (memBytes sz) loc t → marked t.poison loc (memBytes sz) = true → s.h.scalarStrip →
      ((∀ l ∈ s.h.rbuf, l.line ≠ loc / 128) → exec (.ld sz a b imm) s = .next (t.takeTrap 13 ea)) ∧
      ((∀ l ∈ s.h.rbuf, l.line = loc / 128 → marked l.marks loc (memBytes sz) = true) →
        ∃ n, exec (.ld sz a b imm) s = .next ({ t with tick := n }.takeTrap 13 ea))) ∧
    (∀ sz loc t, ea.toNat % memBytes sz = 0 → s.h.level = .user → s.locate s.h.space ea .load = (.ok loc, t) →
      regionOf loc = .control → exec (.ld sz a b imm) s = .next (t.takeTrap 6 ea))

/-- 08 R160, R161, R162: below firmware level a walk of four levels gives the location: a leaf of level `k` maps a page of
64 KiB times 512 to the `k`; an entry that is not valid, a pointer in a table of level 0, a leaf that is not aligned to its page
and a leaf whose permissions do not allow the access raise the page fault of the access; a table entry outside device memory, a
location that no memory backs and one of a node that no link reaches raise cause 6, a poisoned table entry cause 13. Whatever the
TLB holds, a translation changes nothing but the TLB, which keeps only what a walk found, and answers as the walk made now or as
an entry held since an earlier one (that it may be either is the model's reading, log 8). -/
def Obligations.PageWalk : Prop :=
  (∀ (s t : State) (sp : Space) (va : Word) (acc : Access) (r : Except Fail Nat), s.locate sp va acc = (r, t) →
    t = { s with tlb := t.tlb, tick := t.tick } ∧
    (∀ e ∈ t.tlb, e ∈ s.tlb ∨ s.walk sp va.toNat acc = .ok e) ∧
    (sp.level ≠ .firmware → va.toNat < localBase → ∃ x : Except Fail Nat, r = s.checkLink va x ∧
      ((∃ e, s.walk sp va.toNat acc = .ok e ∧ x = e.apply sp va.toNat acc) ∨
       (∃ f, s.walk sp va.toNat acc = .error f ∧ x = .error f) ∨
       (∃ e ∈ s.tlb, e.matches sp va.toNat = true ∧ x = e.apply sp va.toNat acc)))) ∧
  ∀ (s : State) (va : Word) (acc : Access), s.h.level ≠ .firmware → s.tlb = [] → va.toNat < localBase →
    let size (k : Nat) : Nat := 2 ^ (16 + 9 * k)
    let place (table k : Nat) : Nat := table + va.toNat / size k % 512 * 8
    let entry (table k : Nat) : Nat := s.mem.readNat (place table k) 8
    let below (e : Nat) : Nat := e / 4096 % 2 ^ 40 * 4096
    let readable (table k : Nat) : Prop := regionOf (place table k) = .device ∧ place table k / 8 ∉ s.poison
    let valid (e : Nat) : Prop := e % 2 = 1 ∧ e / 128 % 32 = 0 ∧ e / 2 ^ 52 = 0
    let pointer (table k : Nat) : Prop := readable table k ∧ valid (entry table k) ∧ entry table k / 2 % 2 = 0
    let allowed (e : Nat) : Prop :=
      (match acc with | .load => e / 4 % 2 = 1 | .store => e / 8 % 2 = 1 | .fetch => e / 16 % 2 = 1) ∧
        (s.h.level = .user → e / 32 % 2 = 1)
    let cause : Nat := match acc with | .load => 3 | .store => 4 | .fetch => 5
    let answer := (s.locate s.h.space va acc).1
    let t3 := below s.h.ptbase.toNat
    let t2 := below (entry t3 3)
    let t1 := below (entry t2 2)
    let t0 := below (entry t1 1)
    let comesTo (table k : Nat) : Prop :=
      (k = 3 ∧ table = t3) ∨ (k = 2 ∧ table = t2 ∧ pointer t3 3) ∨ (k = 1 ∧ table = t1 ∧ pointer t3 3 ∧ pointer t2 2) ∨
        (k = 0 ∧ table = t0 ∧ pointer t3 3 ∧ pointer t2 2 ∧ pointer t1 1)
    ∀ table k, comesTo table k → let e := entry table k
      (regionOf (place table k) ≠ .device → answer = .error (6, va)) ∧
      (regionOf (place table k) = .device → place table k / 8 ∈ s.poison → answer = .error (13, va)) ∧
      (readable table k → ¬ valid e ∨ (e / 2 % 2 = 0 ∧ k = 0) ∨ (e / 2 % 2 = 1 ∧ below e % size k ≠ 0) →
        answer = .error (cause, va)) ∧
      (readable table k → valid e → e / 2 % 2 = 1 → below e % size k = 0 → let loc := below e + va.toNat % size k
        (¬ allowed e → answer = .error (cause, va)) ∧
        (allowed e →
          (regionOf loc = .unbacked → answer = .error (6, va)) ∧
          (regionOf loc = .link → s.reaches (linkNodeOf loc) = false → answer = .error (6, va)) ∧
          (regionOf loc ≠ .unbacked → regionOf loc ≠ .link ∨ s.reaches (linkNodeOf loc) = true → answer = .ok loc)))

/-- 05 R73 to R75: the core-local window at every level: the scratchpad banks a hart holds (every bank above user
level), and the scalar data memory at 0x400000; the rest of the window raises cause 6, and so does an address past 52
bits. -/
def Obligations.CoreLocalWindow : Prop :=
  ∀ (s : State) (va : Word) (acc : Access), let off := va.toNat - 0xFFFFFFF000000
    let bank := off / 8 % 192
    let held : Prop := if s.h.slot = 8 then 176 ≤ bank ∧ bank < 192
      else s.h.vpart.toNat / 2 ^ 48 % 256 ≤ bank ∧ bank < s.h.vpart.toNat / 2 ^ 48 % 256 + s.h.vpart.toNat / 2 ^ 56 % 256
    (2 ^ 52 ≤ va.toNat → s.locate s.h.space va acc = (.error (6, va), s)) ∧
    (0xFFFFFFF000000 ≤ va.toNat → va.toNat < 2 ^ 52 →
      (off < 0x300000 → (s.h.level ≠ .user ∨ held) →
        s.locate s.h.space va acc = (.ok (0xF000000000000 + s.h.stop * 0x400000 + off), s)) ∧
      (off < 0x300000 → s.h.level = .user → ¬ held → s.locate s.h.space va acc = (.error (6, va), s)) ∧
      (0x400000 ≤ off → off < 0x410000 → s.locate s.h.space va acc = (.ok (sdmLoc s.h.stop + (off - 0x400000)), s)) ∧
      (0x300000 ≤ off → (off < 0x400000 ∨ 0x410000 ≤ off) → s.locate s.h.space va acc = (.error (6, va), s)))

/-! ### Scalar floating point -/

/-- 06 R106, R107, R109: each scalar floating instruction computes on the values of its operands' low bits, rounds once,
accumulates its flags and writes the result zero-extended; here without tangents, for operands that raise no enabled
flag. -/
def Obligations.ScalarFloatResults : Prop :=
  let completes (i : Instr) (s : State) (a : SReg) (bits : Nat) (f : Flags) : Prop :=
    s.tanFor true = 0 → enabled s.h.fcsr f = 0 → exec i s =
      .next ((s.onHart fun h => { h with fcsr := h.fcsr ||| (f.zeroExtend 64 <<< 8) }).writes a (BitVec.ofNat 64 bits))
  ∀ (o : FOps) (s : State),
    let f : FloatFmt := if o.fmt = 0 then fp64 else if o.fmt = 1 then fp32 else if o.fmt = 2 then fp16 else bf16
    let rm : Rm := rmOf (if o.rm = 7 then s.h.fcsr.toNat / 65536 % 8 else o.rm.toNat)
    let value (r : SReg) : Machine.Num := f.value ((s.h.get r).toNat % 2 ^ f.bits)
    let x := value o.b
    let y := value o.c
    let d := value o.a
    let rounded (i : Instr) (v : Val) (g : Flags) : Prop :=
      let out := (Fmt.float f false).fitVal rm false 0 false v
      completes i s o.a out.bits (g ||| out.flags)
    let ofNum (i : Instr) (r : Machine.Num × Flags) : Prop := rounded i (.num r.1) r.2
    let neg? (b : Word) : Bool := b.getLsbD (f.bits - 1)
    let signed (i : Instr) (neg : Bool) : Prop :=
      completes i s o.a ((s.h.get o.b).toNat % 2 ^ (f.bits - 1) + if neg then 2 ^ (f.bits - 1) else 0) 0
    let toInt (i : Instr) (v : Word) (g : Flags) : Prop := completes i s o.a v.toNat g
    let src : FloatFmt := scalarFmt (o.c.setWidth 2)
    let mac := sumOf (rm == .rdn) [d, (mulOf x y).1]
    ofNum (.fadd o) (sumOf (rm == .rdn) [x, y]) ∧
    ofNum (.fsub o) (sumOf (rm == .rdn) [x, y.negate]) ∧
    ofNum (.fmul o) (mulOf x y) ∧
    ofNum (.fdiv o) (divOf x y) ∧
    rounded (.fsqrt o) (sqrtOp x).1 (sqrtOp x).2 ∧
    ofNum (.fmin o) ((minOf x y).1, (minOf x y).2.1) ∧
    ofNum (.fmax o) ((maxOf x y).1, (maxOf x y).2.1) ∧
    ofNum (.fmac o) (mac.1, mac.2 ||| (mulOf x y).2) ∧
    toInt (.feq o) (if x.eq y then 1 else 0) (nvIf (x.signals || y.signals)) ∧
    toInt (.flt o) (if x.lt y then 1 else 0) (nvIf (x.isNan || y.isNan)) ∧
    toInt (.fle o) (if x.lt y || x.eq y then 1 else 0) (nvIf (x.isNan || y.isNan)) ∧
    toInt (.fclass o) (BitVec.ofNat 64 (2 ^ f.classBit ((s.h.get o.b).toNat % 2 ^ f.bits))) 0 ∧
    toInt (.fcvti o) (BitVec.ofNat 64 (roundInt true 64 rm 0 x).bits) (roundInt true 64 rm 0 x).flags ∧
    ofNum (.fcvtf o) (.ofInt (s.h.get o.b).toInt, 0) ∧
    ofNum (.fcvt o) (src.value ((s.h.get o.b).toNat % 2 ^ src.bits), 0) ∧
    signed (.fsgn o) (neg? (s.h.get o.c)) ∧
    signed (.fsgnn o) (!neg? (s.h.get o.c)) ∧
    signed (.fsgnx o) (neg? (s.h.get o.b) != neg? (s.h.get o.c))

/-- 06 R109, 04 R57: an enabled flag makes a scalar floating instruction take cause 14 with the flags it raised; s[a]
and FLAGS stay as they were. Here for every scalar floating instruction that can raise a flag. -/
def Obligations.ScalarFloatTrap : Prop :=
  ∀ (o : FOps) (s : State),
    let f := scalarFmt o.fmt
    let src := scalarFmt (o.c.setWidth 2)
    let rm := scalarRm s.h o.rm
    let x := f.value ((s.h.get o.b).toNat % 2 ^ f.bits)
    let y := f.value ((s.h.get o.c).toNat % 2 ^ f.bits)
    let d := f.value ((s.h.get o.a).toNat % 2 ^ f.bits)
    let mac := sumOf (rm == .rdn) [d, (mulOf x y).1]
    let traps (i : Instr) (g : Flags) : Prop :=
      g &&& s.h.fcsr.setWidth 5 ≠ 0 → ∃ t, exec i s = .next t ∧ t = s.takeTrap 14 (g.zeroExtend 64) ∧
        t.h.fcsr = s.h.fcsr ∧ t.h.s = s.h.s
    let rounded (i : Instr) (v : Val) (g : Flags) : Prop :=
      traps i (g ||| ((Fmt.float f false).fitVal rm false 0 false v).flags)
    let ofNum (i : Instr) (r : Machine.Num × Flags) : Prop := rounded i (.num r.1) r.2
    ofNum (.fadd o) (sumOf (rm == .rdn) [x, y]) ∧
    ofNum (.fsub o) (sumOf (rm == .rdn) [x, y.negate]) ∧
    ofNum (.fmul o) (mulOf x y) ∧
    ofNum (.fdiv o) (divOf x y) ∧
    rounded (.fsqrt o) (sqrtOp x).1 (sqrtOp x).2 ∧
    ofNum (.fmin o) ((minOf x y).1, (minOf x y).2.1) ∧
    ofNum (.fmax o) ((maxOf x y).1, (maxOf x y).2.1) ∧
    ofNum (.fmac o) (mac.1, mac.2 ||| (mulOf x y).2) ∧
    traps (.feq o) (nvIf (x.signals || y.signals)) ∧
    traps (.flt o) (nvIf (x.isNan || y.isNan)) ∧
    traps (.fle o) (nvIf (x.isNan || y.isNan)) ∧
    traps (.fcvti o) (roundInt true 64 rm 0 x).flags ∧
    ofNum (.fcvtf o) (.ofInt (s.h.get o.b).toInt, 0) ∧
    ofNum (.fcvt o) (src.value ((s.h.get o.b).toNat % 2 ^ src.bits), 0)

/-- 06 R108: FCLASS sets exactly one bit of s[a], the one of the operand's class, whatever the format; the NaNs are the
bits of mask 0x003, the nonzero numbers those of 0x0FC, the zeros those of 0x300. -/
def Obligations.FloatClasses : Prop :=
  ∀ (o : FOps) (s : State),
    let f := scalarFmt o.fmt
    let v := (s.h.get o.b).toNat % 2 ^ f.bits
    let neg : Prop := v / 2 ^ (f.exp + f.frac) = 1
    let e := v / 2 ^ f.frac % 2 ^ f.exp
    let m := v % 2 ^ f.frac
    let top := 2 ^ f.exp - 1
    ∃ k t, exec (.fclass o) s = .next t ∧ t.h.get o.a = (if o.a = 0 then 0 else BitVec.ofNat 64 (2 ^ k)) ∧ k < 10 ∧
      (k = 0 ↔ e = top ∧ m ≠ 0 ∧ m < 2 ^ (f.frac - 1)) ∧ (k = 1 ↔ e = top ∧ 2 ^ (f.frac - 1) ≤ m) ∧
      (k = 2 ↔ e = top ∧ m = 0 ∧ ¬ neg) ∧ (k = 3 ↔ e = top ∧ m = 0 ∧ neg) ∧
      (k = 4 ↔ 0 < e ∧ e < top ∧ ¬ neg) ∧ (k = 5 ↔ 0 < e ∧ e < top ∧ neg) ∧
      (k = 6 ↔ e = 0 ∧ m ≠ 0 ∧ ¬ neg) ∧ (k = 7 ↔ e = 0 ∧ m ≠ 0 ∧ neg) ∧
      (k = 8 ↔ e = 0 ∧ m = 0 ∧ ¬ neg) ∧ (k = 9 ↔ e = 0 ∧ m = 0 ∧ neg)

/-! ### Vector length, shape and windows -/

/-- 09 R172, R174, 01 R12, R13, 03 R37: VSETVL, VSETVLI and C.VSETVL set VL to the smaller of the request and VLMAX, or
to 0 with ILL for an ill-formed type, clear VSTART, close the strip and write VL; VSHAPE sets the shape, VL 0 and ILL;
the window instructions set their descriptor, and WINRD reads the descriptor of an index. -/
def Obligations.LengthShapeWindows : Prop :=
  ∀ (s : State) (b c : SReg), let x := s.h.get b; let y := s.h.get c
    let width (vt : Nat) : Nat :=
      let k := vt % 32
      if k < 16 then k + 1 else if k = 16 then 8 else if k = 17 then 16 else if k = 18 then 32 else if k = 19 then 64
      else if k = 20 then 4 else 0
    let bytes := s.h.vshape.toNat % 65536
    let part := s.h.vpart.toNat / 65536 % 8192
    let lanes := 8 * 2 ^ (s.h.vpart.toNat / 2 ^ 40 % 4)
    let perLane (vt : Nat) : Nat := 8 * bytes / width vt
    let wrong (vt : Word) : Prop := 512 ≤ vt.toNat ∨ width vt.toNat = 0 ∨ bytes = 0 ∨ bytes % 2 = 1 ∨ 2 * part < bytes ∨
      (vt.toNat % 32 < 16 ∧ bytes % width vt.toNat ≠ 0) ∨ perLane vt.toNat = 0
    let vlmax (vt : Word) : Nat := min 65536 (2 ^ (vt.toNat / 32 % 4) * lanes * perLane vt.toNat)
    let sets (i : Instr) (a : SReg) (vt avl : Word) : Prop :=
      (wrong vt → exec i s = .next (((s.onHart Hart.endStrip).onHart fun h =>
        { h with vtype := 0x8000000000000000, vl := 0, vstart := 0 }).writes a 0)) ∧
      (¬ wrong vt → exec i s = .next (((s.onHart Hart.endStrip).onHart fun h => { h with
        vtype := vt, vl := BitVec.ofNat 64 (min avl.toNat (vlmax vt)), vstart := 0 }).writes a
          (BitVec.ofNat 64 (min avl.toNat (vlmax vt)))))
    let desc (d base len : Word) : Prop :=
      d.toNat % 8192 = base.toNat % 8192 ∧ d.toNat / 65536 % 8192 = len.toNat % 8192 ∧ d.toNat / 8192 % 8 = 0
    (∀ a, sets (.vsetvl a b c) a y x) ∧
    (∀ a vt, sets (.vsetvli a b vt) a (vt.zeroExtend 64) x) ∧
    (∀ a, let n := if wrong s.h.vtype then 0 else min (s.h.get a).toNat (vlmax s.h.vtype)
      exec (.cVsetvl a) s = .next (((s.onHart Hart.endStrip).onHart fun h =>
        { h with vl := BitVec.ofNat 64 n, vstart := 0 }).writes a (BitVec.ofNat 64 n) 2)) ∧
    exec (.vshape b) s = .next (((s.onHart Hart.endStrip).onHart fun h => { h with
      vshape := x &&& 0xFFFF, vl := 0, vtype := h.vtype ||| 0x8000000000000000 }).retire 4) ∧
    (∀ v : BitVec 5, v.toNat < 28 → ∃ d, desc d x y ∧ d.toNat < 2 ^ 29 ∧
      exec (.winv v b c) s = .next ((s.onHart fun h => { h with vw := h.vw.set! v.toNat d }).retire 4)) ∧
    (∀ m, ∃ d, desc d x y ∧ d.toNat < 2 ^ 29 ∧
      exec (.winm m b c) s = .next ((s.onHart fun h => { h with mw := h.mw.set! m.toNat d }).retire 4)) ∧
    (∀ w, ∃ d, desc d x y ∧ d.toNat / 2 ^ 29 = y.toNat / 65536 % 32 * 8 ∧
      exec (.wing w b c) s = .next ((s.onHart fun h => { h with gw := h.gw.set! w.toNat d }).retire 4)) ∧
    (∀ w, ∃ d, desc d x y ∧ d.toNat < 2 ^ 29 ∧
      exec (.wini w b c) s = .next ((s.onHart fun h => { h with iw := h.iw.set! w.toNat d }).retire 4)) ∧
    (∀ a, exec (.winrd a b) s = .next (s.writes a
      (if x.toNat < 28 then s.h.vw[x.toNat]! else if x.toNat < 36 then s.h.mw[x.toNat - 28]!
       else if x.toNat < 52 then s.h.gw[x.toNat - 36]! else if x.toNat < 68 then s.h.iw[x.toNat - 52]! else 0)))

/-! ### Vector instructions of the mould -/

/-- 03 R45, 09 R175, 04 R54: an instruction of the mould under an ill-formed type, or with VL above VLMAX or VSTART
above VL, takes cause 7 with VTYPE; one whose format word breaks R54 or names formats it does not accept takes cause 8
with the format word; neither writes anything. -/
def Obligations.VectorDispatchTraps : Prop :=
  ∀ p ∈ (laneRows ++ shapeRows).map (fun r => (r.instr, r.spec)) ++ reduceRows, ∀ (o : VOps) (s : State),
    let word := s.h.get (24 + o.n.zeroExtend 5)
    let refused : Prop := s.h.vtype.getLsbD 63 = true ∨ s.h.vlmax < (s.h.vl).toNat ∨ (s.h.vl).toNat < (s.h.vstart).toNat
    (refused → exec (p.1 o) s = .next (s.takeTrap 7 s.h.vtype)) ∧
    (¬ refused → p.2.sewOk s.h.sewCode = true → (p.2.atZero = true → s.h.vstart.toNat = 0) →
      badFormat (formatWord word) p.2.use s.h.sliced = true ∨ p.2.accept (formatWord word) = false →
      exec (p.1 o) s = .next (s.takeTrap 8 word))

/-- 09 R178, R179, 10 R200: no byte of register memory changes outside the windows of the destination group with its
tangents (for an MX destination the scale register too). -/
def Obligations.VectorMouldFrame : Prop :=
  ∀ r ∈ laneRows ++ shapeRows, ∀ (o : VOps) (s : State) (b : VBody) (t : State), s.Calm → s.h.fits → s.canonical = true →
    Gives (r.body o) s b t →
    ∃ regs f, exec (r.instr o) s = .next (t.afterLoop regs f (s.nextSstep o.n) s.h.hstat) ∧
      ∀ loc, ¬ s.h.inWindows (s.mouldWindows r.spec o) (if r.spec.toMask then 0 else s.tanFor r.spec.tangents) loc →
        regs.read loc = s.regs.read loc

/-- 10 R200, R202, R203, R205, 09 R179: integer arithmetic element by element: under one integer format for all operands
and a group of one register, an active element becomes the exact result, wrapped or under SAT clamped to the format, an
inactive or tail element keeps its value or under MP or TP becomes all ones, and an element below VSTART keeps its
value. 04 R55, R58, R59, R64: floating-point arithmetic, without tangents and with no trap enabled, under any floating formats of
the three operands: an active element becomes the exact result of 06 R107, rounded once to DF under RM and SAT, with the random word
of the element under STOCH, and the flags of the active elements are accumulated. -/
def Obligations.VectorArithmeticResults : Prop :=
  (∀ p ∈ ([(.vadd, arithStoch, fun x y => x + y), (.vsub, arithStoch, fun x y => x - y),
      (.vrsub, arithStoch, fun x y => y - x), (.vmul, arithStoch, fun x y => x * y), (.vmin, arith, fun x y => min x y),
      (.vmax, arith, fun x y => max x y)] : List ((VOps → Instr) × VSpec × (Int → Int → Int))),
    ∀ (o : VOps) (s : State) (cx : VCtx) (t : State) (sg : Bool) (w : Nat), s.Calm → s.h.fits → s.canonical = true →
      Gives (dispatch p.2.1 o) s cx t →
      o.form = 0 → s.tanFor true = 0 → s.h.group = 1 →
      let fw := formatWord (s.h.formatReg o.n)
      fmtOf fw.df = .int sg w false → fmtOf fw.af = .int sg w false → fmtOf fw.bf = .int sg w false →
      let elem (u : State) (v : BitVec 5) (i : Nat) : Nat := (u.vread s.h v.toNat w false i 0).val
      let int (v : Nat) : Int := if sg then (BitVec.ofNat w v).toInt else v
      let exact (i : Nat) : Int := p.2.2 (int (elem s o.b i)) (int (elem s o.c i))
      let lo : Int := if sg then -2 ^ (w - 1) else 0
      let hi : Int := if sg then 2 ^ (w - 1) - 1 else 2 ^ w - 1
      ∃ u, exec (p.1 o) s = .next u ∧
        ∀ i, i < s.h.vlmax →
          let on : Prop := o.vm = true ∨ (s.mread s.h 0 i).val = 1
          elem u o.a i =
            if i < s.h.start then elem s o.a i
            else if i < s.h.length then
              if on then (BitVec.ofInt w (if fw.sat then max lo (min hi (exact i)) else exact i)).toNat
              else if s.h.maskOnes then 2 ^ w - 1 else elem s o.a i
            else if s.h.tailOnes ∧ 0 < s.h.length then 2 ^ w - 1 else elem s o.a i) ∧
  (let sum (rdn : Bool) (d : Machine.Num) (v : Machine.Num × Flags) : Machine.Num × Flags := ((sumOf rdn [d, v.1]).1, (sumOf rdn [d, v.1]).2 ||| v.2)
   let less (v : Machine.Num × Flags) : Machine.Num × Flags := (v.1.negate, v.2)
   ∀ p ∈ ([(.vadd, arithStoch, fun rdn x y _ => sumOf rdn [x, y]), (.vsub, arithStoch, fun rdn x y _ => sumOf rdn [x, y.negate]),
       (.vrsub, arithStoch, fun rdn x y _ => sumOf rdn [y, x.negate]), (.vmul, arithStoch, fun _ x y _ => mulOf x y),
       (.vdiv, arith, fun _ x y _ => divOf x y), (.vma, accumulating, fun rdn x y d => sum rdn d (mulOf x y)),
       (.vms, accumulating, fun rdn x y d => sum rdn d (less (mulOf x y))),
       (.vnma, accumulating, fun rdn x y d => sum rdn d.negate (less (mulOf x y))),
       (.vmin, arith, fun _ x y _ => ((minOf x y).1, (minOf x y).2.1)),
       (.vmax, arith, fun _ x y _ => ((maxOf x y).1, (maxOf x y).2.1))]
         : List ((VOps → Instr) × VSpec × (Bool → Machine.Num → Machine.Num → Machine.Num → Machine.Num × Flags))),
     ∀ (o : VOps) (s : State) (cx : VCtx) (t : State) (fd fa fb : FloatFmt), s.Calm → s.h.fits → s.canonical = true →
       Gives (dispatch p.2.1 o) s cx t → o.form = 0 → s.tanFor true = 0 → s.h.group = 1 →
       let fw := formatWord (s.h.formatReg o.n)
       fmtOf fw.df = .float fd false → fmtOf fw.af = .float fa false → fmtOf fw.bf = .float fb false →
       let width (f : FloatFmt) : Nat := (Fmt.float f false).width
       (∀ q ∈ [(o.b, fa), (o.c, fb)], (s.h.vwin o.a.toNat).overlaps (s.h.vwin q.1.toNat) = true → width q.2 = width fd) →
       let elem (u : State) (v : BitVec 5) (f : FloatFmt) (i : Nat) : Nat := (u.vread s.h v.toNat (width f) false i 0).val
       let result (i : Nat) : Machine.Num × Flags :=
         p.2.2 (fw.rm == 2) (fa.value (elem s o.b fa i)) (fb.value (elem s o.c fb i)) (fd.value (elem s o.a fd i))
       let rounded (i : Nat) : Fitted := fd.fit (rmOf fw.rm) fw.sat
         (if fw.rm = 5 then philox s.h.seed s.h.sbase s.h.sstep i 0 else 0) (result i).1
       let on (i : Nat) : Bool := o.vm || (s.mread s.h 0 i).val == 1
       let done := (List.range s.h.length).filter fun i => decide (s.h.start ≤ i) && on i
       ∃ u, exec (p.1 o) s = .next u ∧
         u.h.fcsr = raise s.h.fcsr ((done.map fun i => (result i).2 ||| (rounded i).flags).foldl (· ||| ·) 0) ∧
         ∀ i, i < s.h.vlmax → elem u o.a fd i =
           if i < s.h.start then elem s o.a fd i
           else if i < s.h.length then
             if on i = true then (rounded i).bits else if s.h.maskOnes then 2 ^ width fd - 1 else elem s o.a fd i
           else if s.h.tailOnes ∧ 0 < s.h.length then 2 ^ width fd - 1 else elem s o.a fd i)

/-! ### Masks, element moves, reductions, tangents -/

/-- 10 R213, 09 R178, R179: the mask instructions work bit by bit on the elements from VSTART to VL − 1, the tail
follows TP, and no byte outside the destination's window changes; MPOPC counts the set bits below VL and MFIRST finds
the lowest. -/
def Obligations.MaskResults : Prop :=
  ∀ (d b c : BitVec 3) (s : State), s.part = none → s.regPoison = [] → s.h.fits → s.canonical = true →
    let bit (u : State) (m : BitVec 3) (i : Nat) : Nat := (u.mread s.h m.toNat i).val
    let writes (i : Instr) (srcs : List Nat) (f : Nat → Nat → Nat) : Prop :=
      Gives (maskDispatch (some d.toNat) srcs) s s.h s →
      ∃ u : State, exec i s = .next ((u.onHart fun h => { h with vstart := 0 }).retire 4) ∧ u = { s with regs := u.regs } ∧
        (∀ k, k < s.h.vlmax → bit u d k =
          if k < s.h.start then bit s d k
          else if k < s.h.length then f (bit s b k) (bit s c k)
          else if s.h.tailOnes ∧ 0 < s.h.length then 1 else bit s d k) ∧
        ∀ loc, ¬ s.h.inWindows [s.h.mwin d.toNat] 0 loc → u.regs.read loc = s.regs.read loc
    let counted := (List.range s.h.length).filter fun k => bit s b k = 1
    writes (.mand d b c) [b.toNat, c.toNat] (fun x y => if x = 1 ∧ y = 1 then 1 else 0) ∧
    writes (.mior d b c) [b.toNat, c.toNat] (fun x y => if x = 1 ∨ y = 1 then 1 else 0) ∧
    writes (.mxor d b c) [b.toNat, c.toNat] (fun x y => if x = y then 0 else 1) ∧
    writes (.mandn d b c) [b.toNat, c.toNat] (fun x y => if x = 1 ∧ y = 0 then 1 else 0) ∧
    writes (.mnot d b) [b.toNat] (fun x _ => if x = 1 then 0 else 1) ∧
    writes (.mset d) [] (fun _ _ => 1) ∧
    writes (.mclr d) [] (fun _ _ => 0) ∧
    (Gives (maskDispatch none [b.toNat]) s s.h s → ∀ a,
      exec (.mpopc a b) s =
        .next ((s.onHart fun h => { h with vstart := 0 }).writes a (BitVec.ofNat 64 counted.length)) ∧
      exec (.mfirst a b) s = .next ((s.onHart fun h => { h with vstart := 0 }).writes a
        (match counted with | [] => BitVec.allOnes 64 | k :: _ => BitVec.ofNat 64 k)))

/-- 10 R208, 11 R232: VEXTR copies the element that b numbers into s[a], extended by its format, 0 for a number not
below VL; VINS copies s[b] into the element that s[c] numbers, if that is below VL; nothing else changes. 11 R232: VTGET
copies a tangent of c into the primal of d, VTSET the primal of c into a tangent of d, VTZERO clears tangents 1 to TANN
of d: with a group of one register each active element becomes what is copied, an inactive or tail element keeps its value
or under MP or TP becomes all ones; and no byte outside the tangents written changes. -/
def Obligations.ElementMoves : Prop :=
  ∀ (o : VOps) (s t : State), s.Calm → s.h.fits → s.canonical = true →
    let fw := formatWord (s.h.formatReg o.n)
    (∀ cx i, Gives (vextrReady o) s (cx, i) t →
      let w := (fmtOf fw.bf).width
      let bits := (s.vread s.h o.c.toNat w s.h.sliced i 0).val
      let v : Word := if i < s.h.length then
        (match fmtOf fw.bf with
         | .int true n _ => BitVec.ofInt 64 (if 2 ^ n ≤ 2 * (bits % 2 ^ n) then (bits % 2 ^ n : Int) - 2 ^ n else (bits % 2 ^ n : Int))
         | f => BitVec.ofNat 64 (f.low bits)) else 0
      ∃ u : State, exec (.vextr o) s = .next u ∧ u.h.get o.a = (if o.a = 0 then 0 else v) ∧
        (∀ r, r ≠ o.a → u.h.get r = s.h.get r) ∧
        u = (t.onHart fun h => { h with s := u.h.s, stan := u.h.stan, vstart := 0 }).retire 4) ∧
    (∀ cx, Gives (vinsReady o) s cx t →
      let i := (fmtOf fw.bf).low (s.h.get o.c).toNat
      let w := (fmtOf fw.df).width
      ∃ u : State, exec (.vins o) s = .next ((u.onHart fun h => { h with vstart := 0 }).retire 4) ∧ u = { t with regs := u.regs } ∧
        (i < s.h.length → (u.vread s.h o.a.toNat w s.h.sliced i 0).val = (fmtOf fw.df).low (s.h.get o.b).toNat) ∧
        (∀ j, j < s.h.vlmax → j ≠ i ∨ s.h.length ≤ i → s.tanFor true = 0 →
          (u.vread s.h o.a.toNat w s.h.sliced j 0).val = (s.vread s.h o.a.toNat w s.h.sliced j 0).val) ∧
        ∀ loc, ¬ s.h.inWindows (s.h.vuse o.a.toNat w).windows (s.tanFor true) loc → u.regs.read loc = s.regs.read loc) ∧
    let ws := (s.h.vuse o.a.toNat (fmtOf fw.df).width).windows
    let f := fmtOf fw.df
    let elem (r : Memory) (v : BitVec 5) (i j : Nat) : Nat :=
      (({ s with regs := r } : State).vread s.h v.toNat f.width s.h.sliced i j).val
    let reads (j loc : Nat) : Prop := s.h.inTangents [s.h.vwin o.c.toNat] j (j + 1) loc
    let completes (i : Instr) (lo hi : Nat) (source : Nat → Prop) (value : Nat → Nat) : Prop :=
      ∃ regs, exec i s = .next (t.afterLoop regs 0 (s.nextSstep o.n) s.h.hstat) ∧
        (∀ loc, ¬ s.h.inTangents ws lo hi loc → regs.read loc = s.regs.read loc) ∧
        (s.h.group = 1 →
          (∀ loc, s.h.inTangents ws lo hi loc → ¬ source loc ∧ (o.vm = false → ¬ s.h.inTangents [s.h.mwin 0] 0 1 loc)) →
          ∀ i j, i < s.h.vlmax → lo ≤ j → j < hi → elem regs o.a i j =
            if i < s.h.start then elem s.regs o.a i j
            else if i < s.h.length then
              if o.vm = true ∨ (s.mread s.h 0 i).val = 1 then value i
              else if s.h.maskOnes then 2 ^ f.width - 1 else elem s.regs o.a i j
            else if s.h.tailOnes ∧ 0 < s.h.length then 2 ^ f.width - 1 else elem s.regs o.a i j)
    (∀ cx j, s.tanPrefix = none → Gives (tangentReady o true) s (cx, j) t →
      completes (.vtget o) 0 1 (reads j) fun i => f.low (elem s.regs o.c i j)) ∧
    (∀ cx j, s.tanPrefix = none → Gives (tangentReady o false) s (cx, j) t →
      completes (.vtset o) j (j + 1) (reads 0) fun i => f.low (elem s.regs o.c i 0)) ∧
    (∀ cx, s.tanPrefix = none → Gives (vtzeroReady o) s cx t →
      completes (.vtzero o) 1 (s.h.tanCount + 1) (fun _ => False) fun _ => 0)

/-- 10 R216, R218: a reduction that its dispatch accepts completes with its flags accumulated; it writes nothing with VL
0 and never a byte outside its destination, and without tangents no element of the destination but element 0. -/
def Obligations.ReductionsComplete : Prop :=
  ∀ r ∈ reduceRows, ∀ (o : VOps) (s : State) (cx : VCtx) (t : State), s.Calm → s.h.fits → s.canonical = true →
    Gives (dispatch r.2 o) s cx t →
    let w := (fmtOf (formatWord (s.h.formatReg o.n)).df).width
    ∃ regs f, exec (r.1 o) s = .next (t.afterLoop regs f s.h.sstep s.h.hstat) ∧
      (s.h.length = 0 → regs = s.regs) ∧
      (∀ loc, ¬ s.h.inWindows (s.mouldWindows r.2 o) (s.tanFor true) loc → regs.read loc = s.regs.read loc) ∧
      (s.tanFor true = 0 → ∀ i, 1 ≤ i → i < s.h.vlmax →
        (({ s with regs := regs }).vread s.h o.a.toNat w s.h.sliced i 0).val = (s.vread s.h o.a.toNat w s.h.sliced i 0).val)

/-- 10 R216, 04 R68, R69, 10 R203: an integer VRSUM or VRSUMO under SAT = 0 writes the initial value plus the sum of the
active elements below VL, modulo two to the width: the tree and the ordered fold agree. -/
def Obligations.IntegerSums : Prop :=
  ∀ i ∈ ([.vrsum, .vrsumo] : List (VOps → Instr)), ∀ (o : VOps) (s : State) (cx : VCtx) (t : State) (sg : Bool) (w : Nat),
    s.Calm → s.h.fits → s.canonical = true → Gives (dispatch reduceSpec o) s cx t → s.tanFor true = 0 → 0 < s.h.length →
    let fw := formatWord (s.h.formatReg o.n)
    fmtOf fw.df = .int sg w false → fmtOf fw.af = .int sg w false → fmtOf fw.bf = .int sg w false → fw.sat = false →
    let elem (u : State) (v : BitVec 5) (k : Nat) : Nat := (u.vread s.h v.toNat w false k 0).val
    let first : Nat := if o.form = 0 then elem s o.b 0 else if o.form = 1 then (s.h.get o.b).toNat else
      (o.b.signExtend 64).toNat
    let on (k : Nat) : Bool := o.vm || (s.mread s.h 0 k).val == 1
    ∃ u : State, exec (i o) s = .next u ∧
      elem u o.a 0 = (first + (((List.range s.h.length).filter on).map (elem s o.c)).sum) % 2 ^ w

/-! ### Element loops -/

/-- 10 R200, 09 R179, R187, 08 R163: every instruction with an element loop: when each of its elements from VSTART to VL
− 1 succeeds in order, and then each tail element, the instruction completes in that state with VSTART 0, its queue
bindings ended and the pc behind it; stopped after some of them, it leaves VSTART at the first that is not performed, what
those before it have done, and the pc at itself (log 24: it stops after any number of them). -/
def Obligations.ElementLoopsComplete : Prop :=
  let completes (i : Instr) (body : M VBody) (s : State) : Prop :=
    ∀ b t u v w n, Gives body s b t → b.block = none →
      Performs (b.at t.h.maskOnes) t.h.start (t.h.length - t.h.start) t u →
      (0 < t.h.length → t.h.tailOnes = true → Gives (b.tailFrom t.h.length) u n u ∧ Performs b.fill n (t.h.vlmax - n) u v) →
      (t.h.length = 0 ∨ t.h.tailOnes = false → v = u) →
      (t.part = none → Gives b.finish (v.onHart fun h => { h with vstart := 0 }) () w →
        exec i s = .next (w.retire b.len)) ∧
      (∀ k, t.part = some k → k + 1 < t.h.length - t.h.start →
        ∃ x, Performs (b.at t.h.maskOnes) t.h.start (k + 1) t x ∧
          exec i s = .next (x.onHart fun h => { h with vstart := BitVec.ofNat 64 (t.h.start + (k + 1)) }))
  (∀ r ∈ laneRows ++ shapeRows, ∀ o s, completes (r.instr o) (r.body o) s) ∧
  (∀ r ∈ geoRows ++ [⟨.gld, gldBody⟩, ⟨.gst, gstBody⟩], ∀ o s, completes (r.instr o) (r.body o) s) ∧
  (∀ r ∈ intervalRows ++ contractRows ++ boundRows ++ testRows, ∀ o s, completes (r.instr o) (r.body o) s) ∧
  (∀ r ∈ loadRows, ∀ o s, ((∀ p, r.instr p ≠ .vld p) ∨ o.a.toNat < 28) → completes (r.instr o) (r.body o) s) ∧
  (∀ r ∈ storeRows, ∀ o s, completes (r.instr o) (r.body o) s) ∧
  (∀ o s, s.h.det = true → completes (.vsredFadd o) (scatterBody false 1 o) s) ∧
  (∀ m b v s, completes (.vbin m b v) (vbinBody m b v) s)

/-! ### Vector loads and stores -/

/-- 09 R183, R187, R179: VLD of elements of 8 to 64 bits in modes 00, 01 and 10, without tangents, on a group of one register: an
active element becomes the little-endian bytes at its address. 09 R189: VLDM takes bit i mod 8 of the byte at s[b] + ⌊i / 8⌋. 18
R297: ILD takes the two bounds of an element. 15 R274: GLD takes the components of an element and writes its mask, and its
tangents become zero. 09 R190: VFILL moves byte j of lane l of a register from its position in the stream. Each address is one
the hart reaches without a walk. An element below VSTART keeps its value, an inactive one and the tail follow
MP and TP; memory, and every byte of register memory outside the destination's windows, stay as they are. -/
def Obligations.VectorLoadResults : Prop :=
  ∀ (s t : State), s.Calm → s.h.fits → s.Plain → s.canonical = true →
    let word (o : VmOps) (w i : Nat) : Word := s.h.get o.b +
      (if o.mode = 0 then BitVec.ofNat 64 (i * w) else if o.mode = 1 then BitVec.ofNat 64 i * s.h.get (o.c.setWidth 5)
       else BitVec.ofNat 64 (s.vread s.h o.c.toNat s.h.sew false i 0).val)
    let on (vm : Bool) (i : Nat) : Prop := vm = true ∨ (s.mread s.h 0 i).val = 1
    let inside (vm : Bool) (i : Nat) : Prop := s.h.start ≤ i ∧ i < s.h.length ∧ on vm i
    let completes (i : Instr) (ws : List Window) (k : Nat) (holds : State → Prop) : Prop :=
      ∃ regs, exec i s = .next (t.afterLoop regs 0 s.h.sstep s.h.hstat) ∧ t.mem = s.mem ∧ holds { s with regs := regs } ∧
        ∀ loc, ¬ s.h.inWindows ws k loc → regs.read loc = s.regs.read loc
    let becomes (vm : Bool) (elem : State → Nat → Nat) (value : Nat → Nat) (ones : Nat) (u : State) : Prop :=
      ∀ i, i < s.h.vlmax → elem u i =
        if i < s.h.start then elem s i
        else if i < s.h.length then if on vm i then value i else if s.h.maskOnes then ones else elem s i
        else if s.h.tailOnes ∧ 0 < s.h.length then ones else elem s i
    (∀ (o : VmOps) (p : MemPlan) (loc : Nat → Nat), o.mode ≠ 3 → o.a.toNat < 28 → s.h.group = 1 → s.tanFor true = 0 →
      p.bits = false → Gives (memDispatch o .dest plainEew) s p t →
      let w := if o.eew.toNat < 4 then 8 * 2 ^ o.eew.toNat else s.h.sew
      (∀ i, inside o.vm i → (word o (w / 8) i).toNat % (w / 8) = 0 ∧ s.Lies .load (word o (w / 8) i) (loc i)) →
      completes (.vld o) (s.h.vuse o.a.toNat w).windows 0
        (becomes o.vm (fun u i => (u.vread s.h o.a.toNat w false i 0).val) (fun i => s.mem.readNat (loc i) (w / 8)) (2 ^ w - 1))) ∧
    (∀ (o : VmOps) (b : VBody) (loc : Nat → Nat), Gives (vldmBody o) s b t →
      (∀ i, inside true i → s.Lies .load (s.h.get o.b + BitVec.ofNat 64 (i / 8)) (loc i)) →
      let m := o.a.toNat % 8
      completes (.vldm o) [s.h.mwin m] 0
        (becomes true (fun u i => (u.mread s.h m i).val) (fun i => (s.mem.read (loc i)).toNat / 2 ^ (i % 8) % 2) 1)) ∧
    (∀ (o : VmOps) (b : VBody) (loc : Bool → Nat → Nat), o.mode ≠ 3 → Gives (ildBody o) s b t →
      let n := if o.eew = 3 then 8 else 4
      let adr (upper : Bool) (i : Nat) : Word := word o (2 * n) i + if upper then BitVec.ofNat 64 n else 0
      (∀ i, inside o.vm i → ∀ upper, (adr upper i).toNat % n = 0 ∧ s.Lies .load (adr upper i) (loc upper i)) →
      completes (.ild o) [s.h.iwin o.a.toNat] 0 fun u => ∀ upper,
        becomes o.vm (fun u i => (u.boundRead s.h o.a.toNat (8 * n) i upper).val) (fun i => s.mem.readNat (loc upper i) n)
          (2 ^ (8 * n) - 1) u) ∧
    (∀ (o : GOps) (b : VBody) (loc : Nat → Nat → Nat), o.a.toNat < 16 → Gives (gldBody o) s b t →
      let mask := if o.d = 0 then s.h.gmask o.a.toNat else o.d.toNat
      let n := (bladesOf mask).length
      let adr (i q : Nat) : Word := s.h.get (o.b.setWidth 5) + BitVec.ofNat 64 (4 * q) +
        BitVec.ofNat 64 i * (if o.c = 0 then BitVec.ofNat 64 (4 * n) else s.h.get (o.c.setWidth 5))
      (∀ i q, inside true i → q < n → (adr i q).toNat % 4 = 0 ∧ s.Lies .load (adr i q) (loc i q)) →
      completes (.gld o) [s.h.gwin o.a.toNat] (s.tanFor true) (fun u => ∀ q, q < n →
        becomes true (fun u i => (u.gread s.h o.a.toNat q i 0).val) (fun i => s.mem.readNat (loc i q) 4) (2 ^ 32 - 1) u ∧
        ∀ j, 1 ≤ j → j ≤ s.tanFor true →
          becomes true (fun u i => (u.gread s.h o.a.toNat q i j).val) (fun _ => 0) (2 ^ 32 - 1) u) ∧
      t.h.gmask o.a.toNat = mask) ∧
    (∀ (o : VmOps) (p : SpillPlan) (loc : Nat → Nat), Gives (spillDispatch o true) s p t →
      let n := if o.eew.toNat < 4 then 2 ^ o.eew.toNat else s.h.group
      let win (k : Nat) : Window := s.h.vwin (o.a.toNat + k)
      let position (k j l : Nat) : Nat := (((List.range k).map fun i => 2 * (win i).len * s.h.lanes).sum) + j * s.h.lanes + l
      let place (k j l : Nat) : Nat := regLoc s.h.stop (s.h.lane0 + l) (2 * (s.h.partBase + (win k).base) + j)
      (∀ k k', k < n → k' < n → k ≠ k' → (win k).overlaps (win k') = false) →
      (∀ q, s.h.start ≤ q → q < position n 0 0 → s.Lies .load (s.h.get o.b + BitVec.ofNat 64 q) (loc q)) →
      completes (.vfill o) ((List.range n).map win) 0 fun u =>
        ∀ k j l, k < n → j < 2 * (win k).len → l < s.h.lanes → u.regs.read (place k j l) =
          if s.h.start ≤ position k j l then s.mem.read (loc (position k j l)) else s.regs.read (place k j l))

/-- 09 R183, R187, 05 R94: VST and VSTU of elements of 8 to 64 bits in modes 00, 01 and 10: an active element whose bytes no other
active element writes stands at its address. 09 R189: VSTM writes its bits into the bytes at s[b] + ⌊i / 8⌋. 18 R297: IST stores
the two bounds of an element. 15 R274: GST stores the components of an element. 09 R190: VSPILL stores byte j of lane l of a
register at its position in the stream. Each address is one the hart reaches without a walk, and none of the bytes stored is one
that its translation rests on. Every byte, and for VSTM every bit, of memory that no active element writes is as before; no register changes. -/
def Obligations.VectorStoreResults : Prop :=
  ∀ (s t : State), s.Calm → s.pillars = [] → s.h.strip = [] → s.canonical = true →
    let word (o : VmOps) (w i : Nat) : Word := s.h.get o.b +
      (if o.mode = 0 then BitVec.ofNat 64 (i * w) else if o.mode = 1 then BitVec.ofNat 64 i * s.h.get (o.c.setWidth 5)
       else BitVec.ofNat 64 (s.vread s.h o.c.toNat s.h.sew false i 0).val)
    let on (vm : Bool) (i : Nat) : Prop := s.h.start ≤ i ∧ i < s.h.length ∧ (vm = true ∨ (s.mread s.h 0 i).val = 1)
    let kept (u : State) : Prop := u.regs = s.regs ∧ u.h.s = s.h.s ∧ u.h.fcsr = s.h.fcsr ∧ u.h.hstat = s.h.hstat ∧ u.h.vstart = 0 ∧
      u.h.pc = s.h.pc + 4 + s.prefixLen
    let stores (i : Instr) (does : Nat → Nat → Prop) (n : Nat) (loc value : Nat → Nat → Nat) : Prop :=
      ∃ u : State, exec i s = .next u ∧ kept u ∧
        (∀ k q, does k q →
          (∀ j r, does j r → (j, r) ≠ (k, q) → loc j r + n ≤ loc k q ∨ loc k q + n ≤ loc j r) →
          u.mem.readNat (loc k q) n = value k q % 2 ^ (8 * n)) ∧
        (∀ x, (∀ k q, does k q → x < loc k q ∨ loc k q + n ≤ x) → u.mem.read x = s.mem.read x)
    (∀ i ∈ ([.vst, .vstu] : List (VmOps → Instr)), ∀ (o : VmOps) (p : MemPlan) (loc : Nat → Nat), o.mode ≠ 3 → p.bits = false →
      Gives (memDispatch o .source plainEew) s p t →
      let w := if o.eew.toNat < 4 then 8 * 2 ^ o.eew.toNat else s.h.sew
      let touched (x : Nat) : Prop := ∃ k, on o.vm k ∧ loc k ≤ x ∧ x < loc k + w / 8
      (∀ k, on o.vm k → (word o (w / 8) k).toNat % (w / 8) = 0 ∧ s.LiesWhile touched .store (word o (w / 8) k) (loc k)) →
      stores (i o) (fun k q => on o.vm k ∧ q = 0) (w / 8) (fun k _ => loc k) fun k _ => (s.vread s.h o.a.toNat w s.h.sliced k 0).val) ∧
    (∀ (o : VmOps) (b : VBody) (loc : Nat → Nat), Gives (vstmBody o) s b t →
      (∀ k, on true k → s.LiesWhile (fun x => ∃ j, on true j ∧ loc j = x) .store (s.h.get o.b + BitVec.ofNat 64 (k / 8)) (loc k)) →
      ∃ u : State, exec (.vstm o) s = .next u ∧ kept u ∧
        (∀ k, on true k → (∀ j, on true j → j ≠ k → loc j = loc k → j % 8 ≠ k % 8) →
          (u.mem.read (loc k)).getLsbD (k % 8) = ((s.mread s.h (o.a.toNat % 8) k).val == 1)) ∧
        ∀ x bit, bit < 8 → (∀ k, on true k → loc k = x → k % 8 ≠ bit) →
          (u.mem.read x).getLsbD bit = (s.mem.read x).getLsbD bit) ∧
    (∀ (o : VmOps) (b : VBody) (loc : Nat → Nat → Nat), o.mode ≠ 3 → Gives (istBody o) s b t →
      let n := if o.eew = 3 then 8 else 4
      let adr (k q : Nat) : Word := word o (2 * n) k + BitVec.ofNat 64 (q * n)
      let touched (x : Nat) : Prop := ∃ k q, on o.vm k ∧ q < 2 ∧ loc k q ≤ x ∧ x < loc k q + n
      (∀ k q, on o.vm k → q < 2 → (adr k q).toNat % n = 0 ∧ s.LiesWhile touched .store (adr k q) (loc k q)) →
      stores (.ist o) (fun k q => on o.vm k ∧ q < 2) n loc fun k q => (s.boundRead s.h o.a.toNat (8 * n) k (q == 1)).val) ∧
    (∀ (o : GOps) (b : VBody) (loc : Nat → Nat → Nat), Gives (gstBody o) s b t →
      let n := (bladesOf (s.h.gmask o.a.toNat)).length
      let adr (k q : Nat) : Word := s.h.get (o.b.setWidth 5) + BitVec.ofNat 64 (4 * q) +
        BitVec.ofNat 64 k * (if o.c = 0 then BitVec.ofNat 64 (4 * n) else s.h.get (o.c.setWidth 5))
      let touched (x : Nat) : Prop := ∃ k q, on true k ∧ q < n ∧ loc k q ≤ x ∧ x < loc k q + 4
      (∀ k q, on true k → q < n → (adr k q).toNat % 4 = 0 ∧ s.LiesWhile touched .store (adr k q) (loc k q)) →
      stores (.gst o) (fun k q => on true k ∧ q < n) 4 loc fun k q => (s.gread s.h o.a.toNat q k 0).val) ∧
    (∀ (o : VmOps) (p : SpillPlan) (loc : Nat → Nat), Gives (spillDispatch o false) s p t →
      let n := if o.eew.toNat < 4 then 2 ^ o.eew.toNat else s.h.group
      let win (k : Nat) : Window := s.h.vwin (o.a.toNat + k)
      let position (k j l : Nat) : Nat := (((List.range k).map fun i => 2 * (win i).len * s.h.lanes).sum) + j * s.h.lanes + l
      let place (k j l : Nat) : Nat := regLoc s.h.stop (s.h.lane0 + l) (2 * (s.h.partBase + (win k).base) + j)
      let does (q : Nat) : Prop := s.h.start ≤ q ∧ q < position n 0 0
      (∀ q, does q → s.LiesWhile (fun x => ∃ r, does r ∧ loc r = x) .store (s.h.get o.b + BitVec.ofNat 64 q) (loc q)) →
      ∃ u : State, exec (.vspill o) s = .next u ∧ kept u ∧
        (∀ k j l, k < n → j < 2 * (win k).len → l < s.h.lanes → let q := position k j l
          does q → (∀ r, does r → r ≠ q → loc r ≠ loc q) → u.mem.read (loc q) = s.regs.read (place k j l)) ∧
        (∀ x, (∀ q, does q → x ≠ loc q) → u.mem.read x = s.mem.read x))

/-- 09 R188, R181, R190, R191, R193: the loads and stores that are no plain loop: VLDFF completes like VLD when no element
faults, and with VL at the faulting element when one above the first active element does; a load that names a queue
binds it and writes no register; VSPILL and VFILL complete when every byte of their stream is moved; a VSRED of FADD
without DET completes when its elements are gathered and applied. VSREDO, and VSRED without DET of an operation other than FADD,
leave in each location that its active elements name the old value with their values applied in ascending order, and change no
other byte. VBIN, here of one element at firmware level in device memory, enters its key in the first cell that is free or stale,
loses where it finds its key, and drops it or takes cause 19 where the table is full, with the counters that go with it. At
whatever addresses, an element loop that loads
changes no byte of memory and no scalar register, one that stores or reduces no byte of register memory. -/
def Obligations.OtherVectorMemory : Prop :=
  (∀ r ∈ loadRows, ∀ o s b t u, Gives (r.body o) s b t → Performs (b.at t.h.maskOnes) t.h.start (t.h.length - t.h.start) t u →
    u.mem = s.mem ∧ u.poison = s.poison ∧ u.others = s.others ∧ u.h.s = s.h.s ∧ u.h.fcsr = s.h.fcsr ∧ u.tiles = s.tiles) ∧
  (∀ r ∈ storeRows ++ [⟨.vsredFadd, scatterBody false 1⟩], ∀ o s b t u, Gives (r.body o) s b t →
    Performs (b.at t.h.maskOnes) t.h.start (t.h.length - t.h.start) t u →
    u.regs = s.regs ∧ u.regPoison = s.regPoison ∧ u.h.s = s.h.s ∧ u.h.fcsr = s.h.fcsr ∧ u.h.vl = s.h.vl ∧ u.tiles = s.tiles) ∧
  (let applied (op w old x : Nat) : Nat :=
     let int (v : Nat) : Int := (BitVec.ofNat w v).toInt
     let f : FloatFmt := if w = 16 then bf16 else if w = 32 then fp32 else fp64
     match op with
     | 0 => (old + x) % 2 ^ w
     | 1 => (f.fit .rne false 0 (sumOf false [f.value old, f.value x]).1).bits
     | 2 => if int x < int old then x else old
     | 3 => if int old < int x then x else old
     | 4 => min old x
     | 5 => max old x
     | 6 => old &&& x
     | _ => old ||| x
   ∀ r ∈ ([(.vsredIadd, 0, false), (.vsredMins, 2, false), (.vsredMaxs, 3, false), (.vsredMinn, 4, false), (.vsredMaxn, 5, false),
       (.vsredAnd, 6, false), (.vsredIor, 7, false), (.vsredoIadd, 0, true), (.vsredoFadd, 1, true), (.vsredoMins, 2, true),
       (.vsredoMaxs, 3, true), (.vsredoMinn, 4, true), (.vsredoMaxn, 5, true), (.vsredoAnd, 6, true), (.vsredoIor, 7, true)]
         : List ((VmOps → Instr) × Nat × Bool)),
     ∀ (o : VmOps) (s t : State) (p : MemPlan) (loc : Nat → Nat), s.Calm → s.Plain → s.canonical = true → (r.2.2 = true ∨ s.h.det = false) →
       Gives (memDispatch o .source (reduceEew r.2.1) false) s p t →
       let n := 2 ^ o.eew.toNat
       let on (k : Nat) : Bool := decide (s.h.start ≤ k) && (o.vm || (s.mread s.h 0 k).val == 1)
       let adr (k : Nat) : Word := s.h.get o.b + BitVec.ofNat 64 (s.vread s.h o.c.toNat s.h.sew false k 0).val
       let touched (x : Nat) : Prop := ∃ k, k < s.h.length ∧ on k = true ∧ loc k ≤ x ∧ x < loc k + n
       (∀ k, k < s.h.length → on k = true → (adr k).toNat % n = 0 ∧ s.LiesWhile touched .store (adr k) (loc k)) →
       (∀ j k, j < s.h.length → k < s.h.length → on j = true → on k = true →
         loc j = loc k ∨ loc j + n ≤ loc k ∨ loc k + n ≤ loc j) →
       ∃ u : State, exec (r.1 o) s = .next u ∧ u.regs = s.regs ∧ u.h.s = s.h.s ∧ u.h.fcsr = s.h.fcsr ∧ u.h.vstart = 0 ∧
         u.h.pc = s.h.pc + 4 + s.prefixLen ∧
         (∀ k, k < s.h.length → on k = true → u.mem.readNat (loc k) n =
           ((List.range s.h.length).filter fun j => on j && loc j == loc k).foldl
             (fun old j => applied r.2.1 (8 * n) old (s.vread s.h o.a.toNat (8 * n) false j 0).val) (s.mem.readNat (loc k) n)) ∧
         ∀ x, (∀ k, k < s.h.length → on k = true → x < loc k ∨ loc k + n ≤ x) → u.mem.read x = s.mem.read x) ∧
  (∀ (m : BitVec 3) (b : SReg) (v : BitVec 5) (s t : State) (body : VBody), s.Calm → s.h.fits → s.Plain → s.canonical = true → s.h.level = .firmware →
     s.h.length = s.h.start + 1 → Gives (vbinBody m b v) s body t →
     let rec' := (s.h.get b).toNat
     let field (off n : Nat) : Nat := s.mem.readNat (rec' + off) n
     let base := field 0 8
     let slots := 2 ^ field 8 1
     rec' + 64 ≤ 2 ^ 39 → base + 16 * slots ≤ 2 ^ 39 → base + 16 * slots ≤ rec' ∨ rec' + 64 ≤ base →
     let key := (s.vread s.h v.toNat 32 false s.h.start 0).val
     let hash := key * 0x9E3779B1 % 2 ^ 32 / 2 ^ (32 - field 8 1)
     let cell (j : Nat) : Nat := base + 16 * ((hash + j) % slots)
     let mark (j : Nat) : Nat := s.mem.readNat (cell j + 8) 1
     let age (j : Nat) : Nat := (field 12 1 + 16 - mark j % 16) % 16
     let free (j : Nat) : Prop := mark j < 128
     let stale (j : Nat) : Prop := field 11 1 = 1 ∧ 1 ≤ age j ∧ age j ≤ 7
     let decides (j : Nat) : Prop := free j ∨ stale j ∨ s.mem.readNat (cell j) 4 = key
     let enter (j : Nat) (x : Memory) : Memory :=
       ((x.writeNat (cell j) 4 key).writeNat (cell j + 4) 4 ((s.h.sbase.toNat + s.h.start) % 2 ^ 32)).writeNat (cell j + 8) 8
         (128 + field 12 1)
     let count (off n : Nat) (x : Memory) : Memory := x.writeNat (rec' + off) n ((field off n + 1) % 2 ^ (8 * n))
     let ends (won : Nat) (x : Memory) : Prop := ∃ u : State, exec (.vbin m b v) s = .next u ∧ u.mem = x ∧
       (u.mread s.h m.toNat s.h.start).val = won ∧ u.h.s = s.h.s ∧ u.h.fcsr = s.h.fcsr ∧ u.h.vstart = 0 ∧
       u.h.pc = s.h.pc + 4 + s.prefixLen ∧ ∀ loc, ¬ s.h.inWindows [s.h.mwin m.toNat] 0 loc → u.regs.read loc = s.regs.read loc
     let overflows : Prop := (field 10 1 = 0 → ends 0 (count 48 8 s.mem)) ∧
       (field 10 1 = 1 → exec (.vbin m b v) s = .next (t.takeTrap 19 (s.h.get b)))
     ((∀ j, j < field 9 1 → ¬ decides j) → overflows) ∧
     ∀ j, j < field 9 1 → decides j → (∀ i, i < j → ¬ decides i) →
       (free j → field 20 4 < field 16 4 → ends 1 (count 24 8 (count 20 4 (enter j s.mem)))) ∧
       (free j → field 16 4 ≤ field 20 4 → overflows) ∧
       (¬ free j → stale j → ends 1 (count 32 8 (enter j s.mem))) ∧
       (¬ free j → ¬ stale j → ends 0 (count 40 8 s.mem))) ∧
  ∀ (o : VmOps) (s : State), s.part = none →
    (∀ b t u v, o.a.toNat < 28 → Gives (loadBody o fffEew) s b t → t.h.start < t.h.length → o.vm = true →
      t.h.tailOnes = false →
      (Performs (b.at t.h.maskOnes) t.h.start (t.h.length - t.h.start) t u →
        Gives b.finish (u.onHart fun h => { h with vstart := 0 }) () v → exec (.vldff o) s = .next (v.retire 4)) ∧
      (∀ f c x w, t.h.start < f → f < t.h.length → Performs (b.at t.h.maskOnes) t.h.start (f - t.h.start) t u →
        ((b.elem f).run.run (u.onHart fun h => { h with vstart := BitVec.ofNat 64 f }) = (.error (.trap c x), w)) → c ≠ 2 →
        Gives b.finish (w.onHart fun h => { h with vl := BitVec.ofNat 64 f, vstart := 0 }) () v →
        exec (.vldff o) s = .next (v.retire 4))) ∧
    (∀ p t es u v, 28 ≤ o.a.toNat → Gives (memDispatch o .none plainEew) s p t →
      Gives (p.queueElems p.h.start (p.h.length - p.h.start)) (t.onHart fun h => { h with vstart := 0 }) es u →
      Gives (p.finish false) u () v →
      exec (.vld o) s = .next ((v.onHart fun h => h.setQueue (o.a.toNat - 28)
        (some ⟨p.width, p.bits, p.base.toNat, List.replicate p.h.start ⟨none, none, false, false⟩ ++ es, false⟩)).retire 4) ∧
          v.regs = s.regs ∧ v.mem = s.mem ∧ v.h.s = s.h.s) ∧
    (∀ p t u, Gives (spillDispatch o false) s p t →
      Performs (fun q => do setStart q; spillByte p q) p.h.start (p.total - p.h.start) t u →
      exec (.vspill o) s = .next (((u.onHart fun h => { h with vstart := 0 }).onHart Hart.endElements).retire 4) ∧
        u.regs = s.regs ∧ u.h.s = s.h.s) ∧
    (∀ p t u, Gives (spillDispatch o true) s p t →
      Performs (fun q => do setStart q; fillByte p q) p.h.start (p.total - p.h.start) t u →
      exec (.vfill o) s = .next (((u.onHart fun h => { h with vstart := 0 }).onHart Hart.endElements).retire 4) ∧
        u.mem = s.mem ∧ u.h.s = s.h.s) ∧
    (∀ p t xs u v w, s.h.det = false → Gives (memDispatch o .source (reduceEew 1) false) s p t →
      Gives (p.gather [] p.h.start (p.h.length - p.h.start)) t (xs, none) u →
      Gives (p.applyAny 1 xs (xs.map (·.loc)).eraseDups) u () v →
      Gives (p.finish true) (v.onHart fun h => { h with vstart := 0 }) () w →
      exec (.vsredFadd o) s = .next (w.retire 4))

/-! ### Geometry and intervals -/

/-- 15 R263, R266, R269 to R276, 11 R226: a geometry instruction that its dispatch accepts completes: flags accumulate,
VSTART is 0, and no byte of register memory outside the destination window and its tangents changes. 18 R289 to R296, 11
R233: an interval instruction that its dispatch accepts completes: it raises no flag, only HSTAT's two interval bits may
be set, VSTART is 0, and no byte outside the windows it writes (a vector destination with its tangents) changes. -/
def Obligations.GeometryAndIntervalComplete : Prop :=
  (∀ r ∈ geoRows, ∀ (o : GOps) (s : State) (b : VBody) (t : State), s.Calm → s.h.fits → s.canonical = true → Gives (r.body o) s b t →
     ∃ regs f, exec (r.instr o) s = .next (t.afterLoop regs f s.h.sstep s.h.hstat) ∧
       (∀ loc, ¬ s.h.inWindows (s.geoWindows (r.instr o) o) (s.tanFor true) loc → regs.read loc = s.regs.read loc) ∧
       t = { s with h := { s.h with gw := t.h.gw, pushed := t.h.pushed, rbuf := t.h.rbuf, strip := t.h.strip } }) ∧
  (let completes (r : LoopRow IvOps) (k : Nat) (o : IvOps) (s : State) : Prop :=
     ∀ (b : VBody) (t : State), s.Calm → s.h.fits → s.canonical = true → Gives (r.body o) s b t →
       ∃ regs bits, exec (r.instr o) s = .next (t.afterLoop regs 0 s.h.sstep (s.h.hstat ||| (bits &&& 3))) ∧
         (∀ loc, ¬ s.h.inWindows (s.intervalWindows (r.instr o) o) k loc → regs.read loc = s.regs.read loc) ∧
         t = { s with h := { s.h with pushed := t.h.pushed, rbuf := t.h.rbuf, strip := t.h.strip } }
   (∀ r ∈ intervalRows ++ contractRows ++ testRows, ∀ o s, completes r 0 o s) ∧
   (∀ r ∈ boundRows, ∀ (o : IvOps) (s : State), let k := if s.h.tan then s.h.tanCount else 0
     (s.h.vwin o.a.toNat).base + (k + 1) * (s.h.vwin o.a.toNat).len ≤ s.h.partLen → completes r k o s))

/-- 15 R260: the sign and the component of every product of two basis blades, as the algebra of signature (3,0,1) has
them: e0 squares to 0, e1, e2, e3 to 1, two different vectors anticommute, and the product is associative. -/
def Obligations.BladeAlgebra : Prop :=
  (bladeMul 1 1 = none) ∧ (∀ k ∈ [2, 3, 4], bladeMul k k = some (false, 0)) ∧
  (∀ k, k < 16 → bladeMul 0 k = some (false, k) ∧ bladeMul k 0 = some (false, k)) ∧
  (∀ i ∈ [1, 2, 3, 4], ∀ j ∈ [1, 2, 3, 4], i ≠ j →
    ∃ s m, bladeMul i j = some (s, m) ∧ bladeMul j i = some (!s, m)) ∧
  (∀ i, i < 16 → ∀ j, j < 16 → ∀ k, k < 16 →
    ((bladeMul i j).bind fun p => (bladeMul p.2 k).map fun q => (p.1 != q.1, q.2)) =
      ((bladeMul j k).bind fun p => (bladeMul i p.2).map fun q => (p.1 != q.1, q.2)))

/-- 18 R290, R291, R295: what intervals compute on the exact side, before rounding, shown for integer bounds and members: a
sum, a difference or a product of sets holds the result of every pair of its members; an intersection lies in both operands
and a hull holds both. 18 R287, R290, R291, R293, R295: what the instructions write: a forward instruction, IHULL or IMEET
its image, rounded outward and in canonical form, into each active element; a contractor the narrowed operands in place. -/
def Obligations.IntervalInclusion : Prop :=
  (let writes (i : IvOps → Instr) (body : IvOps → M VBody)
       (result : FloatFmt → Bool → Iv → Iv → Iv → List (Nat × Iv)) : Prop :=
     ∀ (o : IvOps) (s : State) (b : VBody) (t : State), s.Calm → s.h.fits → s.canonical = true → Gives (body o) s b t →
       let f : FloatFmt := if o.p then fp64 else fp32
       let bound (r : Memory) (x i : Nat) (upper : Bool) : Nat :=
         (({ s with regs := r } : State).boundRead s.h x (if o.p then 64 else 32) i upper).val
       let iv (x i : Nat) : Iv := ivRead f (bound s.regs x i false) (bound s.regs x i true)
       let same : Bool := (s.h.iwin o.b.toNat).same (s.h.iwin o.c.toNat)
       ∃ regs bits, exec (i o) s = .next (t.afterLoop regs 0 s.h.sstep (s.h.hstat ||| (bits &&& 3))) ∧
         ∀ k, s.h.start ≤ k → k < s.h.length → o.vm = true ∨ (s.mread s.h 0 k).val = 1 →
           ∀ p ∈ result f same (iv o.a.toNat k) (iv o.b.toNat k) (iv o.c.toNat k),
             (bound regs (if p.1 = 0 then o.a.toNat else if p.1 = 1 then o.b.toNat else o.c.toNat) k false,
              bound regs (if p.1 = 0 then o.a.toNat else if p.1 = 1 then o.b.toNat else o.c.toNat) k true) = ivBits f p.2
   (∀ r ∈ ([(.iadd, iaddBody, ivAdd), (.isub, isubBody, ivSub), (.imul, imulBody, ivMul), (.idiv, idivBody, ivDiv),
       (.imin, iminBody, ivMin), (.imax, imaxBody, ivMax)] : List ((IvOps → Instr) × (IvOps → M VBody) × IvOp)),
     writes r.1 r.2.1 fun f _ _ x y => [(0, forward f r.2.2 false x y)]) ∧
   (∀ r ∈ ([(.isqr, isqrBody, ivSqr), (.isqrt, isqrtBody, ivSqrt), (.iexp, iexpBody, ivExp), (.ilog, ilogBody, ivLog),
       (.ineg, inegBody, ivNeg), (.iabs, iabsBody, ivAbs)] : List ((IvOps → Instr) × (IvOps → M VBody) × IvOp)),
     writes r.1 r.2.1 fun f _ _ x _ => [(0, forward f r.2.2 true x .empty)]) ∧
   writes .ihull ihullBody (fun _ _ _ x y => [(0, x.hull y)]) ∧
   writes .imeet imeetBody (fun _ _ _ x y => [(0, x.meet y)]) ∧
   (∀ r ∈ ([(.cadd, caddBody, narrowAdd), (.csub, csubBody, narrowSub), (.cmul, cmulBody, narrowMul), (.cdiv, cdivBody, narrowDiv),
       (.cmin, cminBody, narrowMin), (.cmax, cmaxBody, narrowMax)] : List ((IvOps → Instr) × (IvOps → M VBody) × Narrow)),
     writes r.1 r.2.1 fun f same z x y =>
       let n := contract r.2.2 f same z x y
       [(1, if same then n.2 else n.1), (2, n.2)]) ∧
   (∀ r ∈ ([(.csqr, csqrBody, narrowSqr), (.csqrt, csqrtBody, narrowSqrt), (.cexp, cexpBody, narrowExp), (.clog, clogBody, narrowLog),
       (.cneg, cnegBody, narrowNeg), (.cabs, cabsBody, narrowAbs)] : List ((IvOps → Instr) × (IvOps → M VBody) × Narrow)),
     writes r.1 r.2.1 fun f _ z x _ => [(1, (contract r.2.2 f true z x x).2)])) ∧
  let holds (x : Iv) (n : Int) : Prop := match x with
    | .set lo hi => numLe lo (.ofInt n) = true ∧ numLe (.ofInt n) hi = true
    | _ => False
  ∀ a b c d m n : Int, a ≤ m → m ≤ b → c ≤ n → n ≤ d →
    let x : Iv := .set (.ofInt a) (.ofInt b)
    let y : Iv := .set (.ofInt c) (.ofInt d)
    let inside (r : Image) (v : Int) : Prop := ∃ lo hi, r = some (.num lo, .num hi) ∧
      numLe lo (.ofInt v) = true ∧ numLe (.ofInt v) hi = true
    inside (ivAdd (.ofInt a) (.ofInt b) (.ofInt c) (.ofInt d)) (m + n) ∧
    inside (ivSub (.ofInt a) (.ofInt b) (.ofInt c) (.ofInt d)) (m - n) ∧
    inside (ivMul (.ofInt a) (.ofInt b) (.ofInt c) (.ofInt d)) (m * n) ∧
    inside (ivNeg (.ofInt a) (.ofInt b) (.ofInt c) (.ofInt d)) (-m) ∧
    inside (ivAbs (.ofInt a) (.ofInt b) (.ofInt c) (.ofInt d)) m.natAbs ∧
    inside (ivSqr (.ofInt a) (.ofInt b) (.ofInt c) (.ofInt d)) (m * m) ∧
    inside (ivMin (.ofInt a) (.ofInt b) (.ofInt c) (.ofInt d)) (min m n) ∧
    inside (ivMax (.ofInt a) (.ofInt b) (.ofInt c) (.ofInt d)) (max m n) ∧
    (holds (x.hull y) m ∧ holds (x.hull y) n) ∧
    (m = n → holds (x.meet y) m)

/-! ### The matrix engine -/

/-- 13 R237 to R242: MCLAIM by the holder completes at once, MCLAIM of a free state with nobody waiting grants zeroed
tiles and full extents, the steal of a frozen holder's state keeps them, and otherwise it waits, from then on until the state is
free, also when its holder is frozen meanwhile; a grant gives the freed
state to the first claimant; MFREE releases the holder's state; MSETVL and MWIPE work for the holder and take cause 11
for anyone else. 13 R249, R254, 11 R233: TROWR and TCOLR copy a slice of a tile to a vector, TROWW and TCOLW a vector to
a slice, MCVT converts a row: each completes where its dispatch accepts it. Between equal formats bits are copied; no
other tile element, and no register byte outside the destination's windows, changes. -/
def Obligations.MatrixOwnershipAndSlices : Prop :=
  (∀ s : State, s.h.live = true → s.canonical = true →
     let mx := s.matrix s.h.stop
     let unclaimed := s.onHart fun h => { h with claimAt := none }
     let mine : Prop := mx.holder = some s.h.key
     let zeroed (t : State) (stop : Nat) : Prop :=
       (∀ k i j, k < 8 → i < 64 → j < 64 → t.tileRead stop k i j = 0) ∧
       (∀ p, p ≠ stop → ∀ k i j, k < 8 → i < 64 → j < 64 → t.tileRead p k i j = s.tileRead p k i j)
     (∀ b, (s.h.level = .user → (s.h.get b).getLsbD 0 = false) →
       (mine → exec (.mclaim b) s = .next (unclaimed.retire 4)) ∧
       (mx.holder = none → (∀ h ∈ s.others, h.stop = s.h.stop → h.claimAt = none) →
         ∃ t : State, exec (.mclaim b) s = .next (t.retire 4) ∧
           t = { unclaimed with tiles := t.tiles, matrices := t.matrices } ∧
           t.matrix s.h.stop = ⟨s.h.stop, some s.h.key, 64, 64⟩ ∧ zeroed t s.h.stop ∧
           ∀ p, p ≠ s.h.stop → t.matrix p = s.matrix p) ∧
       (∀ h, mx.holder = some h.key → s.hartOf? h.key = some h → h.key ≠ s.h.key →
         (h.frozen = false → ∃ t : State, exec (.mclaim b) s = .next t ∧ t.h.blocked = true ∧ t.h.pc = s.h.pc ∧
           t.h.claimAt ≠ none ∧ t.tiles = s.tiles ∧ t.matrices = s.matrices) ∧
         (s.h.claimAt ≠ none → exec (.mclaim b) s = .next (s.onHart fun h => { h with blocked := true })) ∧
         (h.frozen = true → s.h.claimAt = none → (s.h.get b).getLsbD 0 = true →
           ∃ t : State, exec (.mclaim b) s = .next (t.retire 4) ∧ t = { unclaimed with matrices := t.matrices } ∧
             t.matrix s.h.stop = { mx with holder := some s.h.key }) ∧
         (h.frozen = true → s.h.claimAt = none → (s.h.get b).getLsbD 0 = false → s.h.slot = 8 →
           exec (.mclaim b) s = .next (s.takeTrap 11 h.hartid)))) ∧
     (∀ stop h, s.firstClaimant stop = some h → ∃ t : State, exec (.matrixStateGrant stop) s = .next t ∧
       t.matrix stop = ⟨stop, some h.key, 64, 64⟩ ∧ zeroed t stop ∧ t.mem = s.mem ∧ t.regs = s.regs) ∧
     ((∀ p ∈ s.pillars, p.owner ≠ s.h.key) → ∃ t : State, exec .mfree s = .next (t.retire 4) ∧
       t = { s with matrices := t.matrices } ∧
       t.matrix s.h.stop = if mx.holder = some s.h.key then ⟨s.h.stop, none, 64, 64⟩ else mx) ∧
     (mine → ∀ b c, ∃ t : State, exec (.msetvl b c) s = .next (t.retire 4) ∧ t = { s with matrices := t.matrices } ∧
       (t.matrix s.h.stop).holder = mx.holder ∧ (t.matrix s.h.stop).mrows.toNat = min 64 (s.h.get b).toNat ∧
       (t.matrix s.h.stop).mcols.toNat = min 64 (s.h.get c).toNat) ∧
     (mine → ∀ k : BitVec 3, ∃ t : State, exec (.mwipe k) s = .next (t.retire 4) ∧ t = { s with tiles := t.tiles } ∧
       ∀ p n i j, n < 8 → i < 64 → j < 64 →
         t.tileRead p n i j = if p = s.h.stop ∧ n = k.toNat then 0 else s.tileRead p n i j) ∧
     (¬ mine → ∀ b c k, exec (.msetvl b c) s = .next (s.takeTrap 11 (s.holderId s.h.stop)) ∧
       exec (.mwipe k) s = .next (s.takeTrap 11 (s.holderId s.h.stop)))) ∧
  (∀ (o : SliceOps) (s t : State) (cx : VCtx), s.Calm → s.h.fits → s.canonical = true →
     let fw := formatWord (s.h.formatReg o.n)
     let r := (s.h.get o.idx).toNat % 64
     let k := if s.h.tan then s.h.tanCount else 0
     let roomy (v : BitVec 5) : Prop := ∀ w ∈ (s.h.groupRegs v.toNat).map s.h.vwin, w.base + (k + 1) * w.len ≤ s.h.partLen
     let on (i : Nat) : Prop := o.vm = true ∨ (s.mread s.h 0 i).val = 1
     let slot (column : Bool) (u : State) (i : Nat) : Nat :=
       if column then u.tileRead s.h.stop o.tile.toNat i r else u.tileRead s.h.stop o.tile.toNat r i
     (∀ p ∈ ([(.trowr, false), (.tcolr, true)] : List ((SliceOps → Instr) × Bool)), Gives (sliceReadReady o) s cx t → roomy o.v →
       ∃ regs f, exec (p.1 o) s = .next (t.afterLoop regs f s.h.sstep s.h.hstat 8) ∧
         (∀ loc, ¬ s.h.inWindows ((s.h.groupRegs o.v.toNat).map s.h.vwin) k loc → regs.read loc = s.regs.read loc) ∧
         (fw.df = fw.af → k = 0 → ∀ i, s.h.start ≤ i → i < s.h.length → on i →
           (({ s with regs := regs }).vread s.h o.v.toNat 32 s.h.sliced i 0).val = slot p.2 s i)) ∧
     (∀ p ∈ ([(.troww, false), (.tcolw, true)] : List ((SliceOps → Instr) × Bool)), Gives (sliceWriteReady o) s cx t →
       ∃ (u : State) (f : Flags), exec (p.1 o) s = .next (u.retire 8) ∧
         u = ({ t with tiles := u.tiles }.onHart fun h => { h with fcsr := raise h.fcsr f, vstart := 0 }) ∧
         (fw.df = fw.bf → ∀ i, i < 64 → slot p.2 u i =
           if s.h.start ≤ i ∧ i < s.h.length ∧ on i then (s.vread s.h o.v.toNat 32 s.h.sliced i 0).val else slot p.2 s i) ∧
         (∀ stop n i j, n < 8 → i < 64 → j < 64 →
           ¬ (stop = s.h.stop ∧ n = o.tile.toNat ∧ (if p.2 then j = r else i = r)) → u.tileRead stop n i j = s.tileRead stop n i j)) ∧
     (∀ m : McvtOps, let fw := formatWord (s.h.formatReg m.n)
       Gives (mcvtReady m) s cx t → roomy m.a →
       ∃ regs f, exec (.mcvt m) s = .next (t.afterLoop regs f (s.nextSstep m.n) s.h.hstat 8) ∧
         ∀ loc, ¬ s.h.inWindows ((s.h.groupRegs m.a.toNat).map s.h.vwin) k loc →
           ¬ s.h.inWindows (if (fmtOf fw.df).isMx then (s.h.svuse fw.sv).windows else []) 0 loc → regs.read loc = s.regs.read loc))

/-- 13 R243 to R246: an outer product that its dispatch accepts accumulates, in every tile element whose row is at or
above VSTART and below MROWS, whose column is below MCOLS and whose mask bits are 1, the product of the row's and the
column's source elements, scaled for OPXSC; every other tile element of the device, register memory and memory stay as
they were. The exact accumulation of an INT32 tile wraps, and under SAT is clamped (10 R203). -/
def Obligations.OuterProductResults : Prop :=
  (∀ (fw : FormatWord) (subtract : Bool) (old : BitVec 32) (a b : Int), fw.df = 13 →
    let exact : Int := old.toInt + (if subtract then -(a * b) else a * b)
    (accumulate fw subtract old.toNat (.ofInt a) (.ofInt b) none) =
      ⟨(BitVec.ofInt 32 (if fw.sat then max (-2 ^ 31) (min (2 ^ 31 - 1) exact) else exact)).toNat, 0⟩) ∧
  ∀ p ∈ ([(.opadd, false, false), (.opsub, false, true), (.opxsc, true, false)] : List ((OpOps → Instr) × Bool × Bool)),
    ∀ (o : OpOps) (s : State) (plan : OuterPlan) (t : State), s.Calm → s.extentsOk = true → s.canonical = true →
      Gives (outerReady p.2.1 o) s plan t →
      let fw := formatWord (s.h.formatReg o.n)
      let mx := s.matrix s.h.stop
      let value (code : Nat) (v : BitVec 5) (i : Nat) : Machine.Num :=
        (if p.2.1 ∧ code = 11 then Fmt.mxint8 else fmtOf code).value
          (s.vread s.h v.toNat (fmtOf code).width s.h.sliced i 0).val
      let scale (v : BitVec 5) (i : Nat) : Machine.Num := scaleValue (s.vread s.h v.toNat 8 s.h.sliced i 0).val
      let on (m i : Nat) : Prop := o.vm = true ∨ (s.mread s.h m i).val = 1
      ∃ (u : State) (f : Flags), exec (p.1 o) s = .next (u.retire 8) ∧
        u = ({ t with tiles := u.tiles }.onHart fun h => { h with fcsr := raise h.fcsr f, vstart := 0 }) ∧
        ∀ stop n i j, n < 8 → i < 64 → j < 64 → u.tileRead stop n i j =
          if stop = s.h.stop ∧ n = o.tile.toNat ∧ s.h.start ≤ i ∧ i < mx.mrows.toNat ∧ j < mx.mcols.toNat ∧ on 0 i ∧ on 1 j then
            (accumulate fw p.2.2 (s.tileRead stop n i j) (value fw.af o.b i) (value fw.bf o.c j)
              (if p.2.1 then some (scale o.pc i, scale o.pb j) else none)).bits
          else s.tileRead stop n i j

/-- 13 R250 to R253, 05 R84 to R86, 02 R23: a tile transfer waits for room, takes a Pillar entry over the bytes it touches, and waits
for the older entries that it conflicts with before it performs a row; it keeps its entry while it goes on (it may stop after any row, log 24),
and until TILE_TRANSFER_COMPLETE frees it; one whose rows all succeed completes; a load changes no memory, a store no tile, neither
register memory. 13 R250 to R252: MLD and MST between memory and a tile of the same format, where each address is in the
core-local window or in storage reached from firmware level: element (i, j) and the 4 bytes at base + i·pitch + 4j
become equal. -/
def Obligations.TileTransfers : Prop :=
  ((∀ p ∈ ([(.mld, true, false), (.mldt, true, true), (.mst, false, false), (.mstt, false, true)]
       : List ((TileOps → Instr) × Bool × Bool)), ∀ (o : TileOps) (s : State) (plan : TilePlan),
     Gives (transferReady p.2.1 p.2.2 o) s plan s →
     let n := plan.rows - s.h.start
     let performs (n : Nat) (t u : State) : Prop :=
       Performs (fun i => do setStart i; transferRow p.2.1 p.2.2 o plan i) s.h.start n t u
     let completes (t : State) (entries : List Pillar) : Prop :=
       (∀ u, s.part = none → performs n t u →
         exec (p.1 o) s = .next (({ u with pillars := entries }.onHart fun h => { h with vstart := 0 }).retire 8) ∧
         u.regs = s.regs ∧ u.h.s = s.h.s ∧ (p.2.1 = true → u.mem = s.mem) ∧ (p.2.1 = false → u.tiles = s.tiles)) ∧
       (∀ k u, s.part = some k → k + 1 < n → performs (k + 1) t u →
         exec (p.1 o) s = .next (u.onHart fun h => { h with vstart := BitVec.ofNat 64 (s.h.start + (k + 1)) }) ∧
         u.pillars = t.pillars)
     ((∀ id, s.h.doing ≠ some (.entry id)) → plan.hull = none → completes s s.pillars) ∧
     (∀ lo hi, plan.hull = some (lo, hi) → (∀ id, s.h.doing ≠ some (.entry id)) →
       let entry (running : Bool) : Pillar :=
         { id := s.nextId, stop := s.h.stop, owner := s.h.key, write := !p.2.1, space := .virt, lo := lo, hi := hi
           running := running }
       (64 ≤ s.pillarsOf s.h.stop → ∃ t : State, exec (p.1 o) s = .next t ∧ t.h.blocked = true ∧ t.h.pc = s.h.pc ∧
         t.h.pillarAt ≠ none ∧ t.pillars = s.pillars ∧ t.mem = s.mem ∧ t.tiles = s.tiles) ∧
       (s.pillarsOf s.h.stop ≤ 63 → (∀ h ∈ s.others, h.stop = s.h.stop → h.pillarAt = none) →
         (∀ q ∈ s.pillars, q.id ≠ s.nextId) →
         let entered := ({ s with pillars := s.pillars ++ [entry true], nextId := s.nextId + 1 } : State).onHart fun h =>
           ({ h with pillarAt := none } : Hart).begin (.entry s.nextId)
         (s.conflict s.h.key (!p.2.1) .virt lo hi = true →
           exec (p.1 o) s = .next (entered.onHart fun h => { h with blocked := true })) ∧
         (s.conflict s.h.key (!p.2.1) .virt lo hi = false → completes entered (s.pillars ++ [entry false])))) ∧
     (∀ id, s.h.doing = some (.entry id) →
       let held : Prop := ∃ lo hi, plan.hull = some (lo, hi) ∧
         s.meets (s.olderPillars id) s.h.space s.h.key (!p.2.1) .virt lo hi = true
       (held → exec (p.1 o) s = .next (s.onHart fun h => { h with blocked := true })) ∧
       (¬ held → completes s (s.pillars.map fun q => if q.id = id then { q with running := false } else q)))) ∧
   (∀ id s, exec (.tileTransferComplete id) s = .next { s with pillars := s.pillars.filter fun p => p.id != id })) ∧
  (∀ (o : TileOps) (s : State) (plan : TilePlan) (t : State) (loc : Nat → Nat → Nat),
     s.extentsOk = true → s.canonical = true → s.h.strip = [] → s.poison = [] → s.regPoison = [] → s.pillars = [] → s.part = none →
     (∀ h ∈ s.others, h.stop = s.h.stop → h.pillarAt = none) →
     let fw := formatWord (s.h.formatReg o.n)
     let mx := s.matrix s.h.stop
     let rows := mx.mrows.toNat
     let cols := mx.mcols.toNat
     let pitch : Word := if o.strided then s.h.get o.c else 256
     let adr (i j : Nat) : Word := s.h.get o.b + BitVec.ofNat 64 i * pitch + BitVec.ofNat 64 (4 * j)
     let on (i j : Nat) : Prop := s.h.start ≤ i ∧ i < rows ∧ j < cols ∧
       (o.vm = true ∨ ((s.mread s.h 0 i).val = 1 ∧ (s.mread s.h 1 j).val = 1))
     let reached (acc : Access) : Prop := ∀ i j, on i j →
       (adr i j).toNat % 4 = 0 ∧ (s.h.level = .firmware ∨ localBase ≤ (adr i j).toNat) ∧
         s.locate s.h.space (adr i j) acc = (.ok (loc i j), s) ∧ regionOf (loc i j) ≠ .control ∧ regionOf (loc i j) ≠ .link
     fw.df = fw.af →
     (Gives (transferReady true false o) s plan t → reached .load → ∃ u : State, exec (.mld o) s = .next u ∧
       (∀ i j, on i j → u.tileRead s.h.stop o.tile.toNat i j = s.mem.readNat (loc i j) 4) ∧
       (∀ stop n i j, n < 8 → i < 64 → j < 64 → ¬ (stop = s.h.stop ∧ n = o.tile.toNat ∧ on i j) →
         u.tileRead stop n i j = s.tileRead stop n i j) ∧ u.mem = s.mem ∧ u.h.vstart = 0) ∧
     (Gives (transferReady false false o) s plan t → reached .store →
       (∀ i j i' j', on i j → on i' j' → (i, j) ≠ (i', j') → loc i j + 4 ≤ loc i' j' ∨ loc i' j' + 4 ≤ loc i j) →
       ∃ u : State, exec (.mst o) s = .next u ∧
         (∀ i j, on i j → u.mem.readNat (loc i j) 4 = s.tileRead s.h.stop o.tile.toNat i j) ∧
         (∀ x, (∀ i j, on i j → x < loc i j ∨ loc i j + 4 ≤ x) → u.mem.read x = s.mem.read x) ∧
         u.tiles = s.tiles ∧ u.h.vstart = 0))

/-! ### Pushes, lane blocks and the TAN prefix -/

/-- 09 R195 to R198, 05 R84, R86, 02 R23: VPUSH with a legal descriptor and full sources, as many registers as the descriptor
counts, takes a Pillar entry on them, or waits while the table is full; with a destination hart whose registers are empty and
not reserved the push is accepted and it retires; while the destination is not so, it waits and holds its entry. Delivery moves
the bytes of the stream, sets full and pushed, and frees the entry. VFE empties its registers, or waits for a push accepted into them or one of its own that has
still to read them. 23 R352: a push that arrives over the links fills the registers of a hart that can accept it (that it is
accepted and delivered in one step is the model's choice, log 20); a destination window that reaches past the destination's
partition is written all the same, which is the model's choice too (log 71). -/
def Obligations.PushesBetweenHarts : Prop :=
  (∀ (b : SReg) (v : BitVec 5) (s : State) (node die core slot first count : Nat) (d : Hart),
    node < 256 → die < 4 → core < 40 → slot ≤ 8 → 1 ≤ count → count ≤ 8 → first + count ≤ 28 →
    (s.h.get b).toNat = node * 2 ^ 32 + die * 2 ^ 30 + core * 2 ^ 24 + slot * 2 ^ 16 + first * 2 ^ 8 + count →
    v.toNat + count ≤ 28 →
    (∀ k, k < count → (s.h.vwin (v.toNat + k)).base + (s.h.vwin (v.toNat + k)).len ≤ s.h.partLen ∧
      s.h.full.getLsbD (v.toNat + k) = true) →
    let ready : Prop := (∀ k, k < count → d.full.getLsbD (first + k) = false) ∧ s.reserved d.key first count = false
    let read (g : Hart) (pu : BitVec 28) : Prop :=
      (∀ k, pu.getLsbD k = (s.h.pushed.getLsbD k && !(decide (v.toNat ≤ k) && decide (k < v.toNat + count)))) ∧
      (g = s.h ∨ g = s.h.acquire)
    let accepted (t : State) (id : Nat) : Prop := ∃ g pu, read g pu ∧
      exec (.vpush b v) s = .next ((({ t with
        pushes := t.pushes ++ [⟨id, s.h.stop, s.h.key, s.h.lane0, s.h.lanes, spillRegs s.h v.toNat count, node,
          if node = 0 then some d.key else none, first, count⟩] } : State).onHart
          fun h => ({ h with rbuf := g.rbuf, strip := g.strip, pushed := pu } : Hart).settle).retire 4)
    let waits (t : State) (id : Nat) : Prop := ∃ g pu, read g pu ∧
      exec (.vpush b v) s = .next (t.onHart fun h =>
        { h with rbuf := g.rbuf, strip := g.strip, pushed := pu, blocked := true
                 pillarAt := if s.h.doing = some (.entry id) then h.pillarAt else none
                 begun := if s.h.doing = some (.entry id) then h.begun else (h.begin (.entry id)).begun })
    let outcomes (t : State) (id : Nat) : Prop :=
      (node = 0 → s.inSlot (die * 40 + core) slot = some d → ready → accepted t id) ∧
      (node = 0 → s.inSlot (die * 40 + core) slot = some d → ¬ ready → waits t id) ∧
      (node = 0 → s.inSlot (die * 40 + core) slot = none → waits t id) ∧
      (node ≠ 0 → s.reaches node = true →
        accepted { t with tick := t.tick + 1 } id ∨ waits { t with tick := t.tick + 1 } id)
    (∀ id, s.h.doing = some (.entry id) → outcomes s id) ∧
    ((∀ id, s.h.doing ≠ some (.entry id)) → (∀ h ∈ s.others, h.stop = s.h.stop → h.pillarAt = none) →
      (node ≠ 0 → s.reaches node = true) →
      (s.pillarsOf s.h.stop ≤ 63 → ∃ lo hi,
        outcomes { s with nextId := s.nextId + 1, pillars := s.pillars ++ [⟨s.nextId, s.h.stop, s.h.key, false, .regs, lo, hi, [], false⟩] }
          s.nextId ∧
        ∀ k, k < count → lo ≤ s.h.firstByte (s.h.vwin (v.toNat + k)) ∧
          s.h.firstByte (s.h.vwin (v.toNat + k)) + (s.h.vwin (v.toNat + k)).bytes ≤ hi) ∧
      (64 ≤ s.pillarsOf s.h.stop → ∃ t : State, exec (.vpush b v) s = .next t ∧ t.h.blocked = true ∧ t.h.pc = s.h.pc ∧
        t.h.pillarAt ≠ none ∧ t.pillars = s.pillars ∧ t.pushes = s.pushes ∧ t.regs = s.regs))) ∧
  (∀ (id : Nat) (s : State) (p : Push) (k : HKey) (d : Hart), s.canonical = true →
    s.pushes.find? (fun q => q.id == id) = some p → p.dest = some k → s.hartOf? k = some d →
    let n := min (streamBytes p.laneCount p.srcs) (streamBytes d.lanes (spillRegs d p.first p.count))
    let src (q : Nat) : Nat := let x := streamPlace p.lanes p.laneCount p.srcs q; regLoc p.stop x.1 x.2
    let dst (q : Nat) : Nat := let x := streamPlace d.lane0 d.lanes (spillRegs d p.first p.count) q; regLoc d.stop x.1 x.2
    (∀ q r, q < n → r < n → dst q = dst r → q = r) → (∀ q r, q < n → r < n → src q ≠ dst r) →
    (∀ x, s.outside ≠ some (.push x)) → ∃ u : State, exec (.vpushDelivery id) s = .next u ∧
      (∀ q, q < n → u.regs.read (dst q) = s.regs.read (src q)) ∧
      (∀ loc, (∀ q, q < n → loc ≠ dst q) → u.regs.read loc = s.regs.read loc) ∧
      (∃ e, u.hartOf? k = some e ∧ ∀ j, j < 28 →
        e.full.getLsbD j = (d.full.getLsbD j || (decide (p.first ≤ j) && decide (j < p.first + p.count))) ∧
        e.pushed.getLsbD j = (d.pushed.getLsbD j || (decide (p.first ≤ j) && decide (j < p.first + p.count)))) ∧
      u.pushes = s.pushes.filter (fun q => q.id != id) ∧ u.pillars = s.pillars.filter (fun q => q.id != id) ∧
      u.mem = s.mem) ∧
  (∀ (id : Nat) (s : State) (p : InPush) (d : Hart) (t : PushTarget), s.inboundDest p = some (d, t) → s.hartOf? d.key = some d →
    s.outside = some (.push p) → ∃ (u : State) (e : Hart), exec (.vpushDelivery id) s = .next u ∧ u.hartOf? d.key = some e ∧
      (∀ j, j < 28 → e.full.getLsbD j = (d.full.getLsbD j || (decide (t.first ≤ j) && decide (j < t.first + t.count))) ∧
        e.pushed.getLsbD j = (d.pushed.getLsbD j || (decide (t.first ≤ j) && decide (j < t.first + t.count)))) ∧
      u.mem = s.mem ∧ u.pushes = s.pushes ∧ u.pillars = s.pillars) ∧
  (∀ (v : BitVec 5) (n : BitVec 3) (s : State), v.toNat + n.toNat + 1 ≤ 28 →
    let awaited : Prop := s.reserved s.h.key v.toNat (n.toNat + 1) = true ∨ ∃ k, k < n.toNat + 1 ∧
      let w := s.h.vwin (v.toNat + k)
      s.conflict s.h.key true .regs (s.h.firstByte w) (s.h.firstByte w + w.bytes) = true
    (awaited → exec (.vfe v n) s = .next (s.onHart fun h => { h with blocked := true })) ∧
    (¬ awaited → ∃ f : BitVec 28,
      exec (.vfe v n) s = .next ((s.onHart fun h => { h with full := f }).retire 4) ∧
      ∀ j, j < 28 → f.getLsbD j = (s.h.full.getLsbD j && !(decide (v.toNat ≤ j) && decide (j ≤ v.toNat + n.toNat)))))

/-- 10 R219, R222: VFETCH in a block whose participating elements have all reached its LEND sets VSTART to 0 and passes
control to the parcel after LEND; otherwise a step performs the instruction at the lowest offset for the elements there
and moves them to their next offsets, with VSTART at the lowest element that has not finished (10 R223; a step may stop after
any element, log 24, and is then the rest of that step before another is formed); a VFETCH that enters its block does the same from
its dispatch. LEND outside a
block only retires. 03 R40, 11 R224: TAN and a body that accepts it execute together, and complete: what the body does with
its tangent count set by the prefix, which ends with it; TAN before FADD, FSUB or FMUL, with no enabled flag raised, writes the
primal and the tangents of 11 R228 and passes both words. Before any other body TAN takes cause 0. The bodies are those of
majors 9, 32 to 42, 44, 45 with fn2 0, and 48 to 52. -/
def Obligations.LaneBlocksAndTan : Prop :=
  ((∀ s, exec .lend s = .next (s.retire 4)) ∧
   ∀ (v : BitVec 5) (vm : Bool) (s t : State) (l : LaneBlock) (pc : Nat → Nat),
     (s.h.lane = none ∧ Gives (laneDispatch v vm) s l t) ∨ (s.h.lane = some l ∧ t = s) →
     (∀ i ∈ l.parts, t.vread t.h v.toNat 32 false i 0 = ⟨pc i, none⟩) →
     ((∀ i ∈ l.parts, l.stop ≤ pc i) →
       exec (.vfetch v vm) s = .next ((t.onHart fun h => { h with vstart := 0, lane := some l }).retire
         (BitVec.ofNat 64 (8 + 2 * l.stop)))) ∧
     ∀ first, (l.parts.filter fun i => pc i < l.stop).head? = some first →
       let begun := t.onHart fun h => { h with vstart := BitVec.ofNat 64 first, lane := some l }
       let after (o : Nat) (c : Code) (is : List Nat) (rs : List (Nat × Int)) (u : State) : State :=
         let rest := is.filter fun i => rs.all fun p => p.1 != i
         (rs.foldl (fun x p => x.vwrite x.h v.toNat 32 false p.1 0 (p.2 % 2 ^ 32).toNat) u).onHart fun h =>
           { h with
             lane := some ⟨l.parts, l.stop, if rest = [] then none else some ⟨o, c.len, c.bits, rest⟩⟩
             vstart := match laneStart l.stop (l.parts.map fun i => (i, pc i)) rs with
               | some i => BitVec.ofNat 64 i
               | none => h.vstart }
       (∀ o is c x rs u, l.step = none → (∃ i ∈ l.parts, pc i = o) → o < l.stop → (∀ i ∈ l.parts, o ≤ pc i) →
         is = l.parts.filter (fun i => pc i = o) → Gives (fetchCode (t.h.pc + 4 + BitVec.ofNat 64 (2 * o))) begun c x →
         Gives (laneStep v o c is) x (rs, none) u → exec (.vfetch v vm) s = .next (after o c is rs u)) ∧
       (∀ r rs u, l.step = some r → Gives (laneStep v r.offset ⟨r.len, r.bits⟩ r.left) begun (rs, none) u →
         exec (.vfetch v vm) s = .next (after r.offset ⟨r.len, r.bits⟩ r.left rs u))) ∧
  ((∀ (k : BitVec 2) (body : Instr) (s : State), (tanBody body).isSome = true →
     ∃ u, exec body { s with tanPrefix := some k.toNat } = .next u ∧ exec (.tan k body) s = .next { u with tanPrefix := none }) ∧
   (∀ p ∈ ([(.fadd, fun rdn x y => sumOf rdn [x, y], fun _ _ tx ty => [tterm tx one, tterm ty one]),
        (.fsub, fun rdn x y => sumOf rdn [x, y.negate], fun _ _ tx ty => [tterm tx one, tterm ty minusOne]),
        (.fmul, fun _ x y => mulOf x y, fun x y tx ty => [tterm tx y, tterm ty x])]
        : List ((FOps → Instr) × (Bool → Machine.Num → Machine.Num → Machine.Num × Flags) ×
            (Machine.Num → Machine.Num → Machine.Num → Machine.Num → List Machine.Num))),
      ∀ (k : BitVec 2) (o : FOps) (s : State), s.tanPrefix = none →
        let n := if k = 0 then s.h.tanCount else k.toNat
        let f := scalarFmt o.fmt
        let rm := scalarRm s.h o.rm
        let value (w : Word) : Machine.Num := f.value (w.toNat % 2 ^ f.bits)
        let x := value (s.h.get o.b)
        let y := value (s.h.get o.c)
        let rounded (v : Machine.Num) : Fitted := (Fmt.float f false).fitVal rm false 0 false (.num v)
        let r := p.2.1 (rm == .rdn) x y
        let flags := r.2 ||| (rounded r.1).flags
        let isNan := resultNan (.float f false) (.num r.1) (rounded r.1).bits
        let tangent (j : Nat) : Machine.Num := if isNan then .nan false else
          (sumOf (rm == .rdn) (p.2.2 x y (value (s.h.stanOf o.b j)) (value (s.h.stanOf o.c j)))).1
        enabled s.h.fcsr flags = 0 → exec (.tan k (p.1 o)) s = .next (s.onHart fun h =>
          ((({ h with fcsr := h.fcsr ||| (flags.zeroExtend 64 <<< 8) }).set o.a (BitVec.ofNat 64 (rounded r.1).bits)).setTans o.a
            ((List.range n).map fun j => BitVec.ofNat 64 (rounded (tangent (j + 1))).bits)).goTo (h.pc + 8))) ∧
   (∀ (k : BitVec 2) (body : Instr) (s : State), (tanBody body).isSome = false →
     exec (.tan k body) s = .next (s.takeTrap 0 (s.trapBits (encode (.tan k body))))) ∧
   (∀ body : Instr, let word := (encode body).bits.toNat
     let major := word / 2 ^ 9 % 64
     ((tanBody body).isSome = true ↔ (encode body).len = 2 ∧ (major = 9 ∨ (32 ≤ major ∧ major ≤ 42) ∨ major = 44 ∨
       (major = 45 ∧ word % 4 = 0) ∨ (48 ≤ major ∧ major ≤ 52)))) ∧
   (∀ (s : State) (k : Nat) (able : Bool), ({ s with tanPrefix := some k } : State).tanFor able = if k = 0 then s.h.tanCount else k))

/-! ### Launches, placement and pre-emption -/

/-- 01 R14, 07 R123, R124, R126, R127: a record outside its limits, or one that never fits, makes LAUNCH and LAUNCHI
write −1; so does a full table, but a launch of the real-time class waits; otherwise a free entry of the die's table
takes the record with its next generation, WAITING, or what LAUNCH_READY makes of it when no predecessor is outstanding,
and the id is written. The record is read once: a launch that waits goes on with what it read. LAUNCHI keeps the translation
of its count word. A launch is a release, which waits until the earlier pushes of the hart are delivered (05 R87). 07 R124, R127, R130: an entry whose last
predecessor completes becomes READY; one of LAUNCHI reads its count word: 0 makes it DRAINING with status 0, a count
above the crew size or that never fits DRAINING with status 3, any other the crew size. LWAIT writes the status once the
launch has completed, 2 when its id is no longer held, and waits until then. -/
def Obligations.Launches : Prop :=
  (let outcome (i : Instr) (a : SReg) (r : LaunchRec) (s t : State) (countPa : Option (Nat × Bool)) : Prop :=
       let wrong : Prop := r.entry.toNat % 2 = 1 ∨ r.done.toNat % 8 ≠ 0 ∨ r.crew = 0 ∨
         ¬ (r.shape = 1 ∨ r.shape = 2 ∨ r.shape = 4 ∨ r.shape = 8) ∨
         224 < r.regs ∨ 192 < r.banks ∨ 16 ≤ r.flags.toNat ∨ r.reserved ≠ 0 ∨ r.neverFits r.crew = true
       let realTime : Prop := r.flags.getLsbD 3 = true
       let die := t.h.die
       let used (n : Nat) : Prop := ∃ x ∈ t.launches, x.die = die ∧ x.idx = n ∧ x.st ≠ .free
       let full : Prop := 4096 ≤ (t.usedEntries die).length
       (wrong ∨ (full ∧ ¬ realTime) → exec i s = .next (t.writes a (BitVec.allOnes 64))) ∧
       (¬ wrong → full → realTime → exec i s = .next (t.onHart fun h => { h.begin (.launch r countPa) with blocked := true })) ∧
       (¬ wrong → ¬ full → ∃ idx gen tick u, idx < 4096 ∧ ¬ used idx ∧
         (match t.launches.find? fun x => x.die == die && x.idx == idx with
          | none => gen = 0
          | some x => gen = (x.gen + 1) % (2 ^ 18 - 1)) ∧
         let l : Launch :=
           { die := die, stop := t.h.stop, idx := idx, gen := gen, st := .waiting, record := r, countPa := countPa
             asid := t.h.asid, ptbase := t.h.ptbase, seq := t.nextId, crew := r.crew, placed := 0, gone := 0, lost := false, status := 0
             barsDone := 0, convoysDone := 0 }
         let t' : State := { t with
           tick := tick, nextId := t.nextId + 1
           launches := t.launches.filter (fun x => !(x.die == die && x.idx == idx)) ++ [l] }
         exec (.launchReady l.lid) t' = .next u ∧ l.lid = BitVec.ofNat 32 (die * 2 ^ 30 + gen * 2 ^ 12 + idx) ∧
         exec i s = .next ((if ∀ p ∈ r.preds, t'.completed p = true then u else t').writes a (l.lid.zeroExtend 64)))
   (∀ (a b : SReg) (s t : State) (w0 w1 w2 w3 w4 w5 w6 w7 : Word),
     let ea := s.h.get b
     let v := w7.toNat
     let r : LaunchRec := ⟨w0, w1, w2, w3, w4,
       [w5.extractLsb' 0 32, w5.extractLsb' 32 32, w6.extractLsb' 0 32, w6.extractLsb' 32 32], v % 2 ^ 16, v / 2 ^ 16 % 256,
       v / 2 ^ 24 % 256, v / 2 ^ 32 % 256, v / 2 ^ 40 % 256, w7.extractLsb' 48 8, v / 2 ^ 56⟩
     s.pushing s.h.key = false → (∀ r' c, s.h.doing ≠ some (.launch r' c)) →
     ea.toNat % 64 = 0 → Gives (recordWords ea 8) (s.onHart Hart.settle) [w0, w1, w2, w3, w4, w5, w6, w7] t →
     outcome (.launch a b) a r s t none ∧
     (∀ loc u, w4.toNat % 4 = 0 → Gives (locate w4 .load) t loc u → regionOf loc ≠ .control →
       outcome (.launchi a b) a r s u (some (loc, u.isGlobal w4.toNat loc))) ∧
     (w4.toNat % 4 ≠ 0 → exec (.launchi a b) s = .next (t.takeTrap 2 w4))) ∧
   (∀ (a b : SReg) (s : State) (r : LaunchRec) (c : Option (Nat × Bool)), s.h.doing = some (.launch r c) →
     s.pushing s.h.key = false → let t := s.onHart Hart.settle
     outcome (.launch a b) a r s t c ∧ outcome (.launchi a b) a r s t c) ∧
   (∀ (a b : SReg) (s : State), s.pushing s.h.key = true → let t := s.onHart fun h => { h with blocked := true }
     exec (.launch a b) s = .next t ∧ exec (.launchi a b) s = .next t)) ∧
  ((∀ (lid : BitVec 32) (s : State) (l : Launch), s.launchOf lid = some l →
     (l.countPa = none → exec (.launchReady lid) s = .next (s.onLaunch lid fun l => { l with st := .ready })) ∧
     (∀ pa everywhere, l.countPa = some (pa, everywhere) → regionOf pa ≠ .link →
       let n := s.mem.readNat pa 4
       exec (.launchReady lid) s = .next (s.onLaunch lid fun l =>
         if n = 0 then { l with st := .draining, crew := 0, status := 0 }
         else if l.record.crew < n ∨ l.record.neverFits n = true then { l with st := .draining, crew := 0, status := 3 }
         else { l with st := .ready, crew := n }))) ∧
   (∀ (a b : SReg) (s : State), let v := (s.h.get b).toNat
     let t := s.onHart Hart.endStrip
     (2 ^ 32 ≤ v → exec (.lwait a b) s = .next (s.takeTrap 0 (s.trapBits (encode (.lwait a b))))) ∧
     (v < 2 ^ 32 → ∀ l, s.launchOf (BitVec.ofNat 32 v) = some l →
       (l.st = .free → exec (.lwait a b) s = .next (t.writes a (BitVec.ofNat 64 l.status))) ∧
       (l.st ≠ .free → exec (.lwait a b) s = .next (t.onHart fun h => { h with blocked := true }))) ∧
     (v < 2 ^ 32 → s.launchOf (BitVec.ofNat 32 v) = none →
       (∃ l ∈ s.launches, l.die = v / 2 ^ 30 ∧ l.idx = v % 4096) ∨ v / 4096 % 2 ^ 18 ≠ 0 →
       exec (.lwait a b) s = .next (t.writes a 2))))

/-- 01 R9, 07 R122, R131, R137, 09 R169, R170: PLACEMENT binds the next member of a launch to the first core of the die
with room: the lowest free clusters and banks (every lower aligned set of clusters, and every lower run of banks, is held)
and a free slot, its partition and banks zeroed, its registers as at entry. A gang is placed whole or not at all. -/
def Obligations.PlacementBindsMember : Prop :=
  (∀ (lid : BitVec 32) (s : State) (l : Launch) (stop k bank : Nat), s.launchOf lid = some l → l.record.isGang = false →
    s.canonical = true → s.findRoom l.die l.record = some (stop, k, bank) →
    ∃ (slot tick : Nat) (u : State), exec (.placement lid) s = .next u ∧
      (∃ i, i < 40 ∧ stop = 40 * l.die + i ∧ ∀ j, j < i → s.roomOn (40 * l.die + j) l.record = none) ∧
      slot < 8 ∧ (∀ x ∈ s.residents stop, x.slot ≠ slot ∧ x.onClusters k l.record.shape = false ∧
        (l.record.banks ≠ 0 → x.onBanks bank l.record.banks = false)) ∧
      k % l.record.shape = 0 ∧ k + l.record.shape ≤ 8 ∧
      (∀ k', k' < k → k' % l.record.shape = 0 → ∃ x ∈ s.residents stop, x.onClusters k' l.record.shape = true) ∧
      (l.record.banks = 0 → bank = 0) ∧
      (l.record.banks ≠ 0 → bank + l.record.banks ≤ (if 176 < l.record.banks then 192 else 176) ∧
        ∀ b', b' < bank → ∃ x ∈ s.residents stop, x.onBanks b' l.record.banks = true) ∧
      let r := l.record
      let seat : Seat := ⟨stop, slot, k, 0, 32 * r.regs, bank, r.banks⟩
      u = ({ (s.clearSeat seat r.shape) with tick := tick, others := s.others ++ [
        { live := true, key := ⟨l.lid, BitVec.ofNat 16 l.placed⟩, stop := stop, slot := slot, prio := r.prio, gang := false
          s := ((Vector.replicate 32 0).set 4 r.args).set 5 (BitVec.ofNat 64 l.placed)
          pc := r.entry, asid := l.asid, ptbase := l.ptbase
          vpart := BitVec.ofNat 64 (32 * r.regs * 2 ^ 16 + k * 2 ^ 32 + r.shape.log2 * 2 ^ 40 + bank * 2 ^ 48 + r.banks * 2 ^ 56)
          hctl := (if r.flags.getLsbD 1 then 1 else 0) ||| (if r.flags.getLsbD 2 then 2 else 0) }] } : State).onLaunch lid (fun l =>
        { l with placed := l.placed + 1, st := if l.placed + 1 = l.crew then .running else l.st }) ∧
      (∀ lane off, lane < 64 → off < 16384 → u.regs.read (regLoc stop lane off) =
        if 8 * k ≤ lane ∧ lane < 8 * (k + r.shape) ∧ off < 64 * r.regs then 0 else s.regs.read (regLoc stop lane off)) ∧
      (∀ other lane off, other ≠ stop → lane < 64 → off < 16384 →
        u.regs.read (regLoc other lane off) = s.regs.read (regLoc other lane off)) ∧
      (∀ off, off < 0x300000 → u.mem.read (scratchLoc stop + off) =
        if bank ≤ off / 8 % 192 ∧ off / 8 % 192 < bank + r.banks then 0 else s.mem.read (scratchLoc stop + off)) ∧
      (∀ loc, loc < scratchLoc stop ∨ scratchLoc stop + 0x300000 ≤ loc → u.mem.read loc = s.mem.read loc)) ∧
  (∀ (lid : BitVec 32) (s : State) (l : Launch), s.launchOf lid = some l → l.record.isGang = true → l.placed ≤ l.crew →
    ∃ u : State, exec (.placement lid) s = .next u ∧
      (u = s ∨ (∃ l' : Launch, u.launchOf lid = some l' ∧ l'.placed = l'.crew)))

/-- 07 R138 to R142: PRE_EMPTION freezes the victims on the chosen clusters and starts the new hart in the reserved
partition; the candidate is the best of those R138 admits; SLOT_EVICTION tells the pre-empting hart to surrender its
slot, and YIELD in its handler does so, elsewhere it only advances (the handler of a re-placed hart counts as elsewhere: the
model's choice, log 66); the saved hart comes back on its clusters at
supervisor level with cause 19; a victim runs again when no pre-empting hart holds its clusters. A launch takes the slot that was
surrendered to it first. Two points are the model's choice: that a freeze drops a lane block, which is dispatched anew (log 35),
and that the reserved partition of a saved hart reads as 0 when it is re-placed, VPART as before (log 32; R140 gives neither). -/
def Obligations.PreemptionRules : Prop :=
  (∀ (s : State) (l : Launch) (held : Bool) (c : Candidate), s.bestCandidate l held = some c →
    (∃ i, i < 40 ∧ c.stop = 40 * l.die + i) ∧ s.candidate l held c.stop c.cluster = some c ∧
    (∀ x ∈ s.holders c.stop c.cluster l.record.shape, x.prio < l.record.prio ∧ x.prio ≤ c.top) ∧
    ∀ i k d, i < 40 → k < 8 / l.record.shape → s.candidate l held (40 * l.die + i) (k * l.record.shape) = some d →
      c.top < d.top ∨ (c.top = d.top ∧ (c.count < d.count ∨ (c.count = d.count ∧ c.stop ≤ d.stop)))) ∧
  (∀ (lid : BitVec 32) (s : State) (l : Launch) (c : Candidate), s.launchOf lid = some l → l.record.isGang = false →
    s.mayPreempt l = true → s.askedCandidate l = some c ∨
      (s.askedCandidate l = none ∧ s.findRoom l.die l.record = none ∧ s.bestCandidate l false = some c) →
    ∃ u : State, exec (.preEmption lid) s = .next u ∧
      u.harts = (s.harts.map fun x =>
        if x.stop = c.stop ∧ x.slot = 8 ∧ x.saved = true then { x with asked := none }
        else if x.stop = c.stop ∧ x.slot ≠ 8 ∧ x.onClusters c.cluster l.record.shape = true then x.freeze (s.die l.die).svec
        else x) ++ [l.member ⟨c.stop, 8, c.cluster, 7168, 1024, 176, 16⟩]) ∧
  (∀ (s : State) (l : Launch) (c : Candidate), s.askedCandidate l = some c →
    s.candidate l false c.stop c.cluster = some c ∧ ∃ h ∈ s.residents c.stop, h.saved = true ∧ h.asked = some l.lid) ∧
  (∀ (h : Hart) (v : Word), h.haltReq = false → h.gangLost = [] →
    h.freeze v = { h.dropQueued with frozen := true, lane := none, pillarAt := none }) ∧
  (∀ (stop : Nat) (lid : BitVec 32) (s : State), ∃ u : State, exec (.slotEviction stop lid) s = .next u ∧
    u.harts = s.harts.map fun x =>
      if x.stop = stop ∧ x.slot = 8 ∧ x.saved = false then { x with evict := some (lid.zeroExtend 64) } else x) ∧
  (∀ s : State, exec .yield s = .next (if s.h.asked.isSome = true ∧ s.h.level ≠ .user then
    (s.retire 4).onHart fun h => { h with saved := true }
    else s.retire 4)) ∧
  (∀ (k : HKey) (s : State) (h : Hart), s.hartOf? k = some h → ∃ (u : State) (e : Hart),
    exec (.savedHartReplacement k) s = .next u ∧ u.hartOf? k = some e ∧ e.saved = false ∧ e.level = .supervisor ∧
    e.pc = (s.die h.die).svec ∧ e.trapcause.toNat % 512 = 19 ∧ e.trapval.getLsbD 63 = true ∧ e.stop = h.stop ∧
    e.vpart = h.vpart ∧ ∀ lane off, 8 * h.cluster0 ≤ lane → lane < 8 * (h.cluster0 + h.clusters) → lane < 64 →
      14336 ≤ off → off < 16384 → u.regs.read (regLoc h.stop lane off) = 0) ∧
  (∀ (stop : Nat) (s : State), ∃ u : State, exec (.victimResume stop) s = .next u ∧
    u.harts = s.harts.map fun x =>
      if x.stop = stop ∧ x.frozen = true ∧ ∀ p ∈ s.residents stop, p.slot = 8 → p.onClusters x.cluster0 x.clusters = false
      then { x with frozen := false } else x)

/-! ### Retirement, barriers, convoys -/

/-- 07 R124, R129, R132: RETIRE closes the strip and waits; once the hart's transfers have ended and every push from or
into it is delivered it is gone, with its matrix state, its binding and its farms, and counts at its launch; until then
nothing changes. When the last convoy's contributions are applied the completion word is written and the entry is FREE
with its status, and no inbox slot is closed to it any more; that the word is translated at supervisor level, without the check of U,
is the model's reading (log 37).
07 R135, R136, R144, R145: a member's BAR sends its arrival round the ring and waits, and goes on with an acquire once that
many have been released and every arrival of that barrier has passed its stop; as a release it first waits until the hart's earlier
pushes are delivered (05 R87); in a deterministic launch its CONVOY arrives,
waits and goes on alike; a release counts one more; the convoy's release first applies its contributions in the order of key,
member and issue. That BAR and CONVOY of a hart without a launch retire at once is the model's reading (log 36). -/
def Obligations.RetirementAndBarriers : Prop :=
  ((∀ s : State, exec .retire s = .next ((s.onHart Hart.endStrip).onHart fun h => { h with retiring := true, blocked := true })) ∧
   (∀ (k : HKey) (s : State) (h : Hart), s.hartOf? k = some h →
     (h.retiring = false ∨ s.drained k = false → exec (.hartRetirement k) s = .next s) ∧
     (h.retiring = true → s.drained k = true → ∃ u : State, exec (.hartRetirement k) s = .next u ∧
       u.harts.map (·.key) = (s.harts.map (·.key)).filter (fun x => x != k) ∧
       (∀ f ∈ u.farms, f.owner ≠ k) ∧ (∀ g ∈ u.targets, g.owner ≠ k) ∧ (∀ x ∈ u.streams, x.owner ≠ k) ∧
       (∀ x ∈ u.routeTiles, x.owner ≠ k) ∧ (u.matrix h.stop).holder ≠ some k ∧
       ∀ l, s.launchOf k.lid = some l → u.launchOf k.lid = some { l with
         gone := l.gone + 1
         st := if l.gone + 1 = l.crew ∧ l.st = .running then .draining else l.st })) ∧
   (∀ (lid : BitVec 32) (s : State) (l : Launch), s.launchOf lid = some l → (∀ c ∈ s.contribs, c.lid ≠ lid) →
     let free (t : State) : State := { (t.onLaunch lid fun l => { l with st := .free, status := if l.lost then 1 else l.status }) with
       targets := t.targets.map (·.forgive lid) }
     let sp : Space := ⟨.supervisor, l.asid, l.ptbase, l.stop, 0, false⟩
     (l.record.done = 0 → exec (.launchCompletion lid) s = .next (free s)) ∧
     (∀ loc t, l.record.done ≠ 0 → s.locate sp l.record.done .store = (.ok loc, t) →
       regionOf loc ≠ .control → regionOf loc ≠ .link → ∃ u : State, exec (.launchCompletion lid) s = .next u ∧
         u.mem = t.mem.writeNat loc 8 l.record.value.toNat ∧ u.launches = (free t).launches) ∧
     (∀ f t, l.record.done ≠ 0 → s.locate sp l.record.done .store = (.error f, t) →
       exec (.launchCompletion lid) s = .next (free t)))) ∧
  ((∀ s : State, let t := s.onHart Hart.endStrip
     (s.launchOf s.h.key.lid = none → exec .bar s = .next (t.retire 4) ∧ exec .convoy s = .next (t.retire 4)) ∧
     (∀ l, s.launchOf s.h.key.lid = some l →
       let lid := s.h.key.lid
       let n := s.h.bar + 1
       let c := s.h.convoy + 1
       let waits : Prop := s.pushing s.h.key = true
       ((∀ m, s.h.doing ≠ some (.bar m)) →
         (waits → exec .bar s = .next (t.onHart fun h => { h with blocked := true })) ∧
         (¬ waits → exec .bar s =
           .next (({ t with ring := t.ring ++ [⟨.arrival lid n, s.h.stop, 160⟩] } : State).onHart fun h =>
             { ({ h.settle with bar := n } : Hart).begin (.bar n) with blocked := true }))) ∧
       (∀ m, s.h.doing = some (.bar m) →
         let past : Prop := m ≤ l.barsDone ∧ ∀ x ∈ s.ring, x.kind = .arrival lid m → x.passed s.h.stop = true
         (past → exec .bar s = .next ((t.onHart fun h => { h with rbuf := [] }).retire 4)) ∧
         (¬ past → exec .bar s = .next (t.onHart fun h => { h with blocked := true }))) ∧
       (l.record.flags.getLsbD 1 = false → exec .convoy s = .next (t.retire 4)) ∧
       (l.record.flags.getLsbD 1 = true →
         ((∀ m, s.h.doing ≠ some (.convoy m)) →
           (waits → exec .convoy s = .next (t.onHart fun h => { h with blocked := true })) ∧
           (¬ waits → exec .convoy s =
             .next (t.onHart fun h => { ({ h.settle with convoy := c } : Hart).begin (.convoy c) with blocked := true }))) ∧
         (∀ m, s.h.doing = some (.convoy m) →
           (m ≤ l.convoysDone → exec .convoy s = .next ((t.onHart fun h => { h with rbuf := [] }).retire 4)) ∧
           (l.convoysDone < m → exec .convoy s = .next (t.onHart fun h => { h with blocked := true })))))) ∧
   (∀ lid s, exec (.barrierRelease lid) s = .next (s.onLaunch lid fun l => { l with barsDone := l.barsDone + 1 })) ∧
   (∀ lid s, ∃ cs : List Contribution, cs.Perm (s.contribs.filter fun c => c.lid == lid) ∧
     cs.Pairwise (fun x y => x.key < y.key ∨ (x.key = y.key ∧ (x.member < y.member ∨ (x.member = y.member ∧ x.seq ≤ y.seq)))) ∧
     exec (.convoyRelease lid) s = .next (({ (cs.foldl State.contribute s) with
       contribs := s.contribs.filter fun c => c.lid != lid } : State).onLaunch lid fun l => { l with convoysDone := l.convoysDone + 1 })) ∧
   (∀ (s : State) (c : Contribution), s.canonical = true → c.bytes ≤ 8 → (s.contribute c).mem.readNat c.pa c.bytes =
     redApply c.op (8 * c.bytes) (s.mem.readNat c.pa c.bytes) c.value % 2 ^ (8 * c.bytes)))

/-! ### Farms -/

/-- 07 R132, R133: FARM takes a free entry of its core's table and fills the state bytes of its record; FSTRIP gives −1
for a record whose state bytes are zero, the next strip index at its home while strips remain and −1 after the last, and
from another core, or behind its own core's earlier messages, it sends a request round the ring, whose answer the home gives;
of two requests of a hart the one that heads its link passes the next stop. A farm that ends zeroes its state bytes, wakes its
waiters, and is named by no message any more.
07 R134, R135: POST, a release, of an iteration in the posting window sends a message round the ring, above it takes cause 19, otherwise
it has no effect; a message at its home records the iteration, and the window moves past every recorded one at its foot; WAITI
registers once and goes on with an acquire once its iteration counts as recorded or its farm is over, and waits until then.
The model's own: a POST or WAITI whose state word names no farm only goes on (log 33), POST judges the window when it issues,
as the posts before it on the ring will leave it (log 48), a record that is not aligned to 32 is read where it lies
(log 67), state bytes whose first doubleword is zero count as zero whatever the second holds (log 83), and a farm's end writes its
state bytes where supervisor code would find them, translated as they are written (log 37). -/
def Obligations.FarmLoops : Prop :=
  ((∀ (b : SReg) (s t u : State) (trip len i : Nat), let ea := s.h.get b
     ea.toNat % 32 = 0 → trip < 2 ^ 64 → 0 < len → len < 2 ^ 32 →
     (∃ w1 : Word, w1.toNat % 2 ^ 32 = len ∧ Gives (recordWords ea 4) s [BitVec.ofNat 64 trip, w1, 0, 0] t) →
     (t.usedFarms t.h.stop).length < 64 → t.choose (64 - (t.usedFarms t.h.stop).length) = (i, u) →
     let entry := nthFree (t.usedFarms t.h.stop) i
     entry < 64 ∧ (∀ f ∈ t.farms, f.stop = t.h.stop → f.entry ≠ entry) ∧
     (∀ c x w, u.locate u.h.space (ea + 16) .store = (.error (c, x), w) ∨
         (∃ loc v, u.locate u.h.space (ea + 16) .store = (.ok loc, v) ∧ v.locate v.h.space (ea + 24) .store = (.error (c, x), w)) →
       exec (.farm b) s = .next (w.takeTrap (if c = 4 then 3 else c) x)) ∧
     (∀ loc v loc2 w, u.locate u.h.space (ea + 16) .store = (.ok loc, v) → v.locate v.h.space (ea + 24) .store = (.ok loc2, w) →
       let waits : Prop := w.conflict w.h.key true .virt (ea.toNat + 16) (ea.toNat + 32) = true
       (waits → exec (.farm b) s = .next (w.onHart fun h => { h with blocked := true })) ∧
       (¬ waits → regionOf loc ≠ .link → regionOf loc2 ≠ .link → w.h.scalarStrip → ∃ x : State,
         exec (.farm b) s = .next (x.retire 4) ∧ x.farms = w.farms ++ [
           { stop := t.h.stop, entry := entry, owner := t.h.key, recVa := ea.toNat, asid := t.h.asid, ptbase := t.h.ptbase
             counter := 0, trip := trip, len := len, front := 0, window := 0 }] ∧
         x.mem = (w.mem.writeNat loc 8 (0x8000000000000000 + entry * 65536 + t.h.stop)).writeNat loc2 8 0 ∧
         x.regs = s.regs ∧ x.h.s = s.h.s ∧ x.ring = s.ring ∧ x.launches = s.launches))) ∧
   (∀ (s t : State) (f : Farm) (loc : Nat), f.entry < 64 →
     s.locate ⟨.supervisor, f.asid, f.ptbase, f.stop, 0, false⟩ (BitVec.ofNat 64 (f.recVa + 16)) .store = (.ok loc, t) →
     regionOf loc ≠ .control → regionOf loc ≠ .link → let u := s.endFarm f
     u.mem = s.mem.writeBytes loc (List.replicate 16 0) ∧ u.farm? f.stop f.entry = none ∧
     (∀ m ∈ u.ring, m.postsTo f.stop f.entry = false ∧ ∀ k id, m.kind ≠ .strip k id f.stop f.entry) ∧
     ∀ h ∈ u.harts, ∀ x, h.waitReg = some x → x.home = f.stop → x.entry = f.entry → x.woken = true) ∧
   (∀ (a b : SReg) (s t : State) (word : Word), (∀ id v, s.h.doing ≠ some (.strip id v)) →
     Gives (farmWord (s.h.get b + 16)) s word t →
     let w := word.toNat
     let home := w % 65536
     let entry := w / 65536 % 64
     let queued : Prop := ∃ m ∈ t.ring, m.next = t.h.stop ∧ m.left = 160
     (w = 0 → exec (.fstrip a b) s = .next (t.writes a (BitVec.allOnes 64))) ∧
     (w ≠ 0 → home < 160 → home ≠ t.h.stop ∨ queued → exec (.fstrip a b) s =
       .next (({ t with nextId := t.nextId + 1, ring := t.ring ++ [⟨.strip t.h.key t.nextId home entry, t.h.stop, 160⟩] } : State).onHart
         fun h => { h.begin (.strip t.nextId none) with blocked := true })) ∧
     (w ≠ 0 → home < 160 → home = t.h.stop → ¬ queued →
       (t.farm? home entry = none → exec (.fstrip a b) s = .next (t.writes a (BitVec.allOnes 64))) ∧
       (∀ f, t.farm? home entry = some f → 0 < f.len →
         (f.counter * f.len < f.trip → exec (.fstrip a b) s = .next ((t.onFarm home entry fun f =>
           { f with counter := f.counter + 1 }).writes a (BitVec.ofNat 64 f.counter))) ∧
         (f.trip ≤ f.counter * f.len → exec (.fstrip a b) s = .next (t.writes a (BitVec.allOnes 64)))))) ∧
   (∀ (a b : SReg) (s : State) (id : Nat),
     (∀ v, s.h.doing = some (.strip id (some v)) → exec (.fstrip a b) s = .next (s.writes a v)) ∧
     (s.h.doing = some (.strip id none) → exec (.fstrip a b) s = .next (s.onHart fun h => { h with blocked := true }))) ∧
   (∀ (k : HKey) (s : State),
     let heads (i : Nat) : Prop := ∃ m id home entry, s.ring[i]? = some m ∧ m.kind = .strip k id home entry ∧
       ∀ j x, j < i → s.ring[j]? = some x → (x.next, x.left == 160) ≠ (m.next, m.left == 160)
     ((∃ i, heads i) → ∃ i, heads i ∧ exec (.stripRequest k) s = exec (.postMessage i) s) ∧
     ((∀ i, ¬ heads i) → exec (.stripRequest k) s = .next s)) ∧
   (∀ (i : Nat) (s : State) (m : RingMsg), s.ring[i]? = some m →
     let rest := s.ring.eraseIdx i
     let onward (kind : RingKind) : RingMsg := ⟨kind, (m.next + 1) % 160, m.left - 1⟩
     let answered (t : State) (k : HKey) (id : Nat) (v : Word) : State :=
       if m.left ≤ 1 ∨ (m.left = 160 ∧ m.kind ≠ .answer k id v) then
         ({ t with ring := rest } : State).onKey k fun h => { h with
           begun := h.begun.map fun b => if b.doing = .strip id none then { b with doing := .strip id (some v) } else b
           blocked := false }
       else { t with ring := rest ++ [onward (.answer k id v)] }
     (∀ k id home entry, m.kind = .strip k id home entry →
       (m.next ≠ home → exec (.postMessage i) s =
         .next { s with ring := rest ++ if m.left ≤ 1 then [] else [onward m.kind] }) ∧
       (m.next = home →
         (s.farm? home entry = none → exec (.postMessage i) s = .next (answered s k id (BitVec.allOnes 64))) ∧
         (∀ f, s.farm? home entry = some f → 0 < f.len →
           (f.counter * f.len < f.trip → exec (.postMessage i) s = .next (answered (s.onFarm home entry fun f =>
             { f with counter := f.counter + 1 }) k id (BitVec.ofNat 64 f.counter))) ∧
           (f.trip ≤ f.counter * f.len → exec (.postMessage i) s = .next (answered s k id (BitVec.allOnes 64)))))) ∧
     (∀ k id v, m.kind = .answer k id v → m.left ≠ 160 → exec (.postMessage i) s = .next (answered s k id v)) ∧
     (∀ lid n, m.kind = .arrival lid n → exec (.postMessage i) s =
       .next { s with ring := rest ++ if m.left ≤ 1 then [] else [onward m.kind] }))) ∧
  ((∀ (b c : SReg) (s t : State) (word : Word),
     let w := word.toNat
     let closed := s.onHart Hart.endStrip
     let k := s.h.get c
     let home := w % 65536
     let entry := w / 65536 % 64
     (s.pushing s.h.key = true → exec (.post b c) s = .next (closed.onHart fun h => { h with blocked := true })) ∧
     (s.pushing s.h.key = false → Gives (farmWord (s.h.get b + 16)) (closed.onHart Hart.settle) word t →
       (w = 0 ∨ t.farm? home entry = none → exec (.post b c) s = .next (t.retire 4)) ∧
       (∀ g, w ≠ 0 → t.farm? home entry = some g →
         let f := t.farmAhead home entry t.h.stop g
         (k.toNat < f.front ∨ f.trip ≤ k.toNat → exec (.post b c) s = .next (t.retire 4)) ∧
         (f.front + 64 ≤ k.toNat → k.toNat < f.trip → exec (.post b c) s = .next (t.takeTrap 19 k)) ∧
         (f.front ≤ k.toNat → k.toNat < f.front + 64 → k.toNat < f.trip → exec (.post b c) s =
           .next (({ t with ring := t.ring ++ [⟨.post home entry k.toNat, t.h.stop, 160⟩] } : State).retire 4)))) ∧
     (Gives (farmWord (s.h.get b + 16)) closed word t → t.h.waitReg = none →
       (w = 0 ∨ t.farm? home entry = none → exec (.waiti b c) s = .next ((t.onHart fun h => { h with rbuf := [] }).retire 4)) ∧
       (∀ g, w ≠ 0 → t.farm? home entry = some g → (∀ m ∈ t.ring, m.kind = .post home entry k.toNat → m.passed t.h.stop = false) →
         let past : Prop := k.toNat < g.front ∨ g.trip ≤ k.toNat ∨
           (k.toNat < g.front + 64 ∧ g.window.getLsbD (k.toNat - g.front) = true)
         (past → exec (.waiti b c) s = .next ((t.onHart fun h => { h with rbuf := [] }).retire 4)) ∧
         (¬ past → exec (.waiti b c) s =
           .next (t.onHart fun h => { h with waitReg := some ⟨home, entry, k.toNat, false⟩, blocked := true }))))) ∧
   (∀ (b c : SReg) (s : State) (r : WaitReg), s.h.waitReg = some r →
     let t := s.onHart Hart.endStrip
     let past : Prop := r.woken = true ∨ (∀ g, s.farm? r.home r.entry = some g → g.recorded r.k = true) ∨
       ∃ m ∈ s.ring, m.kind = .post r.home r.entry r.k ∧ m.passed s.h.stop = true
     (past → exec (.waiti b c) s = .next ((t.onHart fun h => { h with rbuf := [], waitReg := none }).retire 4)) ∧
     (¬ past → exec (.waiti b c) s = .next (t.onHart fun h => { h with blocked := true }))) ∧
   (∀ (i : Nat) (s : State) (m : RingMsg) (home entry k : Nat), s.ring[i]? = some m → m.kind = .post home entry k →
     ∃ u : State, exec (.postMessage i) s = .next u ∧
     u.ring = s.ring.eraseIdx i ++ (if m.left ≤ 1 then [] else [⟨m.kind, (m.next + 1) % 160, m.left - 1⟩]) ∧
     u.farms = (if m.next = home then (s.onFarm home entry (·.post k)).farms else s.farms) ∧
     u.harts = s.harts.map fun h =>
       match h.waitReg with
       | some w => if h.stop = m.next ∧ w.home = home ∧ w.entry = entry ∧ w.k = k
           then { h with waitReg := some { w with woken := true }, blocked := false } else h
       | none => h) ∧
   (∀ (f : Farm) (k : Nat), let g := f.post k
     (¬ (f.front ≤ k ∧ k < f.front + 64 ∧ k < f.trip) → g = f) ∧
     (f.front ≤ k → k < f.front + 64 → k < f.trip →
       g.window.getLsbD 0 = false ∧ (∀ j, g.recorded j = (f.recorded j || j == k)) ∧ g = { f with front := g.front, window := g.window })))

/-! ### Streams -/

/-- 19 R305 to R307, R309, R312, 01 R16: SSTART of a RUNNING block writes 1 and starts nothing; of any other it marks the block
RUNNING, waits for a slot while the core's 32 are in use (and marks it no second time), hands the engine a copy of the block
with its Pillar entries, whatever older transfers cover, and writes the status it found. A block in FAULT resumes: its stream
keeps its predecessors and its start, and its slot where it has one. SWAIT writes a final status with an acquire and waits for
one; STEST writes the status; SKILL ends the stream that a slot holds and writes 4, and otherwise writes the status. The fields
of a block stand where R300 puts them, and what its kind does not use is not read; the entries cover every byte that the
elements still to come may access. Three points are the model's choice: a resumption takes the level, the tables and the
partition of the hart that resumes, and a SKILL that meanwhile ends the stream it resumes leaves it nothing to start (log 41); and
a stream in FAULT whose block a program has given another status ends when the block is started, so that what waited for it waits
for the new stream (log 84). -/
def Obligations.StreamInstructions : Prop :=
  (∀ bs : List Byte, bs.length = 128 →
    let field (off n : Nat) : Nat := leNat ((bs.drop off).take n)
    let signed (off n : Nat) : Int := (BitVec.ofNat (8 * n) (field off n)).toInt
    streamBlock ((List.range 16).map fun i => BitVec.ofNat 64 (field (8 * i) 8)) =
      { kind := field 0 1, z := field 2 1, flags := field 3 1, length := field 16 8, srcBase := field 24 8
        srcStride := signed 32 4, srcInner := field 36 4, srcOuter := signed 40 8, dstBase := field 48 8
        dstStride := signed 56 4, dstInner := field 60 4, dstOuter := signed 64 8, bitmap := field 72 8, window := field 80 8
        bound := field 88 8, cond := field 96 8, complete := field 104 8, value := field 112 8 }) ∧
  (∀ i, i < 16 →
    let used (kind : Nat) (l : List Nat) : Prop := blockUses kind i = decide (i ∈ l)
    used 0 [0, 1, 2, 3, 4, 6, 7, 12, 13, 14] ∧ used 1 [0, 1, 2, 3, 4, 5, 6, 7, 8, 12, 13, 14] ∧
    used 2 [0, 1, 2, 3, 4, 5, 6, 7, 8, 10, 12, 13, 14] ∧ used 3 [0, 1, 2, 3, 4, 5, 9, 10, 12, 13, 14] ∧
    used 4 [0, 1, 2, 3, 6, 7, 8, 12, 13, 14] ∧ used 5 [0, 1, 2, 3, 4, 5, 6, 7, 8, 9, 12, 13, 14] ∧
    used 6 [0, 1, 2, 3, 4, 5, 6, 7, 8, 9, 10, 11, 12, 13, 14] ∧ used 7 [0, 1, 12, 13, 14]) ∧
  (∀ (ea : Word) (kind : Nat) (s : State) (loc : Nat → Nat) (i n : Nat), s.Plain → i + n ≤ 16 →
    (∀ j, i ≤ j → j < i + n → blockUses kind j = true → s.Lies .load (ea + BitVec.ofNat 64 (8 * j)) (loc j)) →
    Gives (blockWords ea kind i n) s ((List.range n).map fun j =>
      if blockUses kind (i + j) then BitVec.ofNat 64 (s.mem.readNat (loc (i + j)) 8) else 0) s) ∧
  (∀ (ea : Word) (s : State) (loc : Nat), s.Plain → s.Lies .load ea loc → regionOf (loc + 1) ≠ .link →
    Gives (blockStatus ea) s (s.mem.readNat (loc + 1) 1) s) ∧
  (∀ (s : State) (id : Nat), let mine : Prop := ∃ x ∈ s.streams, x.id = id ∧ x.owner = s.h.key
    (id ∈ s.predecessors true ↔ mine) ∧ (id ∈ s.predecessors false ↔ s.h.barrier = some id ∧ mine)) ∧
  (∀ st : Stream, let b := st.blk
    let size := 2 ^ b.z
    let covers (write : Bool) (x : Nat) : Prop := x < 2 ^ 52 → ∃ p ∈ st.entries, p.write = write ∧ p.lo ≤ x ∧ x < p.hi
    let ends (write : Bool) (lo hi : Nat) : Prop := ∃ p ∈ st.entries, p.write = write ∧ p.lo = lo ∧ p.hi = hi
    let window (x : Nat) : Prop := b.window % 2 ^ 52 ≤ x ∧ x < b.window % 2 ^ 52 + 2 ^ (b.window / 2 ^ 58)
    let left (i : Nat) : Prop := st.ptr ≤ i ∧ i < b.length
    let pa := st.ptr % 2 ^ 32
    let pb := st.ptr / 2 ^ 32
    st.entries.length ≤ 2 ∧
    (∀ p ∈ st.entries, p.id = st.id ∧ p.stop = st.stop ∧ p.owner = st.owner ∧ p.space = .virt ∧
      p.holes = (st.block, st.block + 128) :: (([b.cond, b.complete].filter fun a => a != 0).map fun a => (a, a + 8))) ∧
    (b.kind = 4 → ∀ p ∈ st.entries, p.write = true) ∧ (b.kind = 7 → st.entries = []) ∧
    (b.invalid = false → st.ending = none → b.length ≠ untilCancelled →
      (∀ i k, b.kind = 0 ∨ b.kind = 1 ∨ b.kind = 3 ∨ b.kind = 5 → left i → k < size → covers false (b.src i + k)) ∧
      (∀ i k, b.kind = 0 ∨ b.kind = 1 ∨ b.kind = 2 ∨ b.kind = 4 ∨ b.kind = 5 → left i → k < size → covers true (b.dst i + k)) ∧
      (∀ i k, b.kind = 2 → left i → k < 4 → covers false (b.src i + k)) ∧
      (∀ i k, b.kind = 3 → left i → k < 4 → covers false ((b.bitmap + 4 * i) % 2 ^ 64 + k)) ∧
      (∀ i, b.kind = 5 → left i → covers false ((b.bitmap + i / 8) % 2 ^ 64)) ∧
      (∀ i x, b.kind = 2 → left i → window x → covers false x) ∧ (∀ i x, b.kind = 3 → left i → window x → covers true x) ∧
      (∀ i k, b.kind = 6 → (if st.lastA = none then pa - 1 else pa) ≤ i → i < b.length → k < 4 → covers false (b.src i + k)) ∧
      (∀ i k, b.kind = 6 → (if st.lastB = none then pb - 1 else pb) ≤ i → i < b.window → k < 4 →
        covers false ((b.bitmap + 4 * i) % 2 ^ 64 + k)) ∧
      (b.kind = 0 → st.ptr < b.length → 0 ≤ b.srcStride → b.srcBase + (b.length - 1) * b.srcStride < 2 ^ 52 →
        ends false (b.srcBase + st.ptr * b.srcStride.toNat) (b.srcBase + (b.length - 1) * b.srcStride.toNat + size))) ∧
    (b.invalid = false → st.ending = none → b.length = untilCancelled → b.kind = 0 → st.ptr < b.length →
      let a : Int := b.dstBase + st.ptr * b.dstStride
      0 ≤ a → a < 2 ^ 52 → if 0 ≤ b.dstStride then ends true a.toNat (2 ^ 52) else ends true 0 (a.toNat + size)) ∧
    (b.invalid = false → st.ending = none → b.kind = 6 → pa < b.length → pb < b.window → b.dstInner = 0 →
      let a : Int := b.dstBase + st.count * b.dstStride
      st.count < untilCancelled → 0 ≤ a → a < 2 ^ 52 →
        if 0 ≤ b.dstStride then ends true a.toNat (2 ^ 52) else ends true 0 (a.toNat + 4))) ∧
  ∀ (a b : SReg) (s : State), let ea := s.h.get b
    (ea.toNat % 128 ≠ 0 → exec (.sstart a b) s = .next (s.takeTrap 2 ea) ∧ exec (.stest a b) s = .next (s.takeTrap 2 ea) ∧
      exec (.skill a b) s = .next (s.takeTrap 2 ea) ∧
      exec (.swait a b) s = .next ((s.onHart Hart.endStrip).takeTrap 2 ea)) ∧
    (let starts (u : State) (place old id : Nat) (resumes : Bool) : Prop :=
       let v := u.onHart (·.begin (.sstart old id resumes))
       let full : Prop := 32 ≤ v.slotsOf v.h.stop
       let waits : Prop := exec (.sstart a b) s = .next (v.onHart fun h => { h with blocked := true })
       (resumes = false → full → waits) ∧
       (∀ x, resumes = true → v.unended.find? (fun x => x.id == id) = some x →
         (x.stop ≠ v.h.stop ∨ v.stream? x.id = none) → full → waits) ∧
       (resumes = true → (∀ x ∈ v.unended, x.id ≠ id) →
         exec (.sstart a b) s = .next ((v.onHart Hart.endDoing).writes a (BitVec.ofNat 64 old))) ∧
       (∀ w, Gives (acceptStream ea place id resumes) v () w →
         exec (.sstart a b) s = .next ((w.onHart Hart.endDoing).writes a (BitVec.ofNat 64 old)))
     let anew (u : State) (place old : Nat) : Prop :=
       starts (({ u with nextId := u.nextId + 1 } : State).supersede place u.nextId) place old u.nextId false
     ∀ place t, ea.toNat % 128 = 0 → Gives (locate ea .store) s place t → regionOf place ≠ .control →
       ((∀ o id r, s.h.doing ≠ some (.sstart o id r)) → ∀ old u, Gives (startStatus ea place) t old u →
         (old = 1 → exec (.sstart a b) s = .next (u.writes a 1)) ∧
         (old ≠ 1 → old ≠ 3 → anew u place old) ∧
         (old = 3 → (∀ x ∈ u.unended, ¬ (x.place = place ∧ x.faulted = true)) → anew u place old) ∧
         (∀ x, old = 3 → u.unended.find? (fun x => x.place == place && x.faulted) = some x →
           starts u place old x.id true)) ∧
       (∀ old id r, s.h.doing = some (.sstart old id r) → old ≠ 1 → starts t place old id r)) ∧
    (∀ place id, let t := s.supersede place id
      ((∀ x ∈ s.unended, ¬ (x.place = place ∧ x.faulted = true)) → t = s) ∧
      ∀ x, s.unended.find? (fun x => x.place == place && x.faulted) = some x →
        let renew (y : Stream) : Stream := { y with preds := y.preds.map fun p => if p = x.id then id else p }
        t = { s with
          streams := (s.streams.filter fun y => y.id != x.id).map renew
          orphans := (s.orphans.filter fun y => y.id != x.id).map renew }) ∧
    (∀ place, s.conflict s.h.key true .virt (ea.toNat + 1) (ea.toNat + 2) = false → marked s.poison (place + 1) 1 = false →
      s.h.scalarStrip →
      let old := s.mem.readNat (place + 1) 1
      (old = 1 → Gives (startStatus ea place) s 1 s) ∧
      (∀ loc t, old ≠ 1 →
        (∀ i, i < 16 → blockUses (s.mem.readNat place 1) i = true → marked s.poison (place + 8 * i) 8 = false) →
        regionOf (place + 1) ≠ .link → Gives (locate ea .load) s loc t → regionOf loc ≠ .control →
        ∃ u : State, Gives (startStatus ea place) s old u ∧ u.mem = s.mem.writeNat (place + 1) 1 1 ∧ u.streams = s.streams ∧
          u.orphans = s.orphans ∧ u.pillars = s.pillars ∧ u.regs = s.regs ∧ u.h.s = s.h.s)) ∧
    (∀ place id ws t, Gives (do let w ← recordWord ea; (w :: ·) <$> blockWords ea (w.toNat % 256) 1 15) s ws t →
      let word (i : Nat) : Nat := ((ws[i]?).getD 0).toNat
      let blk := streamBlock ws
      let error : Option (Nat × Nat) := if blk.invalid then some (32, ea.toNat % 2 ^ 52) else none
      (∀ h ∈ s.others, h.stop = s.h.stop → h.pillarAt = none) →
      (s.slotsOf s.h.stop < 32 →
        let st : Stream :=
          { id := id, stop := s.h.stop, owner := s.h.key, block := ea.toNat, place := place, level := s.h.level
            asid := s.h.asid, ptbase := s.h.ptbase, vpart := s.h.vpart, pre := s.h.slot == 8, blk := blk, ptr := word 1
            count := word 0 / 2 ^ 32, preds := s.predecessors (blk.kind == 7), started := false, faulted := false
            error := error, ending := none, skipped := false, lag := 0, wrote := [], lastA := none, lastB := none }
        st.entries = [] ∨ t.pillarsOf s.h.stop + st.entries.length ≤ 64 → (∀ x ∈ t.streams, x.id ≠ id) →
        ∃ w : State, Gives (acceptStream ea place id false) s () w ∧
          w.streams = t.streams ++ [st] ∧ w.orphans = t.orphans.filter (fun x => x.id != id) ∧
          w.pillars = t.pillars ++ st.entries ∧ w.nextId = t.nextId ∧ w.mem = s.mem ∧
          w.regs = s.regs ∧ w.h = { t.h with pillarAt := none, barrier := if blk.kind = 7 then some id else s.h.barrier }) ∧
      (∀ x, s.unended.find? (fun x => x.id == id) = some x → t.streams = s.streams → t.orphans = s.orphans →
        let inSlot : Prop := s.stream? id = some x
        (inSlot ∧ x.stop = s.h.stop) ∨ s.slotsOf s.h.stop < 32 →
        let st : Stream :=
          { x with stop := s.h.stop, owner := s.h.key, block := ea.toNat, place := place, level := s.h.level, asid := s.h.asid
                   ptbase := s.h.ptbase, vpart := s.h.vpart, pre := s.h.slot == 8, blk := blk, ptr := word 1
                   count := word 0 / 2 ^ 32, faulted := false, error := error, lag := 0, wrote := [], lastA := none
                   lastB := none }
        st.entries = [] ∨ t.pillarsOf s.h.stop + st.entries.length ≤ 64 →
        ∃ w : State, Gives (acceptStream ea place id true) s () w ∧
          (inSlot → w.streams = (t.setStream st).streams ∧ w.orphans = t.orphans) ∧
          (s.stream? id = none → w.streams = t.streams ++ [st] ∧ w.orphans = t.orphans.filter (fun x => x.id != id)) ∧
          w.pillars = t.pillars ++ st.entries ∧ w.nextId = t.nextId ∧ w.mem = s.mem ∧ w.regs = s.regs ∧
          w.h = { t.h with pillarAt := none })) ∧
    (∀ v t, Gives (do let x ← blockAddress b; blockStatus x) (s.onHart Hart.endStrip) v t →
      (v = 2 ∨ v = 3 ∨ v = 4 ∨ v = 5 → exec (.swait a b) s =
        .next ((t.onHart fun h => { h with rbuf := [] }).writes a (BitVec.ofNat 64 v))) ∧
      (¬ (v = 2 ∨ v = 3 ∨ v = 4 ∨ v = 5) → exec (.swait a b) s = .next (t.onHart fun h => { h with blocked := true }))) ∧
    (∀ v t, Gives (do let x ← blockAddress b; blockStatus x) s v t →
      exec (.stest a b) s = .next ((if v = 2 ∨ v = 3 ∨ v = 4 ∨ v = 5 then t.onHart Hart.acquire else t).writes a
        (BitVec.ofNat 64 v))) ∧
    (∀ loc t, ea.toNat % 128 = 0 → Gives (locate ea .load) s loc t → regionOf loc ≠ .control →
      (∀ st, t.streams.find? (fun x => x.place == loc) = some st → exec (.skill a b) s = .next ((t.endAll st.id 4).writes a 4)) ∧
      (∀ v u, t.streams.find? (fun x => x.place == loc) = none → Gives (blockStatus ea) t v u →
        exec (.skill a b) s = .next (u.writes a (BitVec.ofNat 64 v))))

/-- 19 R301, R310, R315: how a stream starts and ends: without a condition word, or with one that is not zero, it is started; a
zero word makes it SKIPPED; a stream that ends writes its pointer, its count and its status, frees its entries and its slot and
releases the streams that waited on it; its completion word is written then, and its lamp raised last; a completion word that
faults leaves the pointer at the length. 19 R302, R308, R313, R314: an element of COPY1D, COPY2D, GATHER, SCATTER, FILL or
BITMAP_COPY reads its source and writes its destination, at the addresses of R301, and nothing else but the pointer and the
count of the block, written at the latest after 4,096 bytes, changes in memory; an index outside the window is fault 33; a clear
bit of BITMAP_COPY only advances the pointer; INTERSECT advances the position of the lesser value, or both and writes a value
above the bound, and a value that is not above its predecessor is fault 34; an element that faults leaves the stream where it was;
STREAM_FAULT records pointer, status, code and address, frees the entries and makes cause 18 due to the hart. The model's choices:
a stream in FAULT that is to be SKIPPED is marked and ends once it runs again (log 61); the completion word is translated before
the final status and written at a later step (log 37); a write to the block is translated when it is made, and nothing is
written where the block is no longer mapped (log 41). -/
def Obligations.StreamEngine : Prop :=
  (∀ (s : State) (st : Stream) (off n v : Nat), let u := s.putBlock st off n v
     let found := s.locate st.space (BitVec.ofNat 64 (st.block + off)) .store
     (∀ loc, found.1 = .ok loc → regionOf loc ≠ .control → regionOf loc ≠ .link → u.mem = s.mem.writeNat loc n v) ∧
     (∀ f, found.1 = .error f → u.mem = s.mem) ∧ u.regs = s.regs ∧ u.streams = s.streams ∧ u.pillars = s.pillars ∧
     u.finals = s.finals ∧ u.tlb = found.2.tlb) ∧
  (∀ (id : Nat) (s : State) (st : Stream), s.stream? id = some st → st.id = id → s.olderPillars id = [] →
     let b := st.blk
     let progress (x : Stream) (t : State) : State :=
       let t := t.putBlock x 8 8 x.ptr
       if b.kind = 5 ∨ b.kind = 6 then t.putBlock x 4 4 x.count else t
     let lamp : Lamp := ⟨false, BitVec.ofNat 64 (st.block % 2 ^ 52)⟩
     let ended (u t : State) (status : Nat) (word : Option Nat) : Prop :=
       u.mem = ((progress st t).putBlock st 1 1 status).mem ∧
       u.streams = (t.streams.filter fun x => x.id != id).map (fun x => { x with preds := x.preds.filter fun p => p != id }) ∧
       u.pillars = t.pillars.filter (fun p => p.id != id) ∧
       (∀ loc, word = some loc → u.finals = s.finals ++
         [⟨id, st.stop, st.owner, loc, b.value, if b.flags % 2 = 1 then some lamp else none⟩] ∧
         ∀ k, u.hartOf? k = s.hartOf? k) ∧
       (word = none → u.finals = s.finals ∧ ∀ k h, s.hartOf? k = some h →
         u.hartOf? k = some (if k = st.owner ∧ b.flags % 2 = 1 then h.addLamp lamp else h))
     let endsAs (status : Nat) (u : State) : Prop := (b.complete = 0 → ended u s status none) ∧
       ∀ loc t, b.complete ≠ 0 → (reach st.space b.complete 8 .store).run s = (.ok loc, t) → ended u t status (some loc)
     (st.skipped = true → exec (.streamStart id) s = .next (s.endAll id 5)) ∧
     (st.skipped = false → b.cond = 0 → exec (.streamStart id) s = .next (s.setStream { st with started := true })) ∧
     (∀ loc t v w, st.skipped = false → b.cond ≠ 0 → (reach st.space b.cond 8 .load).run s = (.ok loc, t) →
       (engineUse (t.stripOf st.owner) b.cond loc 8).run t = (.ok v, w) →
       (v ≠ 0 → exec (.streamStart id) s = .next (w.setStream { st with started := true })) ∧
       (v = 0 → exec (.streamStart id) s = .next (w.endAll id 5))) ∧
     ((∀ x ∈ s.unended, x.id = id → x = st) →
       ((∀ h ∈ s.harts, h.monitor = none ∧ h.strip = []) →
         ((∀ x ∈ s.unended, id ∉ x.preds) → ended (s.endAll id 4) s 4 none) ∧
         (st.faulted = false → (b.kind = 7 → ∀ x ∈ s.unended, id ∉ x.preds) → endsAs 5 (s.endAll id 5)) ∧
         (st.ending = none ∨ st.ending = some 2 → ∃ u : State, exec (.streamCompletion id) s = .next u ∧ endsAs 2 u)) ∧
       (st.faulted = true → (s.endAll id 5).mem = s.mem ∧
         (s.endAll id 5).stream? id = some { st with skipped := true, preds := [] }) ∧
       ∀ c v t, st.ending = none → b.complete ≠ 0 → (reach st.space b.complete 8 .store).run s = (.error (c, v), t) → c ≠ 0 →
         exec (.streamCompletion id) s = .next (t.setStream { st with
           ptr := if b.kind = 6 then b.length + b.window * 2 ^ 32 else if b.kind = 7 then st.ptr else b.length
           error := some (c, v.toNat % 2 ^ 52), ending := some 2, started := true })) ∧
     (let n := 2 ^ b.z
      let moves (m : Memory) (ptr count : Nat) (t : State) : Prop := ∃ (u w : State) (x : Stream),
        exec (.streamElement id) s = .next u ∧ u.stream? id = some x ∧ x.ptr = ptr ∧ x.count = count ∧ x.blk = b ∧
        x.faulted = st.faulted ∧ x.error = st.error ∧ u.regs = s.regs ∧ w.mem = m ∧ w.tlb = t.tlb ∧ w.links = s.links ∧
        ((x.lag = 0 ∧ u.mem = (progress x w).mem) ∨ (x.lag < 4096 ∧ u.mem = m))
      let faults (code va : Nat) (t : State) : Prop :=
        exec (.streamElement id) s = .next (t.setStream { st with error := some (code, (BitVec.ofNat 64 va).toNat % 2 ^ 52) })
      let finds (va n : Nat) (acc : Access) (t : State) (loc : Nat) (u : State) : Prop :=
        (reach st.space va n acc).run t = (.ok loc, u) ∧ regionOf loc ≠ .link
      let takes (va n : Nat) (t : State) (v : Nat) (u : State) : Prop :=
        ∃ loc, finds va n .load t loc u ∧ marked s.poison loc n = false ∧ s.mem.readNat loc n = v
      let copied (m : Memory) (sl dl : Nat) : Memory := m.writeNat dl n (m.readNat sl n)
      let window : Nat := 2 ^ (b.window / 2 ^ 58)
      let inside (j : Nat) : Nat := (b.window % 2 ^ 52 + j * n) % 2 ^ 64
      let bits (i : Nat) : Nat := (b.bitmap + i) % 2 ^ 64
      (n ≤ 8 → st.wrote = [] → s.stripOf st.owner = [] →
        (∀ sl dl t u, b.kind < 2 → finds (b.src st.ptr) n .load s sl t → finds (b.dst st.ptr) n .store t dl u →
          marked s.poison sl n = false → moves (copied s.mem sl dl) (st.ptr + 1) st.count u) ∧
        (∀ j sl dl t u v, b.kind = 2 → takes (b.src st.ptr) 4 s j t → j * n + n ≤ window →
          finds (inside j) n .load t sl u → finds (b.dst st.ptr) n .store u dl v → marked s.poison sl n = false →
          moves (copied s.mem sl dl) (st.ptr + 1) st.count v) ∧
        (∀ j sl dl t u v, b.kind = 3 → takes (bits (4 * st.ptr)) 4 s j t → j * n + n ≤ window →
          finds (b.src st.ptr) n .load t sl u → finds (inside j) n .store u dl v → marked s.poison sl n = false →
          moves (copied s.mem sl dl) (st.ptr + 1) st.count v) ∧
        (∀ j t, window < j * n + n →
          (b.kind = 2 → takes (b.src st.ptr) 4 s j t → faults 33 (b.src st.ptr) t) ∧
          (b.kind = 3 → takes (bits (4 * st.ptr)) 4 s j t → faults 33 (bits (4 * st.ptr)) t)) ∧
        (∀ dl t, b.kind = 4 → finds (b.dst st.ptr) n .store s dl t →
          moves (s.mem.writeNat dl n b.srcBase) (st.ptr + 1) st.count t) ∧
        (∀ v t, b.kind = 5 → takes (bits (st.ptr / 8)) 1 s v t →
          (v.testBit (st.ptr % 8) = false → moves s.mem (st.ptr + 1) st.count t) ∧
          (∀ sl dl u w, v.testBit (st.ptr % 8) = true → finds (b.src st.ptr) n .load t sl u → finds (b.dst st.ptr) n .store u dl w →
            marked s.poison sl n = false → moves (copied s.mem sl dl) (st.ptr + 1) ((st.count + 1) % 2 ^ 32) w)) ∧
        (b.kind = 6 → let pa := st.ptr % 2 ^ 32
          let pb := st.ptr / 2 ^ 32
          let rises (i : Nat) (last : Option Nat) (x : Nat) : Prop := i = 0 ∨ ∃ p, last = some p ∧ p < x
          (∀ x t, takes (b.src pa) 4 s x t → pa ≠ 0 → (∃ p, st.lastA = some p ∧ x ≤ p) → faults 34 (b.src pa) t) ∧
          ∀ x y t u, takes (b.src pa) 4 s x t → takes (bits (4 * pb)) 4 t y u → rises pa st.lastA x →
            (pb ≠ 0 → (∃ p, st.lastB = some p ∧ y ≤ p) → faults 34 (bits (4 * pb)) u) ∧
            (rises pb st.lastB y →
              (x < y → moves s.mem (st.ptr + 1) st.count u) ∧
              (y < x → moves s.mem (st.ptr + 2 ^ 32) st.count u) ∧
              (x = y → x ≤ b.bound → moves s.mem (st.ptr + 1 + 2 ^ 32) st.count u) ∧
              (∀ dl w, x = y → b.bound < x → finds (b.dst st.count) 4 .store u dl w →
                moves (s.mem.writeNat dl 4 x) (st.ptr + 1 + 2 ^ 32) ((st.count + 1) % 2 ^ 32) w)))) ∧
      (∀ c v t, (Stream.element st).run s = (.error (c, v), t) → exec (.streamElement id) s =
        .next (if c = 0 then s else t.setStream { st with error := some (c, v.toNat % 2 ^ 52) })) ∧
      (∀ code addr, st.error = some (code, addr) → ∃ u : State, exec (.streamFault id) s = .next u ∧
        u.mem = (((progress st s).putBlock st 120 8 (code * 2 ^ 56 + addr)).putBlock st 1 1 3).mem ∧
        u.stream? id = some { st with faulted := true, error := none } ∧ u.pillars = s.pillars.filter (fun p => p.id != id) ∧
        ((∀ h ∈ s.harts, h.monitor = none ∧ h.strip = []) → ∀ h, s.hartOf? st.owner = some h →
          ∃ g, u.hartOf? st.owner = some g ∧ g.faults = h.faults ++ [BitVec.ofNat 64 st.block])))) ∧
  (∀ (id : Nat) (s : State) (f : Final), s.stream? id = none → s.finals.find? (fun x => x.id == id) = some f →
     regionOf f.loc ≠ .link → (∀ h ∈ s.harts, h.monitor = none ∧ h.strip = []) →
     ∃ u : State, exec (.streamCompletion id) s = .next u ∧ u.mem = s.mem.writeNat f.loc 8 f.value ∧
       u.finals = s.finals.filter (fun x => x.id != id) ∧ u.streams = s.streams ∧
       ∀ k h, s.hartOf? k = some h → u.hartOf? k = some (match f.lamp with
         | some l => if k = f.owner then h.addLamp l else h
         | none => h)) ∧
  ∀ (base : Nat) (stride outer : Int) (inner i : Nat), 0 < inner →
     genAddr base stride 0 outer i = base + i * stride ∧
     genAddr base stride inner outer i = base + (i % inner : Nat) * stride + (i / inner : Nat) * outer

/-! ### The route engine -/

/-- 21 R324, R325, R331, R332: RBIND enters a binding under the requested or the lowest free id and writes it, −1 where the
hart is bound, a limit is broken or the id is held; a misaligned record is cause 2, and a reserved byte, a base outside the
scratchpad window and an inbox outside the hart's banks are cause 6, in this order; RUNBIND ends it, and every slot reserved in it is dropped, all else of the
tiles staying as it was; RRECV gives the first row not yet received once it is delivered; RRET copies the row to the router's
return place, with its marks, changes no other byte, and marks the slot returned; it writes 1 where the slot is late or the tile
gone, and 2 for a row the hart does not hold; as a release it waits for the hart's earlier pushes, and its copy, a store of the
router's route, for older transfers of the router (05 R85). That an id which RBIND asks for while a hart of another launch holds
it is closed to the asker's launch is the model's reading of 22 R341 (log 68). -/
def Obligations.RouteTargets : Prop :=
  (∀ (a b : SReg) (s : State), let ea := s.h.get b
    (ea.toNat % 16 ≠ 0 → exec (.rbind a b) s = .next (s.takeTrap 2 ea)) ∧
    ∀ t base w, ea.toNat % 16 = 0 → Gives (recordWords ea 2) s [base, w] t →
      let inWindow : Prop := localBase ≤ base.toNat ∧ base.toNat < localBase + 0x300000 ∧ base.toNat % 128 = 0
      let bytes := w.toNat % 65536 * (w.toNat / 65536 % 65536)
      (2 ^ 40 ≤ w.toNat → exec (.rbind a b) s = .next (t.takeTrap 6 ea)) ∧
      (w.toNat < 2 ^ 40 → ¬ inWindow → exec (.rbind a b) s = .next (t.takeTrap 6 base)) ∧
      (w.toNat < 2 ^ 40 → inWindow → t.h.holdsInbox (base.toNat - localBase) bytes = false →
        exec (.rbind a b) s = .next (t.takeTrap 6 base))) ∧
  (∀ (h : Hart) (off n : Nat), off % 8 = 0 → h.preempting = false →
    (h.holdsInbox off n = true ↔ off + n ≤ 0x300000 ∧ (h.level = .user → ∀ k, k < max 1 n →
      let bank := (off + k) / 8 % 192
      h.vpart.toNat / 2 ^ 48 % 256 ≤ bank ∧ bank < h.vpart.toNat / 2 ^ 48 % 256 + h.vpart.toNat / 2 ^ 56 % 256))) ∧
  (∀ (a b : SReg) (s t : State) (base w : Word), let ea := s.h.get b
    let rows := w.toNat % 65536
    let bytes := w.toNat / 65536 % 65536
    let req := w.toNat / 2 ^ 32
    let off := base.toNat - localBase
    ea.toNat % 16 = 0 → Gives (recordWords ea 2) s [base, w] t → req < 256 → localBase ≤ base.toNat →
    base.toNat < localBase + 0x300000 → base.toNat % 128 = 0 → t.h.holdsInbox off (rows * bytes) = true →
    let fits : Prop := t.targetOf t.h.key = none ∧ 1 ≤ rows ∧ rows ≤ 256 ∧ 4 ≤ bytes ∧ bytes ≤ 4096 ∧ bytes % 4 = 0
    let taken (i : Nat) : Prop := (t.target? t.h.die i).isSome = true
    let enters (i : Nat) : Prop := exec (.rbind a b) s = .next (({ t with targets := t.targets ++ [
      { die := t.h.die, id := i, owner := t.h.key, stop := t.h.stop, base := scratchLoc t.h.stop + off, cap := rows
        rowBytes := bytes, rows := [] }] } : State).writes a (BitVec.ofNat 64 i))
    (fits → req < 255 → ¬ taken req → enters req) ∧
    (fits → req = 255 → ∀ i, i < 255 → ¬ taken i → (∀ j, j < i → taken j) → enters i) ∧
    (req = 255 → ¬ fits ∨ (∀ i, i < 255 → taken i) → exec (.rbind a b) s = .next (t.writes a (BitVec.allOnes 64))) ∧
    (req < 255 → ¬ fits ∨ taken req → exec (.rbind a b) s = .next ((t.onTarget t.h.die req fun g =>
      if g.owner.lid = t.h.key.lid ∨ t.h.key.lid ∈ g.refused then g
      else { g with refused := g.refused ++ [t.h.key.lid] }).writes a (BitVec.allOnes 64)))) ∧
  (∀ s : State, (s.targetOf s.h.key = none → exec .runbind s = .next (s.retire 4)) ∧
    (∀ g, s.targetOf s.h.key = some g → ∃ u : State, exec .runbind s = .next (u.retire 4) ∧
      u = { s with targets := s.targets.filter (fun x => x.owner != s.h.key), routeTiles := u.routeTiles } ∧
      u.routeTiles.length = s.routeTiles.length ∧
      ∀ (i : Nat) (x : RouteTile), s.routeTiles[i]? = some x → ∃ y : RouteTile, u.routeTiles[i]? = some y ∧
        y = { x with slots := y.slots } ∧ y.slots.length = x.slots.length ∧
        ∀ n, let drops : Prop := x.status = .running ∧
            s.routeTiles.findIdx? (fun z => z.stop == x.stop && z.entry == x.entry) = some i ∧
            (∃ t q, x.slots[n]? = some (.reserved t q)) ∧
            ∃ r ∈ g.rows, r.tileStop = x.stop ∧ r.tileEntry = x.entry ∧ r.tileGen = x.gen ∧ 4 * r.row + r.slot = n
          (drops → y.slots[n]? = some .dropped) ∧ (¬ drops → y.slots[n]? = x.slots[n]?))) ∧
  (∀ (a b : SReg) (s : State),
    (s.targetOf s.h.key = none → exec (.rrecv a b) s = .next (s.writes a (BitVec.allOnes 64))) ∧
    (∀ g, s.targetOf s.h.key = some g →
      (g.rows.find? (fun r => !r.received) = none → exec (.rrecv a b) s =
        .next (if (s.h.get b).getLsbD 0 = true then s.writes a (BitVec.allOnes 64) else s.onHart fun h => { h with blocked := true })) ∧
      (∀ r, g.rows.find? (fun r => !r.received) = some r →
        (r.delivered = false → exec (.rrecv a b) s = .next (s.onHart fun h => { h with blocked := true })) ∧
        (r.delivered = true → exec (.rrecv a b) s = .next (((s.onTarget g.die g.id fun g => { g with
          rows := g.rows.map fun x => if x.q = r.q then { x with received := true } else x }).onHart
            Hart.acquire).writes a (BitVec.ofNat 64
              (r.tileStop % 40 * 2 ^ 32 + (r.tileGen * 32 + r.tileEntry) * 2 ^ 16 + r.row * 2 ^ 10 + r.slot * 2 ^ 8 + r.q))))))) ∧
  (∀ (a b c : SReg) (s : State), let va := s.h.get c
    (va.toNat % 4 ≠ 0 → exec (.rret a b c) s = .next (s.takeTrap 2 va)) ∧
    (va.toNat % 4 = 0 → (∀ g, s.targetOf s.h.key = some g → ∀ r ∈ g.rows, r.handle ≠ s.h.get b) →
      exec (.rret a b c) s = .next (s.writes a 2)) ∧
    (∀ g r, va.toNat % 4 = 0 → s.targetOf s.h.key = some g → g.rows.find? (fun r => r.handle == s.h.get b) = some r →
      s.pushing s.h.key = true → exec (.rret a b c) s = .next (s.onHart fun h => { h with blocked := true })) ∧
    (∀ g r locs t, s.canonical = true → va.toNat % 4 = 0 → s.targetOf s.h.key = some g → g.rows.find? (fun r => r.handle == s.h.get b) = some r →
      s.pushing s.h.key = false → Gives (locateRow va r.elems) (s.onHart Hart.settle) locs t →
      let free (u : State) : State := u.onTarget g.die g.id fun g => { g with rows := g.rows.filter fun x => x.q != r.q }
      let i := 4 * r.row + r.slot
      let onTime (x : RouteTile) : Prop := x.gen = r.tileGen ∧ x.status = .running ∧ ∃ y q, x.slots[i]? = some (.reserved y q)
      (¬ (∃ x, t.tile? r.tileStop r.tileEntry = some x ∧ onTime x) → exec (.rret a b c) s = .next ((free t).writes a 1)) ∧
      (∀ x, t.tile? r.tileStop r.tileEntry = some x → onTime x →
        let dst (j : Nat) : Nat := x.place (x.record.retRow r.row r.slot + 4 * j)
        let src (j : Nat) : Nat := (locs[j]?).getD 0
        (∀ j k, j < r.elems → k < r.elems → (j ≠ k → dst j + 4 ≤ dst k ∨ dst k + 4 ≤ dst j) ∧
          (src j + 4 ≤ dst k ∨ dst k + 4 ≤ src j)) →
        (∀ j, j < r.elems → regionOf (src j) ≠ .link ∧ regionOf (dst j) ≠ .link) →
        let waits : Prop := t.routeHeld x true (x.record.retRow r.row r.slot) = true
        (waits → exec (.rret a b c) s = .next (t.onHart fun h => { h with blocked := true })) ∧
        (¬ waits → ∃ u : State, exec (.rret a b c) s = .next (u.writes a 0) ∧
          ((∀ e ∈ t.stripOf x.owner, ∀ j, j < r.elems → e.covers (dst j) 4 = false) →
            ∀ j, j < r.elems → u.mem.readNat (dst j) 4 = s.mem.readNat (src j) 4 ∧
              (marked s.poison (src j) 4 = true → marked u.poison (dst j) 4 = true)) ∧
          (∀ x, (∀ j, j < r.elems → x < dst j ∨ dst j + 4 ≤ x) → u.mem.read x = s.mem.read x) ∧ u.regs = s.regs ∧
          u.targets = (free t).targets ∧ u.routeTiles = (t.onTile x.stop x.entry fun y =>
            { y with slots := y.slots.set i .returned }).routeTiles))))

/-- 21 R326 to R330: ROUTE takes a reassembly entry and its Pillar entries for the record, the ids and the weights that it
reads, with every routed slot pending, its timer from the record or from RTIMEOUT, and the entry's next generation; it waits
for its reservations and writes the handle; its source rows are read after every access of the hart before it. A reservation takes
the lowest free row of its target, drops where the target is unbound or the row too long, or the launch was refused its id (22 R341;
the model's reading, log 68), and where the inbox is full follows the policy; delivery copies the row into the inbox; at a
timeout the slots not delivered are late, and flag [1] then makes cause 20 due to the hart. Two points are the model's choice
(log 42): the engine makes each reservation as an event of its own, also while the routing hart is in a handler; and the read
entry leaves a row out once it has been read (`trimRoute`). That the first generation of an entry is 0 is a third (log 2; R328
gives none). What the ids and weights are is stated for addresses that lie at one place whatever the TLB holds (log 8). -/
def Obligations.RoutesReserveAndDeliver : Prop :=
  (∀ (ea : Word) (s t : State) (id : Nat) (handle : Word), Gives (beginRoute ea) s (id, handle) t → ∃ x : RouteTile,
    handle = BitVec.ofNat 64 (x.gen * 32 + x.entry) ∧ t.h.settle = t.h ∧ t.routeTiles = s.routeTiles ++ [x] ∧ x.id = id ∧ x.owner = s.h.key ∧ x.stop = s.h.stop ∧ x.entry < 32 ∧
    (∀ y ∈ s.routeTiles, y.stop = s.h.stop → y.entry ≠ x.entry) ∧ x.status = .running ∧ x.slots.length = 4 * x.record.rows ∧
    (x.level, x.asid, x.ptbase, x.vpart) = (s.h.level, s.h.asid, s.h.ptbase, s.h.vpart) ∧ x.expired = false ∧
    (∃ ws s1, Gives (recordWords ea 8) s ws s1 ∧ let w (i : Nat) : Nat := ((ws[i]?).getD 0).toNat
      let pitch (n : Nat) : Int := (BitVec.ofNat 32 n).toInt
      x.record = { src := w 0, srcPitch := pitch (w 1), outPitch := pitch (w 1 / 2 ^ 32), idsVa := w 2, weightsVa := w 3
                   out := w 4, ret := w 5, rows := w 6 % 65536, elems := w 6 / 65536 % 65536, timeout := w 6 / 2 ^ 32
                   policy := w 7 % 256, fallback := w 7 / 256 % 256, flags := w 7 / 65536 % 256, reserved := 0 }) ∧
    1 ≤ x.record.rows ∧ x.record.rows ≤ 64 ∧ 1 ≤ x.record.elems ∧ x.record.elems ≤ 1024 ∧ x.record.policy ≤ 2 ∧
    x.timer = (if x.record.timeout = 0 then s.h.rtimeout.toNat else x.record.timeout) ∧ x.left = x.timer ∧
    (let next (u : State) := u.routeGens.find? fun g => g.1 == s.h.stop && g.2.1 == x.entry
     x.gen = (match next s with | some g => g.2.2 | none => 0) ∧ next t = some (s.h.stop, x.entry, (x.gen + 1) % 2048)) ∧
    (s.h.strip = [] → ∀ i loc, i < 4 * x.record.rows → regionOf loc ≠ .link →
      let lies (va : Nat) : Prop := ∀ (u : State) (l : Nat), u = { s with tlb := u.tlb, tick := u.tick } →
        (u.locate s.h.space (BitVec.ofNat 64 va) .load).1 = .ok l → l = loc
      (lies (x.record.idsVa + i) → x.ids[i]? = some (s.mem.readNat loc 1)) ∧
      (lies (x.record.weightsVa + 4 * i) → x.weights[i]? = some (s.mem.readNat loc 4))) ∧
    (∀ i, i < 4 * x.record.rows → x.slots[i]? = some (if x.ids[i]? = some 255 then .none else .pending)) ∧
    (∃ p q, t.pillars = s.pillars ++ [p, q] ∧ p.write = false ∧ q.write = true ∧ p.id = id ∧ q.id = id) ∧
    (ea.toNat < localBase → ∃ k ∈ x.kept, k.1 = ea.toNat / 65536) ∧
    t.mem = s.mem ∧ t.regs = s.regs ∧ t.h.s = s.h.s) ∧
  (∀ (a b : SReg) (s : State),
    let comes (id : Nat) (handle : Word) (t : State) : Prop :=
      ((∀ x ∈ t.routeTiles, x.id = id → x.accepted = true) → exec (.route a b) s = .next (t.writes a handle)) ∧
      (∀ x ∈ t.routeTiles, x.id = id → x.accepted = false →
        exec (.route a b) s = .next (t.onHart fun h => { h.begin (.route id handle) with blocked := true }))
    (∀ id handle t, (∀ n v, s.h.doing ≠ some (.route n v)) → Gives (beginRoute (s.h.get b)) s (id, handle) t → comes id handle t) ∧
    (∀ id handle, s.h.doing = some (.route id handle) → comes id handle s)) ∧
  (∀ (s : State) (x : RouteTile) (n : Nat) (g : Target), s.targetFor x n = some g ↔
    s.target? (x.stop / 40) n = some g ∧ x.owner.lid ∉ g.refused) ∧
  (∀ (k : HKey) (s : State) (h : Hart), s.hartOf? k = some h →
    ((∀ x ∈ s.routeTiles, x.owner = k → s.canReserve x = false) → exec (.routeReservation k) s = .next s)) ∧
  (∀ (k : HKey) (s : State) (h : Hart) (i n : Nat) (x : RouteTile), s.hartOf? k = some h → x ∈ s.routeTiles → x.owner = k →
    x.slots[i]? = some .pending → (∀ j, j < i → x.slots[j]? ≠ some .pending) → x.ids[i]? = some n →
    let die := x.stop / 40
    let makes (t : State) : Prop :=
      s.routeTiles.find? (fun y => y.owner == k && s.canReserve y) = some x → exec (.routeReservation k) s = .next t
    let drops : Prop := s.canReserve x = true ∧
      makes ((s.onTile x.stop x.entry fun y => { y with slots := y.slots.set i .dropped }).trimRoute x.stop x.entry)
    let takes (id q : Nat) : Prop := s.canReserve x = true ∧ makes ((s.onTarget die id fun g => { g with
      rows := g.rows ++ [⟨q, x.stop, x.entry, x.gen, i / 4, i % 4, x.record.elems, false, false⟩] }).onTile x.stop x.entry fun y =>
        { y with slots := y.slots.set i (.reserved id q) })
    let room (g : Target) (q : Nat) : Prop := q < g.cap ∧ (∀ r ∈ g.rows, r.q ≠ q) ∧ ∀ p, p < q → ∃ r ∈ g.rows, r.q = p
    let full (g : Target) : Prop := ∀ q, q < g.cap → ∃ r ∈ g.rows, r.q = q
    (s.targetFor x n = none → drops) ∧
    (∀ g, s.targetFor x n = some g →
      (g.rowBytes < 4 * x.record.elems → drops) ∧
      (4 * x.record.elems ≤ g.rowBytes → (∀ q, room g q → takes n q) ∧
        (full g → (x.record.policy = 0 → drops) ∧
          (x.record.policy = 2 → s.canReserve x = false) ∧
          (x.record.policy = 1 → (x.record.fallback = 255 → drops) ∧
            (x.record.fallback ≠ 255 → (s.targetFor x x.record.fallback = none → drops) ∧
              (∀ f, s.targetFor x x.record.fallback = some f →
                (f.rowBytes < 4 * x.record.elems ∨ full f → drops) ∧
                (∀ q, 4 * x.record.elems ≤ f.rowBytes → room f q → takes x.record.fallback q)))))))) ∧
  (∀ (stop entry row slot : Nat) (s : State) (x : RouteTile) (g : Target) (r : InboxRow), s.canonical = true →
    s.tile? stop entry = some x →
    let mine (r : InboxRow) : Bool := r.owedBy x && r.row == row && r.slot == slot
    s.targets.find? (fun g => g.rows.any mine) = some g → g.rows.find? mine = some r →
    let src (j : Nat) : Nat := x.place (x.record.srcRow row + 4 * j)
    let dst (j : Nat) : Nat := g.base + r.q * g.rowBytes + 4 * j
    (∀ j k, j < x.record.elems → k < x.record.elems → src j + 4 ≤ dst k ∨ dst k + 4 ≤ src j) →
    (∀ j, j < x.record.elems → regionOf (src j) ≠ .link ∧ regionOf (dst j) ≠ .link) →
    ∃ u : State, exec (.routeRowDelivery stop entry row slot) s = .next u ∧
      (∀ j, j < x.record.elems → u.mem.readNat (dst j) 4 = s.mem.readNat (src j) 4) ∧
      (∀ loc, loc < dst 0 ∨ dst x.record.elems ≤ loc → u.mem.read loc = s.mem.read loc) ∧
      u.targets = (s.onTarget g.die g.id fun g => { g with
        rows := g.rows.map fun y => if y.q = r.q then { y with delivered := true } else y }).targets ∧
      u.routeTiles = s.routeTiles) ∧
  (∀ (stop entry : Nat) (s : State),
    let u := s.onTile stop entry fun x => { x with
      expired := true
      slots := x.slots.map fun y => match y with | .reserved _ _ => .late | _ => y }
    (s.tile? stop entry = none → exec (.routeTimeout stop entry) s = .next s) ∧
    ∀ x, s.tile? stop entry = some x →
      let late : Prop := SlotState.late ∈ x.slots ∨ ∃ i q, SlotState.reserved i q ∈ x.slots
      (x.record.flags / 2 % 2 = 1 → late → exec (.routeTimeout stop entry) s =
        .next (u.onKey x.owner fun h => { h with timeouts := h.timeouts ++ [BitVec.ofNat 64 (x.gen * 32 + x.entry)] })) ∧
      (¬ (x.record.flags / 2 % 2 = 1 ∧ late) → exec (.routeTimeout stop entry) s = .next u))

/-- 21 R333 to R338: reassembly writes every output row as the products of the row's returned slots added in slot order, each
product exact and each sum rounded to FP32 once, zeros where none returned, and no other byte; then the status DONE, or PARTIAL
where a slot was late, frees the Pillar entries and raises the lamp unless cause 20 stands for it; poisoned returns at row f leave
the rows before f written, the status FAULT and cause 18 due; RWAIT waits for a final status, acquires, frees the entry and writes the status word; RSTAT
reads a word and frees nothing. How many cycles a running timer has left is open and never rises (log 11). -/
def Obligations.RoutesReassemble : Prop :=
  (∀ (stop entry : Nat) (s : State) (x : RouteTile), s.canonical = true → s.tile? stop entry = some x →
    s.stripOf x.owner = [] →
    let late := x.slots.contains .late
    let returned (row k : Nat) : Bool := x.slots[4 * row + k]? == some .returned
    let out (r j : Nat) : Nat := x.place (x.record.outRow r + 4 * j)
    let ret (r k j : Nat) : Nat := x.place (x.record.retRow r k + 4 * j)
    let poisoned (r : Nat) : Prop := ∃ k j, k < 4 ∧ returned r k = true ∧ j < x.record.elems ∧ marked s.poison (ret r k j) 4 = true
    let dropped (n drops : Nat) : Prop := drops < 2 ^ n ∧
      ∀ row, row < n → (drops.testBit row = true ↔ ∀ k, k < 4 → returned row k = false)
    let trapsLate : Prop := late = true ∧ x.record.flags / 2 % 2 = 1
    let written (n : Nat) (u : State) : Prop := u.pillars = s.pillars.filter (fun p => p.id != x.id) ∧ u.regs = s.regs ∧
      (∀ a, (∀ r j, r < n → j < x.record.elems → a < out r j ∨ out r j + 4 ≤ a) → u.mem.read a = s.mem.read a) ∧
      ((∀ r j q k, r < x.record.rows → j < x.record.elems → q < x.record.rows → k < x.record.elems →
         ((r, j) ≠ (q, k) → out r j + 4 ≤ out q k ∨ out q k + 4 ≤ out r j) ∧
         (r < q → ∀ i, i < 4 → out r j + 4 ≤ ret q i k ∨ ret q i k + 4 ≤ out r j)) →
       (∀ r j i, r < x.record.rows → j < x.record.elems → i < 4 → regionOf (out r j) ≠ .link ∧ regionOf (ret r i j) ≠ .link) →
       ∀ r j, r < n → j < x.record.elems → u.mem.readNat (out r j) 4 =
         ((weightedSum (([0, 1, 2, 3].filter fun k => returned r k).map fun k =>
           ((x.weights[4 * r + k]?).getD 0, s.mem.readNat (ret r k j) 4))).getD 0) % 2 ^ 32)
    ((∀ r, r < x.record.rows → ¬ poisoned r) → ∃ (u : State) (drops : Nat), exec (.reassembly stop entry) s = .next u ∧
      dropped x.record.rows drops ∧ written x.record.rows u ∧
      u.tile? stop entry = some { x with status := if late then .partly else .done, dropbits := drops } ∧
      ∀ h, s.hartOf? x.owner = some h → ∃ g, u.hartOf? x.owner = some g ∧ g.timeouts = h.timeouts ∧ g.faults = h.faults ∧
        (x.record.flags % 2 = 1 ∧ ¬ trapsLate → h.lamps.length < 16 → g.lamps = h.lamps ++ [⟨true, x.handle⟩]) ∧
        (¬ (x.record.flags % 2 = 1 ∧ ¬ trapsLate) → g.lamps = h.lamps)) ∧
    (∀ f, f < x.record.rows → poisoned f → (∀ r, r < f → ¬ poisoned r) →
      ∃ (u : State) (drops : Nat), exec (.reassembly stop entry) s = .next u ∧ dropped f drops ∧ written f u ∧
        u.tile? stop entry = some { x with status := .fault, dropbits := drops, firstUnwritten := f } ∧
        ∀ h, s.hartOf? x.owner = some h → ∃ g, u.hartOf? x.owner = some g ∧ g.timeouts = h.timeouts ∧
          g.faults = h.faults ++ [x.handle] ∧ g.lamps = h.lamps)) ∧
  (let product (w v : Nat) := (mulOf (fp32.value w) (fp32.value v)).1
   weightedSum [] = none ∧
   weightedSum [(0x3F800000, 0x3F800000), (0x3F800000, 0x33800000), (0x3F800000, 0x33800000)] = some 0x3F800000 ∧
   (∀ w v, weightedSum [(w, v)] = some (fp32.fit .rne false 0 (product w v)).bits) ∧
   (∀ ps w v x, weightedSum ps = some x →
     weightedSum (ps ++ [(w, v)]) = some (fp32.fit .rne false 0 (sumOf false [fp32.value x, product w v]).1).bits)) ∧
  (∀ (a b : SReg) (s : State), let t := s.onHart Hart.endStrip
    (s.tileOf s.h.stop (s.h.get b) = none → exec (.rwait a b) s = .next (t.writes a 15)) ∧
    (∀ x, s.tileOf s.h.stop (s.h.get b) = some x →
      (x.status = .running → exec (.rwait a b) s = .next (t.onHart fun h => { h with blocked := true })) ∧
      (x.status ≠ .running → exec (.rwait a b) s = .next (({ (t.onHart fun h => { h with rbuf := [] }) with
        routeTiles := s.routeTiles.filter (fun y => y.id != x.id) } : State).writes a x.word)))) ∧
  (∀ (a b c : SReg) (s : State), let sel := (s.h.get c).toNat
    (s.tileOf s.h.stop (s.h.get b) = none → exec (.rstat a b c) s = .next (s.writes a (if sel = 0 then 15 else 0))) ∧
    (∀ x, s.tileOf s.h.stop (s.h.get b) = some x →
      (sel = 0 → exec (.rstat a b c) s =
        .next ((if x.status = .running then s else s.onHart Hart.acquire).writes a x.word)) ∧
      (sel = 1 → exec (.rstat a b c) s = .next (s.writes a (BitVec.ofNat 64 x.dropbits))) ∧
      (sel = 2 → exec (.rstat a b c) s = .next (s.writes a (BitVec.ofNat 64 x.firstUnwritten))) ∧
      (sel = 3 → (x.left = 0 ∨ x.expired = true ∨ x.status ≠ .running → exec (.rstat a b c) s = .next (s.writes a 0)) ∧
        (x.left ≠ 0 → x.expired = false → x.status = .running → ∃ tick n, 1 ≤ n ∧ n ≤ x.left ∧
          exec (.rstat a b c) s = .next (({ (s.onTile x.stop x.entry fun y => { y with left := n }) with tick := tick } :
            State).writes a (BitVec.ofNat 64 n)))) ∧
      (3 < sel → exec (.rstat a b c) s = .next (s.writes a 0)))) ∧
  (∀ x : RouteTile, x.word = BitVec.ofNat 64 ((x.slots.filter fun y => y == .late).length * 2 ^ 48 +
    (x.slots.filter fun y => y == .dropped).length * 2 ^ 32 + (x.slots.filter fun y => y == .returned).length * 2 ^ 16 +
    (match x.status with | .running => 0 | .done => 1 | .partly => 2 | .fault => 3)))

/-! ### The device: errors, debug, host -/

/-- 08 R165 to R168, 23 R342, R344, 24 R354, R357: a core's error removes its harts, streams, tiles, farms and pushes, counts
them lost at their launches, drops the route slots that its targets hold and tells each surviving gang member once more;
CORE_RESET makes the core usable again; HALTREQ and GOREQ act on the selected harts; DBGDATA reads and writes what DBGSEL names,
and reads zero and ignores writes where it names nothing; an error is counted at the stack that homes its word and, if
uncorrectable, marks it; the counters of cores, stacks and links clear; the host reads and writes device memory once READY.
Three points are the model's choice: what else goes with a lost core, its Pillar entries, pushes, matrix state, completion words,
ring messages and instruction cache, while a stream in FAULT is kept for its resumption (log 43; R166 is silent on them), and a
strip request to a farm of the core is renamed, so that its home answers −1 (log 48); that an error is counted and marked at
once, as it occurs (log 22); and that DBGDATA reads the bits that a poisoned word holds (log 76). -/
def Obligations.DeviceErrorsAndDebug : Prop :=
  (∀ (stop : Nat) (s : State), (s.harts.map (·.key)).Nodup → ∃ u : State, exec (.coreError stop) s = .next u ∧
    u.harts.map (·.key) = (s.harts.filter fun h => h.stop != stop).map (·.key) ∧ stop ∈ u.failed ∧
    u.streams = s.streams.filter (fun x => x.stop != stop) ∧ u.pillars = s.pillars.filter (fun x => x.stop != stop) ∧
    u.matrices = s.matrices.filter (fun x => x.stop != stop) ∧ (∀ f ∈ u.farms, f.stop ≠ stop) ∧
    (∀ x ∈ u.routeTiles, x.stop ≠ stop) ∧
    u.pushes = s.pushes.filter (fun p => p.stop != stop && !s.harts.any fun h => h.stop == stop && p.dest == some h.key) ∧
    u.finals = s.finals.filter (fun x => x.stop != stop) ∧ u.icaches = s.icaches.filter (fun x => x.1 != stop) ∧
    u.orphans = s.orphans ++ s.streams.filter (fun x => x.stop == stop && x.faulted) ∧
    (∀ m ∈ u.ring, (∃ x ∈ s.ring, m = x ∨ ∃ f ∈ s.farms, f.stop = stop ∧ m = x.orphan f.stop f.entry) ∧
      m.queuedAt stop = false ∧ ∀ h ∈ s.harts, h.stop = stop → m.asks h.key = false) ∧
    (∀ g ∈ u.targets, ∀ r ∈ g.rows, r.tileStop ≠ stop) ∧
    (∀ lid l, s.launchOf lid = some l →
      let n := (s.harts.filter fun h => h.stop == stop && h.key.lid == lid).length
      ∃ x, u.launchOf lid = some x ∧ x.gone = l.gone + n ∧ x.lost = (l.lost || decide (0 < n))) ∧
    (∀ h ∈ u.harts, ∀ x ∈ s.harts, x.key = h.key →
      let hit : Prop := h.gang = true ∧ ∃ y ∈ s.harts, y.stop = stop ∧ y.key.lid = h.key.lid
      (hit → h.gangLost = x.gangLost ++ [stop]) ∧ (¬ hit → h.gangLost = x.gangLost)) ∧
    (∀ g ∈ u.targets, ∀ h ∈ s.harts, h.stop = stop → g.owner ≠ h.key) ∧
    ((s.routeTiles.map fun y => (y.stop, y.entry)).Nodup → (s.targets.map (·.owner)).Nodup →
      ∀ y ∈ s.routeTiles, y.stop ≠ stop → ∃ z ∈ u.routeTiles, z = { y with slots := z.slots } ∧
        ∀ (i id q : Nat), y.slots[i]? = some (.reserved id q) →
          let lost : Prop := y.status = .running ∧ ∃ h ∈ s.harts, h.stop = stop ∧ ∃ g ∈ s.targets, g.owner = h.key ∧
            ∃ r ∈ g.rows, r.tileStop = y.stop ∧ r.tileEntry = y.entry ∧ r.tileGen = y.gen ∧ 4 * r.row + r.slot = i
          (lost → z.slots[i]? = some .dropped) ∧ (¬ lost → z.slots[i]? = y.slots[i]?))) ∧
  (∀ stop s, exec (.coreReset stop) s = .next { s with failed := s.failed.filter fun x => x != stop }) ∧
  (∀ (stop : Nat) (v : Word) (s : State), let picked (h : Hart) : Prop := h.stop = stop ∧ h.saved = false ∧
      (v.getLsbD 12 = true ∨ h.slot = v.toNat / 256 % 16)
    (∃ u : State, exec (.dbgHaltreq stop v) s = .next u ∧ (u.core stop).dbgctl = v &&& 0x1F00 ∧
      u.harts = s.harts.map fun h => if picked h ∧ h.halted = false then { h with haltReq := true } else h) ∧
    (∃ u : State, exec (.dbgGoreq stop v) s = .next u ∧ (u.core stop).dbgctl = v &&& 0x1F00 ∧
      u.harts = s.harts.map fun h =>
        if picked h ∧ h.halted = true then { h with halted := false, strip := [], rbuf := [] } else h)) ∧
  (∀ (stop : Nat) (s : State) (h : Hart) (i : Nat), s.debugHart stop = some h → let sel := (s.core stop).dbgsel.toNat
    (sel = i → i < 32 →
      exec (.dbgdata stop none) s = .next { s with hostData := h.get (BitVec.ofNat 5 i) } ∧
      ∀ v, exec (.dbgdata stop (some v)) s = .next (s.onKey h.key (·.set (BitVec.ofNat 5 i) v))) ∧
    (sel = 0x10000000 + i → i < 4096 →
      exec (.dbgdata stop none) s = .next { s with hostData := s.crRead h i } ∧
      ∀ v, let t := (s.focus h.key).onHart fun g => { g with level := .supervisor }
        (s.focus h.key).h = h → exec (.dbgdata stop (some v)) s =
          .next (((t.crWrite i v).onHart fun g => { g with level := h.level }).focus s.h.key)) ∧
    (sel = 0x20000000 + i → i < 0x20000 → let loc := regLoc stop (i / 2048) (i % 2048 * 8)
      exec (.dbgdata stop none) s = .next { s with hostData := BitVec.ofNat 64 (s.regs.readNat loc 8) } ∧
      ∀ v, ∃ marks, exec (.dbgdata stop (some v)) s =
        .next { s with regs := s.regs.writeNat loc 8 v.toNat, regPoison := marks } ∧ loc / 8 ∉ marks ∧
          ∀ w, w ≠ loc / 8 → (w ∈ marks ↔ w ∈ s.regPoison))) ∧
  (∀ (stop : Nat) (s : State), let sel := (s.core stop).dbgsel.toNat
    let index := sel % 0x20000
    2 < sel / 0x10000000 ∨ (sel / 0x10000000 = 0 ∧ 32 ≤ index) ∨ (sel / 0x10000000 = 1 ∧ 4096 ≤ index) →
      exec (.dbgdata stop none) s = .next { s with hostData := 0 } ∧ ∀ v, exec (.dbgdata stop (some v)) s = .next s) ∧
  (∀ pa, pa < 0x8000000000 → homeDie pa < 4 ∧
    (homeDie pa).testBit 0 = ((List.range 12).map fun k => pa.testBit (16 + 2 * k)).foldl Bool.xor false ∧
    (homeDie pa).testBit 1 = ((List.range 11).map fun k => pa.testBit (17 + 2 * k)).foldl Bool.xor false) ∧
  homeDie 0x30080 = 3 ∧ homeDie 0x100050000 = 1 ∧
  (∀ (pa : Nat) (correctable : Bool) (s : State), pa < 0x8000000000 → let k := 2 * homeDie pa + pa / 128 % 2
    let old := (s.hbm[k]?).getD (0, 0)
    let up (w : Word) : Word := if w = BitVec.allOnes 64 then w else w + 1
    let t : State := { s with
      hbm := s.hbm.set! k (if correctable then (up old.1, old.2) else (old.1, up old.2))
      poison := if correctable then s.poison else insertSorted s.poison (pa / 8) }
    let u := if correctable then t else t.onAll fun h => h.pinStrip (pa / 8 * 8) 8 true
    exec (.softError (.mem pa) correctable) s = .next u ∧ exec (.patrolScrub pa (some correctable)) s = .next u ∧
    exec (.patrolScrub pa none) s = .next s) ∧
  (∀ (stop lane off : Nat) (correctable : Bool) (s : State), ∃ u : State,
    exec (.softError (.reg stop lane off) correctable) s = .next u ∧
    u.regPoison = (if correctable then s.regPoison else insertSorted s.regPoison (regLoc stop lane off / 8)) ∧
    ((u.core stop).uncorrectable = if correctable ∨ (s.core stop).uncorrectable = BitVec.allOnes 64
      then (s.core stop).uncorrectable else (s.core stop).uncorrectable + 1)) ∧
  (∀ (stop : Nat) (s : State), stop < 160 → ∃ u v : State,
    exec (.counterClear (0xF000028100018 + stop * 0x1000)) s = .next u ∧
    exec (.counterClear (0xF000028100020 + stop * 0x1000)) s = .next v ∧
    u.core stop = { s.core stop with corrected := 0 } ∧ v.core stop = { s.core stop with uncorrectable := 0 }) ∧
  (∀ (k : Nat) (s : State), k < 8 → let old := (s.hbm[k]?).getD (0, 0)
    exec (.counterClear (0xF000028200000 + k * 0x1000)) s = .next { s with hbm := s.hbm.set! k (0, old.2) } ∧
    exec (.counterClear (0xF000028200008 + k * 0x1000)) s = .next { s with hbm := s.hbm.set! k (old.1, 0) }) ∧
  (∀ (j : Nat) (s : State), j < 12 → ∃ u : State, exec (.counterClear (0xF000028500010 + j * 0x100)) s = .next u ∧
    u.link j = { s.link j with loss := 0 } ∧ ∀ k, k ≠ j → u.link k = s.link k) ∧
  (∀ (a base n : Nat) (s : State), s.hdm = some base → base ≤ a → a + n ≤ base + 0x8000000000 → let pa := a - base
    (s.devstat.getLsbD 0 = false → s.holdsInput ⟨.hostMemAccess a n none, none⟩ = true ∧
      ∀ v, s.holdsInput ⟨.hostMemAccess a n (some v), none⟩ = true) ∧
    (s.devstat.getLsbD 0 = true → s.outside = none →
      exec (.hostMemAccess a n none) s = .next { s with hostData := BitVec.ofNat 64 (s.mem.readNat pa n) } ∧
      ∀ v, ∃ u : State, exec (.hostMemAccess a n (some v)) s = .next u ∧ u.mem = s.mem.writeNat pa n v.toNat ∧
        u.regs = s.regs ∧ u.poison = remark s.poison pa n false ∧
        ∀ h ∈ u.harts, ∀ l ∈ h.rbuf, l.line * 128 + 128 ≤ pa ∨ pa + n ≤ l.line * 128))

/-! ### The device: Assay, mesh, links, attestation, power -/

/-- 23 R346, R348 to R350, R353, 24 R360 to R364: an Assay close snapshots the pages written since the last one and a
second one is held; its hashing makes the snapshot the final epoch, of whose pages and nodes the tree holds the BLAKE3 values; the mesh monitor sets and clears NETTHR.TP; links go down
and up, and accepted pushes to their node are delivered; a removed node drops its pushes and counts them; the responder
answers; the security version only rises; power modes change through POWERCTL and thermal holds; at power-good the boot
ROM checks the image, and the device is dead where it is refused; then the links are trained, memory is set to zero, and the
stewards are placed and READY set. The model's choices: a removed node leaves its links down with node 0 and its pushes are
counted at each of them, accepted pushes are delivered as the link returns, and the mesh mean is an integer (log 49); what
the host and firmware configure are constants (log 14); OVER and WATTS are free at every grant (log 17); the signatures are
uninterpreted, and that a node value holds the hash's first byte lowest is an inference (log 18); GET_MEASUREMENTS of an index
that R361 does not name leaves no answer (log 50). -/
def Obligations.DeviceManagement : Prop :=
  (∀ s : State,
    (s.assay.busy = none → ∃ u : State, exec .assayctlClose s = .next u ∧ (∃ m : Memory, u.assay.busy = some m ∧
        (s.canonical = true → s.assay.final.wf = true → s.assay.final.cells.all (fun c => c.1 < 0x8000000000) = true →
          ∀ a, a < 0x8000000000 → m.read a =
          if s.assay.allDirty = true ∨ a / 65536 ∈ s.assay.dirty then s.mem.read a else s.assay.final.read a)) ∧
      u.assay.dirty = [] ∧ u.assay.allDirty = false ∧ u.assay.final = s.assay.final ∧ u.mem = s.mem) ∧
    (s.assay.busy.isSome = true →
      exec .assayctlClose s = .next { s with assay := { s.assay with held := true } }) ∧
    (∀ m, s.assay.busy = some m → ∃ u : State, exec .assayRehashDone s = .next u ∧ u.assay.final = m ∧
      u.assay.epoch = s.assay.epoch + 1 ∧ u.assay.busy.isSome = s.assay.held ∧ u.assay.held = false ∧ u.mem = s.mem)) ∧
  (∀ (die lmax lmean : Nat) (s : State), die < 4 → let n := (s.die die).netthr
    let thr := n.toNat % 65536
    ∃ u : State, exec (.meshMonitorWindow die lmax lmean) s = .next u ∧ (u.die die).netthr =
      if n.toNat / 65536 % 4 ≠ 0 then n
      else if thr < lmax - lmean then n ||| 0x80000000
      else if 2 * (lmax - lmean) ≤ thr then n &&& ~~~0x80000000 else n) ∧
  (∀ (j : Nat) (s : State), j < 12 → ∃ u v : State,
    exec (.linkDown j) s = .next u ∧ u.link j = { s.link j with up := false } ∧
    exec (.linkUp j) s = .next v ∧ v.link j = { s.link j with up := true } ∧
    (∀ p ∈ v.pushes, ¬ (p.dest = none ∧ p.node = (s.link j).node)) ∧
    (∀ p ∈ s.pushes, (∀ q ∈ s.pushes, q.dest = none → q.node = (s.link j).node → q.id ≠ p.id) → p ∈ v.pushes) ∧
    ∀ k, k ≠ j → u.link k = s.link k ∧ v.link k = s.link k) ∧
  (∀ (node : Nat) (s : State), let n := (s.pushes.filter fun p => p.dest.isNone && p.node == node).length
    ∃ u : State, exec (.nodeRemoval node) s = .next u ∧
      u.pushes = s.pushes.filter (fun p => !(p.dest.isNone && p.node == node)) ∧
      ∀ j, j < 12 → u.link j = if (s.link j).node = node then
        ⟨false, 0, if (s.link j).loss.toNat + n < 2 ^ 64 then (s.link j).loss + BitVec.ofNat 64 n else BitVec.allOnes 64⟩
        else s.link j) ∧
  (∀ s : State, let gave (m : Spdm) : State := { s with spdm := some m }
    exec .getVersion s = .next (gave (.version 1 3)) ∧ exec .getCapabilities s = .next (gave .capabilities) ∧
    exec .negotiateAlgorithms s = .next (gave (.algorithms "Ed25519" "SHA-512")) ∧
    exec .getDigests s = .next (gave (.digests (sha512 Config.certificateChain))) ∧
    exec .getCertificate s = .next (gave (.certificate Config.certificateChain)) ∧
    (∀ nonce, exec (.challenge nonce) s = .next (gave (.challengeAuth (Config.challengeSignature nonce)))) ∧
    exec (.getMeasurements 1) s = .next (gave (.measurements (sha512 Config.bootRom))) ∧
    exec (.getMeasurements 2) s = .next (gave (.measurements (sha512 (Config.firmwareImage.take 32 ++
      (Config.firmwareImage.drop 160).take (leNat ((Config.firmwareImage.drop 16).take 8)))))) ∧
    exec (.getMeasurements 3) s = .next (gave (.measurements (sha512 (Config.supervisorImage.map (·.2))))) ∧
    (∀ i, i = 0 ∨ 3 < i → exec (.getMeasurements i) s = .next { s with spdm := none }) ∧
    (∀ v : Word, ∃ u : State, exec (.securityVersionWrite v) s = .next u ∧
      u = { s with secver := u.secver } ∧
      u.secver.toNat = if s.secver.toNat < v.toNat ∧ v.toNat ≤ 63 then v.toNat else s.secver.toNat) ∧
    (∀ v : Word, let m := v.toNat % 4
      exec (.powerModeWrite v) s = .next (if m = 3 then s else { s with
        powerMode := m, powerPending := true, powerFloor := min (modeFloor s.powerAct) (modeFloor m) })) ∧
    (let inForce (m : Nat) (hot : Bool) : State := { s with powerAct := m, powerFloor := modeFloor m, powerPending := false, therm := hot }
     (∃ hot watts, exec .powerGrant s = .next { (inForce (if s.therm then 2 else s.powerMode) s.therm) with
       tick := s.tick + 1, powerOver := hot, powerWatts := watts }) ∧
     exec .thermalHold s = .next (inForce 2 true) ∧ exec .thermalRelease s = .next (inForce s.powerMode false)) ∧
    (∀ (m : Memory) (i : Nat), assayNode m 0 i = blake3 (m.readBytes (i * 65536) 65536) ∧
      ∀ k, k < 6 → assayNode m (k + 1) i = blake3 ((List.range (if k = 5 then 8 else 16)).flatMap fun j =>
        leBytes 16 (assayNode m k (16 * i + j)).toNat)) ∧
    blake3 [0x61, 0x62, 0x63] = 0xB58D3A27753BB6FF33514638ACB33764 ∧
    sha512 [0x61, 0x62, 0x63] = 0x9FA44CA54FC99A2A0EE83C6423444D45BDEBFEA3233CBA36A8C14F272A9992219AD3554BE6EE9E0AA27EA9894EFAE612314120AE497341CCBA7A6193A135AFDD ∧
    modeFloor 0 = 2200 ∧ modeFloor 1 = 2400 ∧ modeFloor 2 = 1600) ∧
  (∀ s : State, let image := Config.firmwareImage
    let field (off n : Nat) : Nat := leNat ((image.drop off).take n)
    let body := (image.drop 160).take (field 16 8)
    let digest := sha512 (image.take 32 ++ body)
    let accepted : Prop := image.take 4 = [0x4F, 0x4E, 0x46, 0x57] ∧ field 4 4 = 1 ∧ field 8 4 ≤ 63 ∧ field 12 4 = 0 ∧
      1 ≤ field 16 8 ∧ field 16 8 ≤ 2 ^ 26 ∧ field 24 8 = 0 ∧ body.length = field 16 8 ∧
      BitVec.ofNat 512 (field 32 64) = digest ∧ Config.ed25519Verify digest (BitVec.ofNat 512 (field 96 64)) = true ∧
      s.secver.toNat ≤ field 8 4
    (s.outside = some .power ∨ s.bringUp = none → ∃ u : State, exec .powerGood s = .next u ∧ u.secver = s.secver ∧ u.regs = ⟨[]⟩ ∧ u.tiles = ⟨[]⟩ ∧
      u.launches = [] ∧ u.harts = [] ∧ (accepted → u.bringUp = some .links ∧ u.devstat = 0) ∧
      (¬ accepted → u.bringUp = none ∧ u.devstat = 2)) ∧
    (s.outside ≠ some .power → s.bringUp = some .links → ∃ u : State, exec .powerGood s = .next u ∧ u.bringUp = some .memory ∧
      u.hdm = some Config.hdmBase ∧ u.mem = s.mem ∧ u.devstat = s.devstat ∧
      ∀ j, j < 12 → u.link j = ⟨Config.linkTrained j, Config.linkNode j % 256, 0⟩) ∧
    (s.outside ≠ some .power → s.bringUp = some .memory → ∃ u : State, exec .powerGood s = .next u ∧ u.bringUp = some .stewards ∧
      u.devstat = 4 ∧ (∀ a, a < 0x8000000000 → u.mem.read a = 0 ∧ a / 8 ∉ u.poison) ∧
      (∀ c, (u.core c).corrected = 0 ∧ (u.core c).uncorrectable = 0) ∧ (∀ k, k < 8 → u.hbm[k]? = some (0, 0)) ∧
      (∀ j, j < 12 → (u.link j).loss = 0) ∧ u.assay = {}) ∧
    (s.outside ≠ some .power → s.bringUp = some .stewards → ∃ (u : State) (new : List Hart), exec .powerGood s = .next u ∧ u.bringUp = none ∧
      u.devstat = 5 ∧ (s.assay.en = true → ∀ c ∈ Config.supervisorImage, c.1 < 0x8000000000 →
        u.assay.allDirty = true ∨ c.1 / 65536 ∈ u.assay.dirty) ∧ (∀ d, d < 4 → (u.die d).svec = Config.supervisorVector d ∧ (u.die d).pmin = 255) ∧
      u.harts = s.harts ++ new ∧ new.length = 4 ∧ ∀ i h, new[i]? = some h →
        h.stop / 40 = i ∧ h.stop < 160 ∧ h.slot < 8 ∧ h.prio = 255 ∧ h.level = .user ∧ h.lane0 + h.lanes ≤ 64))

/-! ### Encoding, the step, reset, invariants -/

/-- 03 R28 to R43: what the encoder writes for a well-formed instruction decodes to that instruction, with every operand
at every value its encoding admits, and the first parcel says its length. -/
def Obligations.EncodeThenDecode : Prop :=
  ∀ i : Instr, i.wellFormed = true → decode (encode i).bits = .ok i ∧
    lengthOf ((encode i).bits.extractLsb' 0 16) = (encode i).len

/-- 03 R28 to R44: a window of four parcels that decodes holds a well-formed instruction in its first parcels, and they
are the words that the encoder writes for it: no two patterns are one instruction, and no bit is left unread. -/
def Obligations.DecodeThenEncode : Prop :=
  ∀ (w : BitVec 64) (i : Instr), decode w = .ok i → i.wellFormed = true ∧
    (encode i).bits.toNat = w.toNat % 2 ^ (16 * lengthOf (w.extractLsb' 0 16)) ∧
    (encode i).len = lengthOf (w.extractLsb' 0 16)

/-- Words that the spec writes out, of every shape of encoding, decode to the instructions they stand for (06 R99 to
R113, 19 R305, 21 R323, 09 R171, R187, R196, R197, 11 R232, 03 R38, R40); majors 43, 47, 56, 61 and 62, a compressed op4
of 15, a reserved prefix kind and a lone tile body are no instruction (03 R44). -/
def Obligations.DecodedWords : Prop :=
  decode 0x635C8000 = .ok (.add 12 13 14) ∧ decode 0x635D8000 = .ok (.addw 12 13 14) ∧
  decode 0x63988C00 = .ok (.st .d 12 14 0) ∧
  decode 0x6000A600 = .ok (.crd 12 0x000) ∧ decode 0x6002A780 = .ok (.crd 12 0x0B0) ∧
  decode 0x0000A202 = .ok (.ptb 0 2) ∧ decode 0x0358A400 = .ok (.brtnz 0 13) ∧
  decode 0x0000A62C = .ok (.trap 5) ∧ decode 0x0000A605 = .ok .resume ∧ decode 0x0000A607 = .ok .halt ∧
  decode 0x0000AA0B = .ok .uiret ∧ decode 0x0300AC00 = .ok (.sstart 0 12) ∧ decode 0x6B00AC01 = .ok (.swait 13 12) ∧
  decode 0x6340AC04 = .ok (.rbind 12 13) ∧ decode 0x0000AC05 = .ok .runbind ∧ decode 0x83E2AC08 = .ok (.rret 16 15 17) ∧
  decode 0x0B9AAE02 = .ok (.winv 1 14 13) ∧ decode 0x034CB801 = .ok (.vpush 13 6) ∧ decode 0x0280B802 = .ok (.vfe 10 0) ∧
  decode 0x0000DA02 = .ok .lend ∧ decode 0x6800 = .ok .cNop ∧
  (∀ m ∈ [43, 47, 56, 61, 62], ∀ w : BitVec 64, w.getLsbD 15 = true → w.toNat / 2 ^ 9 % 64 = m →
    ∃ r, decode w = .error r) ∧
  (∀ w : BitVec 64, w.toNat / 2 ^ 11 % 32 = 15 → ∃ r, decode w = .error r) ∧
  (∀ m ∈ [58, 59, 60], ∀ w : BitVec 64, w.getLsbD 15 = true → w.toNat / 2 ^ 9 % 64 = m → decode w = .error .loneTile) ∧
  (∀ w : BitVec 64, w.getLsbD 15 = true → w.toNat / 2 ^ 9 % 64 = 63 → 2 ≤ w.toNat % 8 → decode w = .error .prefixKind)

/-- 03 R28, R44, R45: a step of the hart in focus with nothing due at its boundary fetches the parcels at its pc from
memory and executes the instruction they decode to; a pattern that is no instruction is the illegal-instruction event; a
fetch that fails is a trap; the step of an event is that of its instruction; then the next turn is chosen. -/
def Obligations.StepRunsDecoded : Prop :=
  (∀ (s : State) (loc : Nat → Nat), s.h.pc.toNat % 2 = 0 →
    let p (k : Nat) : Nat := s.mem.readNat (loc k) 2
    let n := lengthOf (BitVec.ofNat 16 (p 0))
    (∀ k, k < n → s.locate s.h.space (s.h.pc + BitVec.ofNat 64 (2 * k)) .fetch = (.ok (loc k), s) ∧
      regionOf (loc k) ≠ .control ∧ regionOf (loc k) ≠ .link ∧ marked s.poison (loc k) 2 = false ∧
      ∀ q ∈ s.cachedAt (loc k), q = BitVec.ofNat 16 (p k)) →
    ∃ t : State, Gives (fetchCode s.h.pc) s
        ⟨n, BitVec.ofNat 64 (((List.range n).map fun k => p k * 2 ^ (16 * k)).foldl (· + ·) 0)⟩ t ∧
      t = { s with icaches := t.icaches }) ∧
  (∀ (s t : State) (c : Code), s.turn = .hart → s.h.due = none → Gives (fetchCode s.h.pc) s c t →
    (∀ i u, decode c.bits = .ok i → exec i t = .next u → step s = .next u.endStep) ∧
    (∀ r u, decode c.bits = .error r → exec (.illegalInstruction c.bits) t = .next u → step s = .next u.endStep)) ∧
  (∀ (s t : State) (cause : Nat) (v : Word), s.turn = .hart → s.h.due = none →
    (fetchCode s.h.pc).run.run s = (.error (.trap cause v), t) → step s = .next (t.takeTrap cause v).endStep) ∧
  (∀ (s u : State) (e : Event), (s.turn = .event e ∨ (s.turn = .hart ∧ s.h.due = some (.event e))) →
    exec e.instr s = .next u → step s = .next u.endStep)

/-- What reset leaves (08 R150, 23 R346, R349, 24 R354, R360, R362): the values of the device's registers; every
invariant of the model holds. What a member holds at its entry (01 R9, 09 R195). The model's choices: memory, register memory
and tiles read zero, and nothing carries a mark (log 1); what the spec gives no reset value for is zero or empty, NETTHR and the
power state apart (log 2); power-good is due, with no step of bring-up begun and no decoder of the host (log 14). -/
def Obligations.ResetState : Prop :=
  let s := State.reset
  (∀ d, d < 4 → (s.die d).pmin = 255 ∧ (s.die d).netthr = 0x100) ∧
  s.assay.epoch = 0 ∧ s.assay.en = true ∧ s.assay.allDirty = true ∧ s.assay.busy = none ∧
  s.powerMode = 1 ∧ s.powerAct = 1 ∧ s.powerFloor = 2400 ∧ s.therm = false ∧ s.secver = Config.fusedMinimum ∧
  s.powerOver = false ∧ s.powerWatts = 0 ∧ s.devstat = 0 ∧ s.bringUp = none ∧ s.hdm = none ∧
  s.turn = .event .powerGood ∧ s.outside = none ∧ s.part = none ∧ s.icaches = [] ∧ s.finals = [] ∧
    s.harts = [] ∧ s.launches = [] ∧ s.streams = [] ∧ s.orphans = [] ∧ s.pillars = [] ∧ s.farms = [] ∧ s.targets = [] ∧
  s.routeTiles = [] ∧ s.pushes = [] ∧ s.poison = [] ∧ s.regPoison = [] ∧ (∀ a, s.mem.read a = 0) ∧
  s.canonical = true ∧ s.turnFits = true ∧ s.extentsOk = true ∧
  ∀ (l : Launch) (p : Seat), let h := l.member p
    h.pc = l.record.entry ∧ h.get 4 = l.record.args ∧ h.get 5 = BitVec.ofNat 64 l.placed ∧
    (∀ r : SReg, r ≠ 4 → r ≠ 5 → h.get r = 0) ∧ (∀ i : Fin 8, h.b[i] = 0) ∧ h.vl = 0 ∧ h.vstart = 0 ∧
    h.vtype = 0x8000000000000000 ∧ h.vshape = 0 ∧ (∀ i : Fin 28, h.vw[i] = 0) ∧ (∀ i : Fin 8, h.mw[i] = 0) ∧
    (∀ i : Fin 16, h.gw[i] = 0 ∧ h.iw[i] = 0) ∧ h.fcsr = 0 ∧ h.seed = 0 ∧ h.sbase = 0 ∧ h.sstep = 0 ∧ h.tann = 1 ∧
    h.det = l.record.flags.getLsbD 1 ∧ h.tan = l.record.flags.getLsbD 2 ∧ h.lampEnable = false ∧ h.step = false ∧
    h.ordscope = 2 ∧ h.level = .user ∧ (∀ v, v < 28 → h.full.getLsbD v = true)

/-- Every step keeps every storage in canonical form, and MROWS and MCOLS of every core at most 64 (13 R238); the
canonical form is the model's own (log 1). -/
def Obligations.StorageInvariantKept : Prop :=
  ∀ s t : State, s.canonical = true → s.extentsOk = true → step s = .next t → t.canonical = true ∧ t.extentsOk = true

/-- After every step the turn is a hart's only when that hart can issue: it is placed, and neither frozen, halted, saved
nor waiting (07 R139, R140, R143, 08 R168). -/
def Obligations.TurnInvariantKept : Prop :=
  ∀ s t : State, s.turnFits = true → step s = .next t → t.turnFits = true
end

