-- ==== Sys2Proof/Laws/Memory.lean ====
section
/-! SUPPORT. Sparse storage: a read after a write, and that every operation keeps the canonical form. -/
namespace Sys2Proof.Machine

/-! ### One byte -/

theorem cellsWf_mono {lo lo' : Option Nat} (cs : List Host.Cell) (h : cellsWf lo cs = true)
    (hle : ∀ l', lo' = some l' → ∃ l, lo = some l ∧ l' ≤ l) : cellsWf lo' cs = true := by
  cases cs with
  | nil => rfl
  | cons c cs =>
    simp only [cellsWf, Bool.and_eq_true] at h ⊢
    refine ⟨⟨?_, h.1.2⟩, h.2⟩
    cases lo' with
    | none => rfl
    | some l' =>
      obtain ⟨l, rfl, hl⟩ := hle l' rfl
      have := h.1.1
      simp only [decide_eq_true_eq] at this ⊢
      omega

theorem cellsWf_none {lo : Option Nat} {cs : List Host.Cell} (h : cellsWf lo cs = true) : cellsWf none cs = true :=
  cellsWf_mono cs h (by simp)

/-- Reading below the first listed address gives zero. -/
theorem cellsRead_below {lo : Option Nat} (cs : List Host.Cell) (h : cellsWf lo cs = true) (a : Nat)
    (ha : ∀ l, lo = some l → a ≤ l) (hs : lo.isSome) : cellsRead cs a = 0 := by
  cases cs with
  | nil => rfl
  | cons c cs =>
    obtain ⟨l, rfl⟩ := Option.isSome_iff_exists.mp hs
    simp only [cellsWf, Bool.and_eq_true, decide_eq_true_eq] at h
    have := ha l rfl
    have h1 : c.1 ≠ a := by omega
    have h2 : a < c.1 := by omega
    simp [cellsRead, h1, h2]

theorem cellsRead_write_same (cs : List Host.Cell) (a : Nat) (v : Byte) (lo : Option Nat) (h : cellsWf lo cs = true) :
    cellsRead (cellsWrite cs a v) a = v := by
  induction cs generalizing lo with
  | nil =>
    simp only [cellsWrite]
    split <;> simp [cellsRead, *]
  | cons c cs ih =>
    have hcs : cellsWf (some c.1) cs = true := by
      simp only [cellsWf, Bool.and_eq_true] at h; exact h.2
    unfold cellsWrite
    by_cases h1 : c.1 = a
    · subst h1
      simp only [if_true]
      split
      · rename_i hv
        rw [hv]
        exact cellsRead_below cs hcs _ (by simp) rfl
      · simp [cellsRead]
    · by_cases h2 : a < c.1
      · simp only [h1, h2, if_true, if_false]
        split <;> simp [cellsRead, *]
      · simp only [h1, h2, if_false]
        simp only [cellsRead, h1, h2, if_false]
        exact ih _ hcs

theorem cellsRead_write_other (cs : List Host.Cell) (a b : Nat) (v : Byte) (hab : b ≠ a) (lo : Option Nat)
    (h : cellsWf lo cs = true) : cellsRead (cellsWrite cs a v) b = cellsRead cs b := by
  induction cs generalizing lo with
  | nil =>
    simp only [cellsWrite]
    split
    · rfl
    · simp [cellsRead, Ne.symm hab]
  | cons c cs ih =>
    have hcs : cellsWf (some c.1) cs = true := by
      simp only [cellsWf, Bool.and_eq_true] at h; exact h.2
    unfold cellsWrite
    by_cases h1 : c.1 = a
    · subst h1
      simp only [if_true]
      by_cases hb : b < c.1
      · have := cellsRead_below cs hcs b (by intro l hl; simp at hl; omega) rfl
        split <;> simp [cellsRead, Ne.symm hab, hb, this]
      · split <;> simp [cellsRead, Ne.symm hab, hb]
    · by_cases h2 : a < c.1
      · simp only [h1, h2, if_false, if_true]
        split
        · rfl
        · rw [cellsRead]
          simp only [Ne.symm hab, if_false]
          by_cases hb : b < a
          · have h3 : c.1 ≠ b := by omega
            have h4 : b < c.1 := by omega
            simp [cellsRead, hb, h3, h4]
          · simp [hb]
      · simp only [h1, h2, if_false, cellsRead]
        split
        · rfl
        · split
          · rfl
          · exact ih _ hcs

theorem cellsWf_write (cs : List Host.Cell) (a : Nat) (v : Byte) (lo : Option Nat) (h : cellsWf lo cs = true)
    (ha : ∀ l, lo = some l → l < a) : cellsWf lo (cellsWrite cs a v) = true := by
  induction cs generalizing lo with
  | nil =>
    by_cases hv : v = 0
    · simp [cellsWrite, hv, cellsWf]
    · simp only [cellsWrite, hv, if_false, cellsWf, Bool.and_true, Bool.and_eq_true, decide_eq_true_eq, ne_eq, not_false_iff, and_true]
      cases lo with
      | none => rfl
      | some l => simpa using ha l rfl
  | cons c cs ih =>
    have h0 := h
    simp only [cellsWf, Bool.and_eq_true] at h
    unfold cellsWrite
    by_cases h1 : c.1 = a
    · subst h1
      by_cases hv : v = 0
      · simp only [hv, if_true]
        refine cellsWf_mono cs h.2 ?_
        intro l' hl'
        exact ⟨_, rfl, Nat.le_of_lt (ha l' hl')⟩
      · simp only [hv, if_true, if_false, cellsWf, Bool.and_eq_true]
        exact ⟨⟨h.1.1, by simpa using hv⟩, h.2⟩
    · by_cases h2 : a < c.1
      · by_cases hv : v = 0
        · simpa [h1, h2, hv] using h0
        · simp only [h1, h2, hv, if_true, if_false]
          unfold cellsWf
          simp only [Bool.and_eq_true]
          refine ⟨⟨?_, by simpa using hv⟩, ?_⟩
          · cases lo with
            | none => rfl
            | some l => simpa using ha l rfl
          · unfold cellsWf
            simp only [Bool.and_eq_true, decide_eq_true_eq]
            exact ⟨⟨h2, by simpa using h.1.2⟩, h.2⟩
      · simp only [h1, h2, if_false]
        unfold cellsWf
        simp only [Bool.and_eq_true]
        refine ⟨h.1, ih _ h.2 ?_⟩
        intro l hl
        simp only [Option.some.injEq] at hl
        omega

theorem cellsWf_filter (p : Host.Cell → Bool) (cs : List Host.Cell) (lo : Option Nat) (h : cellsWf lo cs = true) :
    cellsWf lo (cs.filter p) = true := by
  induction cs generalizing lo with
  | nil => rfl
  | cons c cs ih =>
    simp only [cellsWf, Bool.and_eq_true] at h
    by_cases hp : p c = true
    · simp only [List.filter_cons, hp, if_true, cellsWf, Bool.and_eq_true]
      exact ⟨h.1, ih _ h.2⟩
    · simp only [List.filter_cons, hp]
      refine ih _ (cellsWf_mono cs h.2 ?_)
      intro l' hl'
      subst hl'
      exact ⟨_, rfl, Nat.le_of_lt (by simpa using h.1.1)⟩

/-- A read after a write to the same place gives the value written. -/
theorem Memory.read_write_same (m : Memory) (a : Nat) (v : Byte) (h : m.wf = true) : (m.write a v).read a = v :=
  cellsRead_write_same m.cells a v none h

/-- A write leaves every other place alone. -/
theorem Memory.read_write_other (m : Memory) (a b : Nat) (v : Byte) (hab : b ≠ a) (h : m.wf = true) :
    (m.write a v).read b = m.read b :=
  cellsRead_write_other m.cells a b v hab none h

/-! ### The canonical form -/

theorem Memory.wf_write (m : Memory) (a : Nat) (v : Byte) (h : m.wf = true) : (m.write a v).wf = true :=
  cellsWf_write m.cells a v none h (by simp)

theorem Memory.wf_filter (m : Memory) (p : Host.Cell → Bool) (h : m.wf = true) : (Memory.mk (m.cells.filter p)).wf = true :=
  cellsWf_filter p m.cells none h

theorem Memory.wf_writeBytes (m : Memory) (a : Nat) (bs : List Byte) (h : m.wf = true) : (m.writeBytes a bs).wf = true := by
  induction bs generalizing m a with
  | nil => exact h
  | cons b bs ih => exact ih _ _ (m.wf_write a b h)

theorem Memory.wf_writeNat (m : Memory) (a n v : Nat) (h : m.wf = true) : (m.writeNat a n v).wf = true :=
  m.wf_writeBytes a _ h

theorem Memory.wf_zero (m : Memory) (a n : Nat) (h : m.wf = true) : (m.zero a n).wf = true := m.wf_filter _ h

theorem Memory.wf_empty : (Memory.mk []).wf = true := rfl

/-! ### Bytes -/

@[simp] theorem leBytes_length (n v : Nat) : (leBytes n v).length = n := by
  induction n generalizing v with
  | zero => rfl
  | succ n ih => simp [leBytes, ih]

@[simp] theorem Memory.readBytes_length (m : Memory) (a n : Nat) : (m.readBytes a n).length = n := by
  induction n generalizing a with
  | zero => rfl
  | succ n ih => simp [Memory.readBytes, ih]

theorem leNat_leBytes (n v : Nat) : leNat (leBytes n v) = v % 256 ^ n := by
  induction n generalizing v with
  | zero => simp [leBytes, leNat, Nat.mod_one]
  | succ n ih =>
    simp only [leBytes, leNat, ih, BitVec.toNat_ofNat]
    rw [show (2 : Nat) ^ 8 = 256 from rfl, Nat.pow_succ, Nat.mul_comm (256 ^ n) 256, Nat.mod_mul]

theorem Memory.read_writeBytes_outside (m : Memory) (a : Nat) (bs : List Byte) (b : Nat) (h : m.wf = true)
    (hb : b < a ∨ a + bs.length ≤ b) : (m.writeBytes a bs).read b = m.read b := by
  induction bs generalizing m a with
  | nil => rfl
  | cons x xs ih =>
    simp only [List.length_cons] at hb
    rw [Memory.writeBytes, ih _ _ (m.wf_write a x h) (by omega), m.read_write_other a b x (by omega) h]

theorem Memory.read_writeBytes_inside (m : Memory) (a : Nat) (bs : List Byte) (k : Nat) (h : m.wf = true)
    (hk : k < bs.length) : (m.writeBytes a bs).read (a + k) = bs[k] := by
  induction bs generalizing m a k with
  | nil => simp at hk
  | cons x xs ih =>
    cases k with
    | zero =>
      rw [Memory.writeBytes, Memory.read_writeBytes_outside _ _ _ _ (m.wf_write a x h) (by omega)]
      simpa using m.read_write_same a x h
    | succ k =>
      rw [Memory.writeBytes, show a + (k + 1) = a + 1 + k by omega, ih _ _ _ (m.wf_write a x h) (by simpa using hk)]
      rfl

theorem Memory.readBytes_writeBytes (m : Memory) (a : Nat) (bs : List Byte) (h : m.wf = true) :
    (m.writeBytes a bs).readBytes a bs.length = bs := by
  induction bs generalizing m a with
  | nil => rfl
  | cons x xs ih =>
    simp only [List.length_cons, Memory.readBytes, Memory.writeBytes]
    rw [ih _ _ (m.wf_write a x h), Memory.read_writeBytes_outside _ _ _ _ (m.wf_write a x h) (by omega), m.read_write_same a x h]

/-- A number read where it was written. -/
theorem Memory.readNat_writeNat (m : Memory) (a n v : Nat) (h : m.wf = true) : (m.writeNat a n v).readNat a n = v % 256 ^ n := by
  have := m.readBytes_writeBytes a (leBytes n v) h
  simp only [leBytes_length] at this
  rw [Memory.readNat, Memory.writeNat, this, leNat_leBytes]

/-- Bytes apart from a write read as before. -/
theorem Memory.readBytes_writeBytes_apart (m : Memory) (a : Nat) (bs : List Byte) (b n : Nat) (h : m.wf = true)
    (hb : b + n ≤ a ∨ a + bs.length ≤ b) : (m.writeBytes a bs).readBytes b n = m.readBytes b n := by
  induction n generalizing b with
  | zero => rfl
  | succ n ih =>
    rw [Memory.readBytes, Memory.readBytes, ih (b + 1) (by omega), m.read_writeBytes_outside a bs b h (by omega)]

theorem Memory.readNat_writeNat_apart (m : Memory) (a n v b k : Nat) (h : m.wf = true) (hb : b + k ≤ a ∨ a + n ≤ b) :
    (m.writeNat a n v).readNat b k = m.readNat b k := by
  rw [Memory.readNat, Memory.readNat, Memory.writeNat, m.readBytes_writeBytes_apart a _ b k h (by simpa using hb)]

end Sys2Proof.Machine
end

