-- ==== Sys2Proof/Laws/Run.lean ====
section
/-! SUPPORT. How a meaning evaluates on a state, one rule for each way of putting meanings together. -/
namespace Sys2Proof.Machine

variable {α β : Type}

/-! ### Evaluation -/

theorem eval_pure (a : α) (s : State) : (pure a : M α).run.run s = (.ok a, s) := rfl
theorem eval_throw (e : Stop) (s : State) : (throw e : M α).run.run s = (.error e, s) := rfl
theorem eval_trap (c : Nat) (v : Word) (s : State) : (trap c v : M α).run.run s = (.error (.trap c v), s) := rfl
theorem eval_stall (s : State) : (stall : M α).run.run s = (.error .wait, s) := rfl
theorem eval_get (s : State) : (get : M State).run.run s = (.ok s, s) := rfl
theorem eval_set (t s : State) : (set t : M PUnit).run.run s = (.ok (), t) := rfl
theorem eval_hart (s : State) : hart.run.run s = (.ok s.h, s) := rfl
theorem eval_modify (f : State → State) (s : State) : (modify f : M Unit).run.run s = (.ok (), f s) := rfl
theorem eval_modHart (f : Hart → Hart) (s : State) : (modHart f).run.run s = (.ok (), s.onHart f) := rfl
theorem eval_modifyGet (f : State → α × State) (s : State) : (modifyGet f : M α).run.run s = (.ok (f s).1, (f s).2) := rfl
theorem eval_rd (r : SReg) (s : State) : (rd r).run.run s = (.ok (s.h.get r), s) := rfl
theorem eval_wr (r : SReg) (v : Word) (s : State) : (wr r v).run.run s = (.ok (), s.onHart fun h => h.put r v) := rfl
theorem eval_retire (n : Word) (s : State) : (retire n).run.run s = (.ok (), s.retire n) := rfl
theorem eval_jump (pc : Word) (s : State) : (jump pc).run.run s = (.ok (), s.onHart fun h => h.goTo pc) := rfl
theorem eval_closeStrip (s : State) : closeStrip.run.run s = (.ok (), s.onHart Hart.endStrip) := rfl
theorem eval_setStart (i : Nat) (s : State) :
    (setStart i).run.run s = (.ok (), s.onHart fun h => { h with vstart := BitVec.ofNat 64 i }) := rfl

/-- One meaning after another. -/
theorem eval_bind (m : M α) (f : α → M β) (s : State) :
    (m >>= f).run.run s = match m.run.run s with
      | (.ok a, t) => (f a).run.run t
      | (.error e, t) => (.error e, t) := by
  show (ExceptT.bindCont f (m.run.run s).1 : StateM State _) (m.run.run s).2 = _
  rcases m.run.run s with ⟨a | e, t⟩ <;> rfl

theorem eval_map (f : α → β) (m : M α) (s : State) :
    (f <$> m).run.run s = match m.run.run s with
      | (.ok a, t) => (.ok (f a), t)
      | (.error e, t) => (.error e, t) := by
  rcases h : m.run.run s with ⟨a | e, t⟩ <;>
    simp only [ExceptT.run_map, StateT.run_map, h] <;> rfl

theorem eval_ite (c : Prop) [Decidable c] (m n : M α) (s : State) :
    (if c then m else n).run.run s = if c then m.run.run s else n.run.run s := by split <;> rfl

theorem eval_tryCatch (m : M α) (f : Stop → M α) (s : State) :
    (tryCatch m f).run.run s = match m.run.run s with
      | (.ok a, t) => (.ok a, t)
      | (.error e, t) => (f e).run.run t := by
  obtain ⟨r, hr⟩ : ∃ r, m.run.run s = r := ⟨_, rfl⟩
  have hm : StateT.run m s = r := hr
  rw [hr]
  show StateT.run (ExceptT.tryCatch m f).run s = _
  unfold ExceptT.tryCatch
  simp only [ExceptT.run_mk, StateT.run_bind, hm]
  rcases r with ⟨a | e, t⟩ <;> rfl

/-! ### Success -/

theorem gives_pure (a : α) (s : State) : Gives (pure a) s a s := rfl

theorem gives_bind {m : M α} {f : α → M β} {s t u : State} {a : α} {b : β}
    (hm : Gives m s a t) (hf : Gives (f a) t b u) : Gives (m >>= f) s b u := by
  unfold Gives at *
  rw [eval_bind, hm]
  exact hf

/-- A sequence succeeds only if its first part does, and then its second part does from there. -/
theorem gives_bind_inv {m : M α} {f : α → M β} {s u : State} {b : β} (h : Gives (m >>= f) s b u) :
    ∃ a t, Gives m s a t ∧ Gives (f a) t b u := by
  unfold Gives at *
  rw [eval_bind] at h
  rcases hm : m.run.run s with ⟨a | a, t⟩
  · rw [hm] at h; cases h
  · rw [hm] at h; exact ⟨a, t, rfl, h⟩

/-! ### What an instruction comes to -/

theorem run_gives {m : M Unit} {s t : State} (h : Gives m s () t) : run m s = .next t := by
  unfold Gives at h
  simp only [run, h]
  rfl

theorem run_trap {m : M Unit} {s t : State} {c : Nat} {v : Word} (h : m.run.run s = (.error (.trap c v), t)) :
    run m s = .next (t.takeTrap c v) := by
  simp only [run, h]
  rfl

theorem run_wait {m : M Unit} {s t : State} (h : m.run.run s = (.error .wait, t)) :
    run m s = .next (t.onHart fun h => { h with blocked := true }) := by
  simp only [run, h]
  rfl

/-- A meaning always answers a next state. -/
theorem run_next (m : M Unit) (s : State) : ∃ t, run m s = .next t := ⟨_, rfl⟩

end Sys2Proof.Machine
end

