-- ==== Sys2Proof/Laws/State.lean ====
section
/-! SUPPORT. What each update of a hart and of the device leaves alone, one lemma for each field. -/
namespace Sys2Proof.Machine

/-! ### A change of the hart in focus -/

@[simp] theorem State.onHart_h (s : State) (f : Hart → Hart) : (s.onHart f).h = f s.h := rfl
@[simp] theorem State.onHart_others (s : State) (f : Hart → Hart) : (s.onHart f).others = s.others := rfl
@[simp] theorem State.onHart_mem (s : State) (f : Hart → Hart) : (s.onHart f).mem = s.mem := rfl
@[simp] theorem State.onHart_regs (s : State) (f : Hart → Hart) : (s.onHart f).regs = s.regs := rfl
@[simp] theorem State.onHart_tiles (s : State) (f : Hart → Hart) : (s.onHart f).tiles = s.tiles := rfl
@[simp] theorem State.onHart_poison (s : State) (f : Hart → Hart) : (s.onHart f).poison = s.poison := rfl
@[simp] theorem State.onHart_regPoison (s : State) (f : Hart → Hart) : (s.onHart f).regPoison = s.regPoison := rfl
@[simp] theorem State.onHart_matrices (s : State) (f : Hart → Hart) : (s.onHart f).matrices = s.matrices := rfl
@[simp] theorem State.onHart_launches (s : State) (f : Hart → Hart) : (s.onHart f).launches = s.launches := rfl
@[simp] theorem State.onHart_farms (s : State) (f : Hart → Hart) : (s.onHart f).farms = s.farms := rfl
@[simp] theorem State.onHart_ring (s : State) (f : Hart → Hart) : (s.onHart f).ring = s.ring := rfl
@[simp] theorem State.onHart_streams (s : State) (f : Hart → Hart) : (s.onHart f).streams = s.streams := rfl
@[simp] theorem State.onHart_orphans (s : State) (f : Hart → Hart) : (s.onHart f).orphans = s.orphans := rfl
@[simp] theorem State.onHart_finals (s : State) (f : Hart → Hart) : (s.onHart f).finals = s.finals := rfl
@[simp] theorem State.onHart_pillars (s : State) (f : Hart → Hart) : (s.onHart f).pillars = s.pillars := rfl
@[simp] theorem State.onHart_routeTiles (s : State) (f : Hart → Hart) : (s.onHart f).routeTiles = s.routeTiles := rfl
@[simp] theorem State.onHart_routeGens (s : State) (f : Hart → Hart) : (s.onHart f).routeGens = s.routeGens := rfl
@[simp] theorem State.onHart_targets (s : State) (f : Hart → Hart) : (s.onHart f).targets = s.targets := rfl
@[simp] theorem State.onHart_pushes (s : State) (f : Hart → Hart) : (s.onHart f).pushes = s.pushes := rfl
@[simp] theorem State.onHart_contribs (s : State) (f : Hart → Hart) : (s.onHart f).contribs = s.contribs := rfl
@[simp] theorem State.onHart_tlb (s : State) (f : Hart → Hart) : (s.onHart f).tlb = s.tlb := rfl
@[simp] theorem State.onHart_icaches (s : State) (f : Hart → Hart) : (s.onHart f).icaches = s.icaches := rfl
@[simp] theorem State.onHart_dies (s : State) (f : Hart → Hart) : (s.onHart f).dies = s.dies := rfl
@[simp] theorem State.onHart_cores (s : State) (f : Hart → Hart) : (s.onHart f).cores = s.cores := rfl
@[simp] theorem State.onHart_hbm (s : State) (f : Hart → Hart) : (s.onHart f).hbm = s.hbm := rfl
@[simp] theorem State.onHart_links (s : State) (f : Hart → Hart) : (s.onHart f).links = s.links := rfl
@[simp] theorem State.onHart_assay (s : State) (f : Hart → Hart) : (s.onHart f).assay = s.assay := rfl
@[simp] theorem State.onHart_powerMode (s : State) (f : Hart → Hart) : (s.onHart f).powerMode = s.powerMode := rfl
@[simp] theorem State.onHart_powerPending (s : State) (f : Hart → Hart) : (s.onHart f).powerPending = s.powerPending := rfl
@[simp] theorem State.onHart_powerAct (s : State) (f : Hart → Hart) : (s.onHart f).powerAct = s.powerAct := rfl
@[simp] theorem State.onHart_therm (s : State) (f : Hart → Hart) : (s.onHart f).therm = s.therm := rfl
@[simp] theorem State.onHart_powerFloor (s : State) (f : Hart → Hart) : (s.onHart f).powerFloor = s.powerFloor := rfl
@[simp] theorem State.onHart_powerOver (s : State) (f : Hart → Hart) : (s.onHart f).powerOver = s.powerOver := rfl
@[simp] theorem State.onHart_powerWatts (s : State) (f : Hart → Hart) : (s.onHart f).powerWatts = s.powerWatts := rfl
@[simp] theorem State.onHart_devstat (s : State) (f : Hart → Hart) : (s.onHart f).devstat = s.devstat := rfl
@[simp] theorem State.onHart_bringUp (s : State) (f : Hart → Hart) : (s.onHart f).bringUp = s.bringUp := rfl
@[simp] theorem State.onHart_hdm (s : State) (f : Hart → Hart) : (s.onHart f).hdm = s.hdm := rfl
@[simp] theorem State.onHart_secver (s : State) (f : Hart → Hart) : (s.onHart f).secver = s.secver := rfl
@[simp] theorem State.onHart_failed (s : State) (f : Hart → Hart) : (s.onHart f).failed = s.failed := rfl
@[simp] theorem State.onHart_spdm (s : State) (f : Hart → Hart) : (s.onHart f).spdm = s.spdm := rfl
@[simp] theorem State.onHart_hostData (s : State) (f : Hart → Hart) : (s.onHart f).hostData = s.hostData := rfl
@[simp] theorem State.onHart_tick (s : State) (f : Hart → Hart) : (s.onHart f).tick = s.tick := rfl
@[simp] theorem State.onHart_nextId (s : State) (f : Hart → Hart) : (s.onHart f).nextId = s.nextId := rfl
@[simp] theorem State.onHart_part (s : State) (f : Hart → Hart) : (s.onHart f).part = s.part := rfl
@[simp] theorem State.onHart_tanPrefix (s : State) (f : Hart → Hart) : (s.onHart f).tanPrefix = s.tanPrefix := rfl
@[simp] theorem State.onHart_inputs (s : State) (f : Hart → Hart) : (s.onHart f).inputs = s.inputs := rfl
@[simp] theorem State.onHart_outside (s : State) (f : Hart → Hart) : (s.onHart f).outside = s.outside := rfl
@[simp] theorem State.onHart_turn (s : State) (f : Hart → Hart) : (s.onHart f).turn = s.turn := rfl
theorem State.onHart_onHart (s : State) (f g : Hart → Hart) : (s.onHart f).onHart g = s.onHart fun h => g (f h) := rfl

/-! ### Retiring -/

@[simp] theorem State.retire_h (s : State) (n : Word) : (s.retire n).h = s.h.goTo (s.h.pc + n + s.prefixLen) := rfl
@[simp] theorem State.retire_others (s : State) (n : Word) : (s.retire n).others = s.others := rfl
@[simp] theorem State.retire_mem (s : State) (n : Word) : (s.retire n).mem = s.mem := rfl
@[simp] theorem State.retire_regs (s : State) (n : Word) : (s.retire n).regs = s.regs := rfl
@[simp] theorem State.retire_tiles (s : State) (n : Word) : (s.retire n).tiles = s.tiles := rfl
@[simp] theorem State.retire_poison (s : State) (n : Word) : (s.retire n).poison = s.poison := rfl
@[simp] theorem State.retire_regPoison (s : State) (n : Word) : (s.retire n).regPoison = s.regPoison := rfl
@[simp] theorem State.retire_matrices (s : State) (n : Word) : (s.retire n).matrices = s.matrices := rfl
@[simp] theorem State.retire_launches (s : State) (n : Word) : (s.retire n).launches = s.launches := rfl
@[simp] theorem State.retire_farms (s : State) (n : Word) : (s.retire n).farms = s.farms := rfl
@[simp] theorem State.retire_ring (s : State) (n : Word) : (s.retire n).ring = s.ring := rfl
@[simp] theorem State.retire_streams (s : State) (n : Word) : (s.retire n).streams = s.streams := rfl
@[simp] theorem State.retire_orphans (s : State) (n : Word) : (s.retire n).orphans = s.orphans := rfl
@[simp] theorem State.retire_finals (s : State) (n : Word) : (s.retire n).finals = s.finals := rfl
@[simp] theorem State.retire_pillars (s : State) (n : Word) : (s.retire n).pillars = s.pillars := rfl
@[simp] theorem State.retire_routeTiles (s : State) (n : Word) : (s.retire n).routeTiles = s.routeTiles := rfl
@[simp] theorem State.retire_routeGens (s : State) (n : Word) : (s.retire n).routeGens = s.routeGens := rfl
@[simp] theorem State.retire_targets (s : State) (n : Word) : (s.retire n).targets = s.targets := rfl
@[simp] theorem State.retire_pushes (s : State) (n : Word) : (s.retire n).pushes = s.pushes := rfl
@[simp] theorem State.retire_contribs (s : State) (n : Word) : (s.retire n).contribs = s.contribs := rfl
@[simp] theorem State.retire_tlb (s : State) (n : Word) : (s.retire n).tlb = s.tlb := rfl
@[simp] theorem State.retire_icaches (s : State) (n : Word) : (s.retire n).icaches = s.icaches := rfl
@[simp] theorem State.retire_dies (s : State) (n : Word) : (s.retire n).dies = s.dies := rfl
@[simp] theorem State.retire_cores (s : State) (n : Word) : (s.retire n).cores = s.cores := rfl
@[simp] theorem State.retire_hbm (s : State) (n : Word) : (s.retire n).hbm = s.hbm := rfl
@[simp] theorem State.retire_links (s : State) (n : Word) : (s.retire n).links = s.links := rfl
@[simp] theorem State.retire_assay (s : State) (n : Word) : (s.retire n).assay = s.assay := rfl
@[simp] theorem State.retire_powerMode (s : State) (n : Word) : (s.retire n).powerMode = s.powerMode := rfl
@[simp] theorem State.retire_powerPending (s : State) (n : Word) : (s.retire n).powerPending = s.powerPending := rfl
@[simp] theorem State.retire_powerAct (s : State) (n : Word) : (s.retire n).powerAct = s.powerAct := rfl
@[simp] theorem State.retire_therm (s : State) (n : Word) : (s.retire n).therm = s.therm := rfl
@[simp] theorem State.retire_powerFloor (s : State) (n : Word) : (s.retire n).powerFloor = s.powerFloor := rfl
@[simp] theorem State.retire_powerOver (s : State) (n : Word) : (s.retire n).powerOver = s.powerOver := rfl
@[simp] theorem State.retire_powerWatts (s : State) (n : Word) : (s.retire n).powerWatts = s.powerWatts := rfl
@[simp] theorem State.retire_devstat (s : State) (n : Word) : (s.retire n).devstat = s.devstat := rfl
@[simp] theorem State.retire_bringUp (s : State) (n : Word) : (s.retire n).bringUp = s.bringUp := rfl
@[simp] theorem State.retire_hdm (s : State) (n : Word) : (s.retire n).hdm = s.hdm := rfl
@[simp] theorem State.retire_secver (s : State) (n : Word) : (s.retire n).secver = s.secver := rfl
@[simp] theorem State.retire_failed (s : State) (n : Word) : (s.retire n).failed = s.failed := rfl
@[simp] theorem State.retire_spdm (s : State) (n : Word) : (s.retire n).spdm = s.spdm := rfl
@[simp] theorem State.retire_hostData (s : State) (n : Word) : (s.retire n).hostData = s.hostData := rfl
@[simp] theorem State.retire_tick (s : State) (n : Word) : (s.retire n).tick = s.tick := rfl
@[simp] theorem State.retire_nextId (s : State) (n : Word) : (s.retire n).nextId = s.nextId := rfl
@[simp] theorem State.retire_part (s : State) (n : Word) : (s.retire n).part = s.part := rfl
@[simp] theorem State.retire_tanPrefix (s : State) (n : Word) : (s.retire n).tanPrefix = s.tanPrefix := rfl
@[simp] theorem State.retire_inputs (s : State) (n : Word) : (s.retire n).inputs = s.inputs := rfl
@[simp] theorem State.retire_outside (s : State) (n : Word) : (s.retire n).outside = s.outside := rfl
@[simp] theorem State.retire_turn (s : State) (n : Word) : (s.retire n).turn = s.turn := rfl

/-! ### The next pc -/

@[simp] theorem Hart.goTo_live (h : Hart) (pc : Word) : (h.goTo pc).live = h.live := rfl
@[simp] theorem Hart.goTo_key (h : Hart) (pc : Word) : (h.goTo pc).key = h.key := rfl
@[simp] theorem Hart.goTo_stop (h : Hart) (pc : Word) : (h.goTo pc).stop = h.stop := rfl
@[simp] theorem Hart.goTo_slot (h : Hart) (pc : Word) : (h.goTo pc).slot = h.slot := rfl
@[simp] theorem Hart.goTo_prio (h : Hart) (pc : Word) : (h.goTo pc).prio = h.prio := rfl
@[simp] theorem Hart.goTo_gang (h : Hart) (pc : Word) : (h.goTo pc).gang = h.gang := rfl
@[simp] theorem Hart.goTo_s (h : Hart) (pc : Word) : (h.goTo pc).s = h.s := rfl
@[simp] theorem Hart.goTo_b (h : Hart) (pc : Word) : (h.goTo pc).b = h.b := rfl
@[simp] theorem Hart.goTo_alt (h : Hart) (pc : Word) : (h.goTo pc).alt = h.alt := rfl
@[simp] theorem Hart.goTo_stan (h : Hart) (pc : Word) : (h.goTo pc).stan = h.stan := rfl
@[simp] theorem Hart.goTo_altStan (h : Hart) (pc : Word) : (h.goTo pc).altStan = h.altStan := rfl
@[simp] theorem Hart.goTo_level (h : Hart) (pc : Word) : (h.goTo pc).level = h.level := rfl
@[simp] theorem Hart.goTo_fcsr (h : Hart) (pc : Word) : (h.goTo pc).fcsr = h.fcsr := rfl
@[simp] theorem Hart.goTo_seed (h : Hart) (pc : Word) : (h.goTo pc).seed = h.seed := rfl
@[simp] theorem Hart.goTo_sbase (h : Hart) (pc : Word) : (h.goTo pc).sbase = h.sbase := rfl
@[simp] theorem Hart.goTo_sstep (h : Hart) (pc : Word) : (h.goTo pc).sstep = h.sstep := rfl
@[simp] theorem Hart.goTo_tann (h : Hart) (pc : Word) : (h.goTo pc).tann = h.tann := rfl
@[simp] theorem Hart.goTo_ordscope (h : Hart) (pc : Word) : (h.goTo pc).ordscope = h.ordscope := rfl
@[simp] theorem Hart.goTo_ictl (h : Hart) (pc : Word) : (h.goTo pc).ictl = h.ictl := rfl
@[simp] theorem Hart.goTo_vl (h : Hart) (pc : Word) : (h.goTo pc).vl = h.vl := rfl
@[simp] theorem Hart.goTo_vtype (h : Hart) (pc : Word) : (h.goTo pc).vtype = h.vtype := rfl
@[simp] theorem Hart.goTo_vstart (h : Hart) (pc : Word) : (h.goTo pc).vstart = h.vstart := rfl
@[simp] theorem Hart.goTo_vshape (h : Hart) (pc : Word) : (h.goTo pc).vshape = h.vshape := rfl
@[simp] theorem Hart.goTo_vpart (h : Hart) (pc : Word) : (h.goTo pc).vpart = h.vpart := rfl
@[simp] theorem Hart.goTo_vw (h : Hart) (pc : Word) : (h.goTo pc).vw = h.vw := rfl
@[simp] theorem Hart.goTo_mw (h : Hart) (pc : Word) : (h.goTo pc).mw = h.mw := rfl
@[simp] theorem Hart.goTo_gw (h : Hart) (pc : Word) : (h.goTo pc).gw = h.gw := rfl
@[simp] theorem Hart.goTo_iw (h : Hart) (pc : Word) : (h.goTo pc).iw = h.iw := rfl
@[simp] theorem Hart.goTo_hctl (h : Hart) (pc : Word) : (h.goTo pc).hctl = h.hctl := rfl
@[simp] theorem Hart.goTo_hstat (h : Hart) (pc : Word) : (h.goTo pc).hstat = h.hstat := rfl
@[simp] theorem Hart.goTo_lamppc (h : Hart) (pc : Word) : (h.goTo pc).lamppc = h.lamppc := rfl
@[simp] theorem Hart.goTo_lampcause (h : Hart) (pc : Word) : (h.goTo pc).lampcause = h.lampcause := rfl
@[simp] theorem Hart.goTo_rtimeout (h : Hart) (pc : Word) : (h.goTo pc).rtimeout = h.rtimeout := rfl
@[simp] theorem Hart.goTo_trappc (h : Hart) (pc : Word) : (h.goTo pc).trappc = h.trappc := rfl
@[simp] theorem Hart.goTo_trapcause (h : Hart) (pc : Word) : (h.goTo pc).trapcause = h.trapcause := rfl
@[simp] theorem Hart.goTo_trapval (h : Hart) (pc : Word) : (h.goTo pc).trapval = h.trapval := rfl
@[simp] theorem Hart.goTo_asid (h : Hart) (pc : Word) : (h.goTo pc).asid = h.asid := rfl
@[simp] theorem Hart.goTo_ptbase (h : Hart) (pc : Word) : (h.goTo pc).ptbase = h.ptbase := rfl
@[simp] theorem Hart.goTo_lamps (h : Hart) (pc : Word) : (h.goTo pc).lamps = h.lamps := rfl
@[simp] theorem Hart.goTo_faults (h : Hart) (pc : Word) : (h.goTo pc).faults = h.faults := rfl
@[simp] theorem Hart.goTo_timeouts (h : Hart) (pc : Word) : (h.goTo pc).timeouts = h.timeouts := rfl
@[simp] theorem Hart.goTo_gangLost (h : Hart) (pc : Word) : (h.goTo pc).gangLost = h.gangLost := rfl
@[simp] theorem Hart.goTo_evict (h : Hart) (pc : Word) : (h.goTo pc).evict = h.evict := rfl
@[simp] theorem Hart.goTo_asked (h : Hart) (pc : Word) : (h.goTo pc).asked = h.asked := rfl
@[simp] theorem Hart.goTo_haltReq (h : Hart) (pc : Word) : (h.goTo pc).haltReq = h.haltReq := rfl
@[simp] theorem Hart.goTo_halted (h : Hart) (pc : Word) : (h.goTo pc).halted = h.halted := rfl
@[simp] theorem Hart.goTo_frozen (h : Hart) (pc : Word) : (h.goTo pc).frozen = h.frozen := rfl
@[simp] theorem Hart.goTo_saved (h : Hart) (pc : Word) : (h.goTo pc).saved = h.saved := rfl
@[simp] theorem Hart.goTo_retiring (h : Hart) (pc : Word) : (h.goTo pc).retiring = h.retiring := rfl
@[simp] theorem Hart.goTo_blocked (h : Hart) (pc : Word) : (h.goTo pc).blocked = h.blocked := rfl
@[simp] theorem Hart.goTo_idle (h : Hart) (pc : Word) : (h.goTo pc).idle = h.idle := rfl
@[simp] theorem Hart.goTo_rbuf (h : Hart) (pc : Word) : (h.goTo pc).rbuf = h.rbuf := rfl
@[simp] theorem Hart.goTo_strip (h : Hart) (pc : Word) : (h.goTo pc).strip = h.strip := rfl
@[simp] theorem Hart.goTo_ifence (h : Hart) (pc : Word) : (h.goTo pc).ifence = h.ifence := rfl
@[simp] theorem Hart.goTo_queues (h : Hart) (pc : Word) : (h.goTo pc).queues = h.queues := rfl
@[simp] theorem Hart.goTo_full (h : Hart) (pc : Word) : (h.goTo pc).full = h.full := rfl
@[simp] theorem Hart.goTo_pushed (h : Hart) (pc : Word) : (h.goTo pc).pushed = h.pushed := rfl
@[simp] theorem Hart.goTo_monitor (h : Hart) (pc : Word) : (h.goTo pc).monitor = h.monitor := rfl
@[simp] theorem Hart.goTo_bar (h : Hart) (pc : Word) : (h.goTo pc).bar = h.bar := rfl
@[simp] theorem Hart.goTo_convoy (h : Hart) (pc : Word) : (h.goTo pc).convoy = h.convoy := rfl
@[simp] theorem Hart.goTo_waitReg (h : Hart) (pc : Word) : (h.goTo pc).waitReg = h.waitReg := rfl
@[simp] theorem Hart.goTo_barrier (h : Hart) (pc : Word) : (h.goTo pc).barrier = h.barrier := rfl
@[simp] theorem Hart.goTo_claimAt (h : Hart) (pc : Word) : (h.goTo pc).claimAt = h.claimAt := rfl
@[simp] theorem Hart.goTo_pc (h : Hart) (pc : Word) : (h.goTo pc).pc = pc := rfl
@[simp] theorem Hart.goTo_lane (h : Hart) (pc : Word) : (h.goTo pc).lane = none := rfl
@[simp] theorem Hart.goTo_pillarAt (h : Hart) (pc : Word) : (h.goTo pc).pillarAt = none := rfl
@[simp] theorem Hart.goTo_begun (h : Hart) (pc : Word) : (h.goTo pc).begun = h.begun.filter (·.set != h.queueSet) := rfl

/-! ### A scalar register written -/

@[simp] theorem Hart.set_live (h : Hart) (r : SReg) (v : Word) : (h.set r v).live = h.live := by unfold Hart.set; split <;> rfl
@[simp] theorem Hart.set_key (h : Hart) (r : SReg) (v : Word) : (h.set r v).key = h.key := by unfold Hart.set; split <;> rfl
@[simp] theorem Hart.set_stop (h : Hart) (r : SReg) (v : Word) : (h.set r v).stop = h.stop := by unfold Hart.set; split <;> rfl
@[simp] theorem Hart.set_slot (h : Hart) (r : SReg) (v : Word) : (h.set r v).slot = h.slot := by unfold Hart.set; split <;> rfl
@[simp] theorem Hart.set_prio (h : Hart) (r : SReg) (v : Word) : (h.set r v).prio = h.prio := by unfold Hart.set; split <;> rfl
@[simp] theorem Hart.set_gang (h : Hart) (r : SReg) (v : Word) : (h.set r v).gang = h.gang := by unfold Hart.set; split <;> rfl
@[simp] theorem Hart.set_b (h : Hart) (r : SReg) (v : Word) : (h.set r v).b = h.b := by unfold Hart.set; split <;> rfl
@[simp] theorem Hart.set_alt (h : Hart) (r : SReg) (v : Word) : (h.set r v).alt = h.alt := by unfold Hart.set; split <;> rfl
@[simp] theorem Hart.set_stan (h : Hart) (r : SReg) (v : Word) : (h.set r v).stan = h.stan := by unfold Hart.set; split <;> rfl
@[simp] theorem Hart.set_altStan (h : Hart) (r : SReg) (v : Word) : (h.set r v).altStan = h.altStan := by unfold Hart.set; split <;> rfl
@[simp] theorem Hart.set_pc (h : Hart) (r : SReg) (v : Word) : (h.set r v).pc = h.pc := by unfold Hart.set; split <;> rfl
@[simp] theorem Hart.set_level (h : Hart) (r : SReg) (v : Word) : (h.set r v).level = h.level := by unfold Hart.set; split <;> rfl
@[simp] theorem Hart.set_fcsr (h : Hart) (r : SReg) (v : Word) : (h.set r v).fcsr = h.fcsr := by unfold Hart.set; split <;> rfl
@[simp] theorem Hart.set_seed (h : Hart) (r : SReg) (v : Word) : (h.set r v).seed = h.seed := by unfold Hart.set; split <;> rfl
@[simp] theorem Hart.set_sbase (h : Hart) (r : SReg) (v : Word) : (h.set r v).sbase = h.sbase := by unfold Hart.set; split <;> rfl
@[simp] theorem Hart.set_sstep (h : Hart) (r : SReg) (v : Word) : (h.set r v).sstep = h.sstep := by unfold Hart.set; split <;> rfl
@[simp] theorem Hart.set_tann (h : Hart) (r : SReg) (v : Word) : (h.set r v).tann = h.tann := by unfold Hart.set; split <;> rfl
@[simp] theorem Hart.set_ordscope (h : Hart) (r : SReg) (v : Word) : (h.set r v).ordscope = h.ordscope := by unfold Hart.set; split <;> rfl
@[simp] theorem Hart.set_ictl (h : Hart) (r : SReg) (v : Word) : (h.set r v).ictl = h.ictl := by unfold Hart.set; split <;> rfl
@[simp] theorem Hart.set_vl (h : Hart) (r : SReg) (v : Word) : (h.set r v).vl = h.vl := by unfold Hart.set; split <;> rfl
@[simp] theorem Hart.set_vtype (h : Hart) (r : SReg) (v : Word) : (h.set r v).vtype = h.vtype := by unfold Hart.set; split <;> rfl
@[simp] theorem Hart.set_vstart (h : Hart) (r : SReg) (v : Word) : (h.set r v).vstart = h.vstart := by unfold Hart.set; split <;> rfl
@[simp] theorem Hart.set_vshape (h : Hart) (r : SReg) (v : Word) : (h.set r v).vshape = h.vshape := by unfold Hart.set; split <;> rfl
@[simp] theorem Hart.set_vpart (h : Hart) (r : SReg) (v : Word) : (h.set r v).vpart = h.vpart := by unfold Hart.set; split <;> rfl
@[simp] theorem Hart.set_vw (h : Hart) (r : SReg) (v : Word) : (h.set r v).vw = h.vw := by unfold Hart.set; split <;> rfl
@[simp] theorem Hart.set_mw (h : Hart) (r : SReg) (v : Word) : (h.set r v).mw = h.mw := by unfold Hart.set; split <;> rfl
@[simp] theorem Hart.set_gw (h : Hart) (r : SReg) (v : Word) : (h.set r v).gw = h.gw := by unfold Hart.set; split <;> rfl
@[simp] theorem Hart.set_iw (h : Hart) (r : SReg) (v : Word) : (h.set r v).iw = h.iw := by unfold Hart.set; split <;> rfl
@[simp] theorem Hart.set_hctl (h : Hart) (r : SReg) (v : Word) : (h.set r v).hctl = h.hctl := by unfold Hart.set; split <;> rfl
@[simp] theorem Hart.set_hstat (h : Hart) (r : SReg) (v : Word) : (h.set r v).hstat = h.hstat := by unfold Hart.set; split <;> rfl
@[simp] theorem Hart.set_lamppc (h : Hart) (r : SReg) (v : Word) : (h.set r v).lamppc = h.lamppc := by unfold Hart.set; split <;> rfl
@[simp] theorem Hart.set_lampcause (h : Hart) (r : SReg) (v : Word) : (h.set r v).lampcause = h.lampcause := by unfold Hart.set; split <;> rfl
@[simp] theorem Hart.set_rtimeout (h : Hart) (r : SReg) (v : Word) : (h.set r v).rtimeout = h.rtimeout := by unfold Hart.set; split <;> rfl
@[simp] theorem Hart.set_trappc (h : Hart) (r : SReg) (v : Word) : (h.set r v).trappc = h.trappc := by unfold Hart.set; split <;> rfl
@[simp] theorem Hart.set_trapcause (h : Hart) (r : SReg) (v : Word) : (h.set r v).trapcause = h.trapcause := by unfold Hart.set; split <;> rfl
@[simp] theorem Hart.set_trapval (h : Hart) (r : SReg) (v : Word) : (h.set r v).trapval = h.trapval := by unfold Hart.set; split <;> rfl
@[simp] theorem Hart.set_asid (h : Hart) (r : SReg) (v : Word) : (h.set r v).asid = h.asid := by unfold Hart.set; split <;> rfl
@[simp] theorem Hart.set_ptbase (h : Hart) (r : SReg) (v : Word) : (h.set r v).ptbase = h.ptbase := by unfold Hart.set; split <;> rfl
@[simp] theorem Hart.set_lamps (h : Hart) (r : SReg) (v : Word) : (h.set r v).lamps = h.lamps := by unfold Hart.set; split <;> rfl
@[simp] theorem Hart.set_faults (h : Hart) (r : SReg) (v : Word) : (h.set r v).faults = h.faults := by unfold Hart.set; split <;> rfl
@[simp] theorem Hart.set_timeouts (h : Hart) (r : SReg) (v : Word) : (h.set r v).timeouts = h.timeouts := by unfold Hart.set; split <;> rfl
@[simp] theorem Hart.set_gangLost (h : Hart) (r : SReg) (v : Word) : (h.set r v).gangLost = h.gangLost := by unfold Hart.set; split <;> rfl
@[simp] theorem Hart.set_evict (h : Hart) (r : SReg) (v : Word) : (h.set r v).evict = h.evict := by unfold Hart.set; split <;> rfl
@[simp] theorem Hart.set_asked (h : Hart) (r : SReg) (v : Word) : (h.set r v).asked = h.asked := by unfold Hart.set; split <;> rfl
@[simp] theorem Hart.set_stepDue (h : Hart) (r : SReg) (v : Word) : (h.set r v).stepDue = h.stepDue := by unfold Hart.set; split <;> rfl
@[simp] theorem Hart.set_haltReq (h : Hart) (r : SReg) (v : Word) : (h.set r v).haltReq = h.haltReq := by unfold Hart.set; split <;> rfl
@[simp] theorem Hart.set_halted (h : Hart) (r : SReg) (v : Word) : (h.set r v).halted = h.halted := by unfold Hart.set; split <;> rfl
@[simp] theorem Hart.set_frozen (h : Hart) (r : SReg) (v : Word) : (h.set r v).frozen = h.frozen := by unfold Hart.set; split <;> rfl
@[simp] theorem Hart.set_saved (h : Hart) (r : SReg) (v : Word) : (h.set r v).saved = h.saved := by unfold Hart.set; split <;> rfl
@[simp] theorem Hart.set_retiring (h : Hart) (r : SReg) (v : Word) : (h.set r v).retiring = h.retiring := by unfold Hart.set; split <;> rfl
@[simp] theorem Hart.set_blocked (h : Hart) (r : SReg) (v : Word) : (h.set r v).blocked = h.blocked := by unfold Hart.set; split <;> rfl
@[simp] theorem Hart.set_idle (h : Hart) (r : SReg) (v : Word) : (h.set r v).idle = h.idle := by unfold Hart.set; split <;> rfl
@[simp] theorem Hart.set_rbuf (h : Hart) (r : SReg) (v : Word) : (h.set r v).rbuf = h.rbuf := by unfold Hart.set; split <;> rfl
@[simp] theorem Hart.set_strip (h : Hart) (r : SReg) (v : Word) : (h.set r v).strip = h.strip := by unfold Hart.set; split <;> rfl
@[simp] theorem Hart.set_ifence (h : Hart) (r : SReg) (v : Word) : (h.set r v).ifence = h.ifence := by unfold Hart.set; split <;> rfl
@[simp] theorem Hart.set_queues (h : Hart) (r : SReg) (v : Word) : (h.set r v).queues = h.queues := by unfold Hart.set; split <;> rfl
@[simp] theorem Hart.set_full (h : Hart) (r : SReg) (v : Word) : (h.set r v).full = h.full := by unfold Hart.set; split <;> rfl
@[simp] theorem Hart.set_pushed (h : Hart) (r : SReg) (v : Word) : (h.set r v).pushed = h.pushed := by unfold Hart.set; split <;> rfl
@[simp] theorem Hart.set_monitor (h : Hart) (r : SReg) (v : Word) : (h.set r v).monitor = h.monitor := by unfold Hart.set; split <;> rfl
@[simp] theorem Hart.set_lane (h : Hart) (r : SReg) (v : Word) : (h.set r v).lane = h.lane := by unfold Hart.set; split <;> rfl
@[simp] theorem Hart.set_bar (h : Hart) (r : SReg) (v : Word) : (h.set r v).bar = h.bar := by unfold Hart.set; split <;> rfl
@[simp] theorem Hart.set_convoy (h : Hart) (r : SReg) (v : Word) : (h.set r v).convoy = h.convoy := by unfold Hart.set; split <;> rfl
@[simp] theorem Hart.set_waitReg (h : Hart) (r : SReg) (v : Word) : (h.set r v).waitReg = h.waitReg := by unfold Hart.set; split <;> rfl
@[simp] theorem Hart.set_begun (h : Hart) (r : SReg) (v : Word) : (h.set r v).begun = h.begun := by unfold Hart.set; split <;> rfl
@[simp] theorem Hart.set_barrier (h : Hart) (r : SReg) (v : Word) : (h.set r v).barrier = h.barrier := by unfold Hart.set; split <;> rfl
@[simp] theorem Hart.set_claimAt (h : Hart) (r : SReg) (v : Word) : (h.set r v).claimAt = h.claimAt := by unfold Hart.set; split <;> rfl
@[simp] theorem Hart.set_pillarAt (h : Hart) (r : SReg) (v : Word) : (h.set r v).pillarAt = h.pillarAt := by unfold Hart.set; split <;> rfl

/-! ### Scalar tangents written -/

@[simp] theorem Hart.setTans_live (h : Hart) (r : SReg) (vs : List Word) : (h.setTans r vs).live = h.live := by unfold Hart.setTans; split <;> rfl
@[simp] theorem Hart.setTans_key (h : Hart) (r : SReg) (vs : List Word) : (h.setTans r vs).key = h.key := by unfold Hart.setTans; split <;> rfl
@[simp] theorem Hart.setTans_stop (h : Hart) (r : SReg) (vs : List Word) : (h.setTans r vs).stop = h.stop := by unfold Hart.setTans; split <;> rfl
@[simp] theorem Hart.setTans_slot (h : Hart) (r : SReg) (vs : List Word) : (h.setTans r vs).slot = h.slot := by unfold Hart.setTans; split <;> rfl
@[simp] theorem Hart.setTans_prio (h : Hart) (r : SReg) (vs : List Word) : (h.setTans r vs).prio = h.prio := by unfold Hart.setTans; split <;> rfl
@[simp] theorem Hart.setTans_gang (h : Hart) (r : SReg) (vs : List Word) : (h.setTans r vs).gang = h.gang := by unfold Hart.setTans; split <;> rfl
@[simp] theorem Hart.setTans_s (h : Hart) (r : SReg) (vs : List Word) : (h.setTans r vs).s = h.s := by unfold Hart.setTans; split <;> rfl
@[simp] theorem Hart.setTans_b (h : Hart) (r : SReg) (vs : List Word) : (h.setTans r vs).b = h.b := by unfold Hart.setTans; split <;> rfl
@[simp] theorem Hart.setTans_alt (h : Hart) (r : SReg) (vs : List Word) : (h.setTans r vs).alt = h.alt := by unfold Hart.setTans; split <;> rfl
@[simp] theorem Hart.setTans_altStan (h : Hart) (r : SReg) (vs : List Word) : (h.setTans r vs).altStan = h.altStan := by unfold Hart.setTans; split <;> rfl
@[simp] theorem Hart.setTans_pc (h : Hart) (r : SReg) (vs : List Word) : (h.setTans r vs).pc = h.pc := by unfold Hart.setTans; split <;> rfl
@[simp] theorem Hart.setTans_level (h : Hart) (r : SReg) (vs : List Word) : (h.setTans r vs).level = h.level := by unfold Hart.setTans; split <;> rfl
@[simp] theorem Hart.setTans_fcsr (h : Hart) (r : SReg) (vs : List Word) : (h.setTans r vs).fcsr = h.fcsr := by unfold Hart.setTans; split <;> rfl
@[simp] theorem Hart.setTans_seed (h : Hart) (r : SReg) (vs : List Word) : (h.setTans r vs).seed = h.seed := by unfold Hart.setTans; split <;> rfl
@[simp] theorem Hart.setTans_sbase (h : Hart) (r : SReg) (vs : List Word) : (h.setTans r vs).sbase = h.sbase := by unfold Hart.setTans; split <;> rfl
@[simp] theorem Hart.setTans_sstep (h : Hart) (r : SReg) (vs : List Word) : (h.setTans r vs).sstep = h.sstep := by unfold Hart.setTans; split <;> rfl
@[simp] theorem Hart.setTans_tann (h : Hart) (r : SReg) (vs : List Word) : (h.setTans r vs).tann = h.tann := by unfold Hart.setTans; split <;> rfl
@[simp] theorem Hart.setTans_ordscope (h : Hart) (r : SReg) (vs : List Word) : (h.setTans r vs).ordscope = h.ordscope := by unfold Hart.setTans; split <;> rfl
@[simp] theorem Hart.setTans_ictl (h : Hart) (r : SReg) (vs : List Word) : (h.setTans r vs).ictl = h.ictl := by unfold Hart.setTans; split <;> rfl
@[simp] theorem Hart.setTans_vl (h : Hart) (r : SReg) (vs : List Word) : (h.setTans r vs).vl = h.vl := by unfold Hart.setTans; split <;> rfl
@[simp] theorem Hart.setTans_vtype (h : Hart) (r : SReg) (vs : List Word) : (h.setTans r vs).vtype = h.vtype := by unfold Hart.setTans; split <;> rfl
@[simp] theorem Hart.setTans_vstart (h : Hart) (r : SReg) (vs : List Word) : (h.setTans r vs).vstart = h.vstart := by unfold Hart.setTans; split <;> rfl
@[simp] theorem Hart.setTans_vshape (h : Hart) (r : SReg) (vs : List Word) : (h.setTans r vs).vshape = h.vshape := by unfold Hart.setTans; split <;> rfl
@[simp] theorem Hart.setTans_vpart (h : Hart) (r : SReg) (vs : List Word) : (h.setTans r vs).vpart = h.vpart := by unfold Hart.setTans; split <;> rfl
@[simp] theorem Hart.setTans_vw (h : Hart) (r : SReg) (vs : List Word) : (h.setTans r vs).vw = h.vw := by unfold Hart.setTans; split <;> rfl
@[simp] theorem Hart.setTans_mw (h : Hart) (r : SReg) (vs : List Word) : (h.setTans r vs).mw = h.mw := by unfold Hart.setTans; split <;> rfl
@[simp] theorem Hart.setTans_gw (h : Hart) (r : SReg) (vs : List Word) : (h.setTans r vs).gw = h.gw := by unfold Hart.setTans; split <;> rfl
@[simp] theorem Hart.setTans_iw (h : Hart) (r : SReg) (vs : List Word) : (h.setTans r vs).iw = h.iw := by unfold Hart.setTans; split <;> rfl
@[simp] theorem Hart.setTans_hctl (h : Hart) (r : SReg) (vs : List Word) : (h.setTans r vs).hctl = h.hctl := by unfold Hart.setTans; split <;> rfl
@[simp] theorem Hart.setTans_hstat (h : Hart) (r : SReg) (vs : List Word) : (h.setTans r vs).hstat = h.hstat := by unfold Hart.setTans; split <;> rfl
@[simp] theorem Hart.setTans_lamppc (h : Hart) (r : SReg) (vs : List Word) : (h.setTans r vs).lamppc = h.lamppc := by unfold Hart.setTans; split <;> rfl
@[simp] theorem Hart.setTans_lampcause (h : Hart) (r : SReg) (vs : List Word) : (h.setTans r vs).lampcause = h.lampcause := by unfold Hart.setTans; split <;> rfl
@[simp] theorem Hart.setTans_rtimeout (h : Hart) (r : SReg) (vs : List Word) : (h.setTans r vs).rtimeout = h.rtimeout := by unfold Hart.setTans; split <;> rfl
@[simp] theorem Hart.setTans_trappc (h : Hart) (r : SReg) (vs : List Word) : (h.setTans r vs).trappc = h.trappc := by unfold Hart.setTans; split <;> rfl
@[simp] theorem Hart.setTans_trapcause (h : Hart) (r : SReg) (vs : List Word) : (h.setTans r vs).trapcause = h.trapcause := by unfold Hart.setTans; split <;> rfl
@[simp] theorem Hart.setTans_trapval (h : Hart) (r : SReg) (vs : List Word) : (h.setTans r vs).trapval = h.trapval := by unfold Hart.setTans; split <;> rfl
@[simp] theorem Hart.setTans_asid (h : Hart) (r : SReg) (vs : List Word) : (h.setTans r vs).asid = h.asid := by unfold Hart.setTans; split <;> rfl
@[simp] theorem Hart.setTans_ptbase (h : Hart) (r : SReg) (vs : List Word) : (h.setTans r vs).ptbase = h.ptbase := by unfold Hart.setTans; split <;> rfl
@[simp] theorem Hart.setTans_lamps (h : Hart) (r : SReg) (vs : List Word) : (h.setTans r vs).lamps = h.lamps := by unfold Hart.setTans; split <;> rfl
@[simp] theorem Hart.setTans_faults (h : Hart) (r : SReg) (vs : List Word) : (h.setTans r vs).faults = h.faults := by unfold Hart.setTans; split <;> rfl
@[simp] theorem Hart.setTans_timeouts (h : Hart) (r : SReg) (vs : List Word) : (h.setTans r vs).timeouts = h.timeouts := by unfold Hart.setTans; split <;> rfl
@[simp] theorem Hart.setTans_gangLost (h : Hart) (r : SReg) (vs : List Word) : (h.setTans r vs).gangLost = h.gangLost := by unfold Hart.setTans; split <;> rfl
@[simp] theorem Hart.setTans_evict (h : Hart) (r : SReg) (vs : List Word) : (h.setTans r vs).evict = h.evict := by unfold Hart.setTans; split <;> rfl
@[simp] theorem Hart.setTans_asked (h : Hart) (r : SReg) (vs : List Word) : (h.setTans r vs).asked = h.asked := by unfold Hart.setTans; split <;> rfl
@[simp] theorem Hart.setTans_stepDue (h : Hart) (r : SReg) (vs : List Word) : (h.setTans r vs).stepDue = h.stepDue := by unfold Hart.setTans; split <;> rfl
@[simp] theorem Hart.setTans_haltReq (h : Hart) (r : SReg) (vs : List Word) : (h.setTans r vs).haltReq = h.haltReq := by unfold Hart.setTans; split <;> rfl
@[simp] theorem Hart.setTans_halted (h : Hart) (r : SReg) (vs : List Word) : (h.setTans r vs).halted = h.halted := by unfold Hart.setTans; split <;> rfl
@[simp] theorem Hart.setTans_frozen (h : Hart) (r : SReg) (vs : List Word) : (h.setTans r vs).frozen = h.frozen := by unfold Hart.setTans; split <;> rfl
@[simp] theorem Hart.setTans_saved (h : Hart) (r : SReg) (vs : List Word) : (h.setTans r vs).saved = h.saved := by unfold Hart.setTans; split <;> rfl
@[simp] theorem Hart.setTans_retiring (h : Hart) (r : SReg) (vs : List Word) : (h.setTans r vs).retiring = h.retiring := by unfold Hart.setTans; split <;> rfl
@[simp] theorem Hart.setTans_blocked (h : Hart) (r : SReg) (vs : List Word) : (h.setTans r vs).blocked = h.blocked := by unfold Hart.setTans; split <;> rfl
@[simp] theorem Hart.setTans_idle (h : Hart) (r : SReg) (vs : List Word) : (h.setTans r vs).idle = h.idle := by unfold Hart.setTans; split <;> rfl
@[simp] theorem Hart.setTans_rbuf (h : Hart) (r : SReg) (vs : List Word) : (h.setTans r vs).rbuf = h.rbuf := by unfold Hart.setTans; split <;> rfl
@[simp] theorem Hart.setTans_strip (h : Hart) (r : SReg) (vs : List Word) : (h.setTans r vs).strip = h.strip := by unfold Hart.setTans; split <;> rfl
@[simp] theorem Hart.setTans_ifence (h : Hart) (r : SReg) (vs : List Word) : (h.setTans r vs).ifence = h.ifence := by unfold Hart.setTans; split <;> rfl
@[simp] theorem Hart.setTans_queues (h : Hart) (r : SReg) (vs : List Word) : (h.setTans r vs).queues = h.queues := by unfold Hart.setTans; split <;> rfl
@[simp] theorem Hart.setTans_full (h : Hart) (r : SReg) (vs : List Word) : (h.setTans r vs).full = h.full := by unfold Hart.setTans; split <;> rfl
@[simp] theorem Hart.setTans_pushed (h : Hart) (r : SReg) (vs : List Word) : (h.setTans r vs).pushed = h.pushed := by unfold Hart.setTans; split <;> rfl
@[simp] theorem Hart.setTans_monitor (h : Hart) (r : SReg) (vs : List Word) : (h.setTans r vs).monitor = h.monitor := by unfold Hart.setTans; split <;> rfl
@[simp] theorem Hart.setTans_lane (h : Hart) (r : SReg) (vs : List Word) : (h.setTans r vs).lane = h.lane := by unfold Hart.setTans; split <;> rfl
@[simp] theorem Hart.setTans_bar (h : Hart) (r : SReg) (vs : List Word) : (h.setTans r vs).bar = h.bar := by unfold Hart.setTans; split <;> rfl
@[simp] theorem Hart.setTans_convoy (h : Hart) (r : SReg) (vs : List Word) : (h.setTans r vs).convoy = h.convoy := by unfold Hart.setTans; split <;> rfl
@[simp] theorem Hart.setTans_waitReg (h : Hart) (r : SReg) (vs : List Word) : (h.setTans r vs).waitReg = h.waitReg := by unfold Hart.setTans; split <;> rfl
@[simp] theorem Hart.setTans_begun (h : Hart) (r : SReg) (vs : List Word) : (h.setTans r vs).begun = h.begun := by unfold Hart.setTans; split <;> rfl
@[simp] theorem Hart.setTans_barrier (h : Hart) (r : SReg) (vs : List Word) : (h.setTans r vs).barrier = h.barrier := by unfold Hart.setTans; split <;> rfl
@[simp] theorem Hart.setTans_claimAt (h : Hart) (r : SReg) (vs : List Word) : (h.setTans r vs).claimAt = h.claimAt := by unfold Hart.setTans; split <;> rfl
@[simp] theorem Hart.setTans_pillarAt (h : Hart) (r : SReg) (vs : List Word) : (h.setTans r vs).pillarAt = h.pillarAt := by unfold Hart.setTans; split <;> rfl

/-! ### A scalar destination written -/

@[simp] theorem Hart.put_live (h : Hart) (r : SReg) (v : Word) : (h.put r v).live = h.live := by unfold Hart.put; split <;> simp
@[simp] theorem Hart.put_key (h : Hart) (r : SReg) (v : Word) : (h.put r v).key = h.key := by unfold Hart.put; split <;> simp
@[simp] theorem Hart.put_stop (h : Hart) (r : SReg) (v : Word) : (h.put r v).stop = h.stop := by unfold Hart.put; split <;> simp
@[simp] theorem Hart.put_slot (h : Hart) (r : SReg) (v : Word) : (h.put r v).slot = h.slot := by unfold Hart.put; split <;> simp
@[simp] theorem Hart.put_prio (h : Hart) (r : SReg) (v : Word) : (h.put r v).prio = h.prio := by unfold Hart.put; split <;> simp
@[simp] theorem Hart.put_gang (h : Hart) (r : SReg) (v : Word) : (h.put r v).gang = h.gang := by unfold Hart.put; split <;> simp
@[simp] theorem Hart.put_b (h : Hart) (r : SReg) (v : Word) : (h.put r v).b = h.b := by unfold Hart.put; split <;> simp
@[simp] theorem Hart.put_alt (h : Hart) (r : SReg) (v : Word) : (h.put r v).alt = h.alt := by unfold Hart.put; split <;> simp
@[simp] theorem Hart.put_altStan (h : Hart) (r : SReg) (v : Word) : (h.put r v).altStan = h.altStan := by unfold Hart.put; split <;> simp
@[simp] theorem Hart.put_pc (h : Hart) (r : SReg) (v : Word) : (h.put r v).pc = h.pc := by unfold Hart.put; split <;> simp
@[simp] theorem Hart.put_level (h : Hart) (r : SReg) (v : Word) : (h.put r v).level = h.level := by unfold Hart.put; split <;> simp
@[simp] theorem Hart.put_fcsr (h : Hart) (r : SReg) (v : Word) : (h.put r v).fcsr = h.fcsr := by unfold Hart.put; split <;> simp
@[simp] theorem Hart.put_seed (h : Hart) (r : SReg) (v : Word) : (h.put r v).seed = h.seed := by unfold Hart.put; split <;> simp
@[simp] theorem Hart.put_sbase (h : Hart) (r : SReg) (v : Word) : (h.put r v).sbase = h.sbase := by unfold Hart.put; split <;> simp
@[simp] theorem Hart.put_sstep (h : Hart) (r : SReg) (v : Word) : (h.put r v).sstep = h.sstep := by unfold Hart.put; split <;> simp
@[simp] theorem Hart.put_tann (h : Hart) (r : SReg) (v : Word) : (h.put r v).tann = h.tann := by unfold Hart.put; split <;> simp
@[simp] theorem Hart.put_ordscope (h : Hart) (r : SReg) (v : Word) : (h.put r v).ordscope = h.ordscope := by unfold Hart.put; split <;> simp
@[simp] theorem Hart.put_ictl (h : Hart) (r : SReg) (v : Word) : (h.put r v).ictl = h.ictl := by unfold Hart.put; split <;> simp
@[simp] theorem Hart.put_vl (h : Hart) (r : SReg) (v : Word) : (h.put r v).vl = h.vl := by unfold Hart.put; split <;> simp
@[simp] theorem Hart.put_vtype (h : Hart) (r : SReg) (v : Word) : (h.put r v).vtype = h.vtype := by unfold Hart.put; split <;> simp
@[simp] theorem Hart.put_vstart (h : Hart) (r : SReg) (v : Word) : (h.put r v).vstart = h.vstart := by unfold Hart.put; split <;> simp
@[simp] theorem Hart.put_vshape (h : Hart) (r : SReg) (v : Word) : (h.put r v).vshape = h.vshape := by unfold Hart.put; split <;> simp
@[simp] theorem Hart.put_vpart (h : Hart) (r : SReg) (v : Word) : (h.put r v).vpart = h.vpart := by unfold Hart.put; split <;> simp
@[simp] theorem Hart.put_vw (h : Hart) (r : SReg) (v : Word) : (h.put r v).vw = h.vw := by unfold Hart.put; split <;> simp
@[simp] theorem Hart.put_mw (h : Hart) (r : SReg) (v : Word) : (h.put r v).mw = h.mw := by unfold Hart.put; split <;> simp
@[simp] theorem Hart.put_gw (h : Hart) (r : SReg) (v : Word) : (h.put r v).gw = h.gw := by unfold Hart.put; split <;> simp
@[simp] theorem Hart.put_iw (h : Hart) (r : SReg) (v : Word) : (h.put r v).iw = h.iw := by unfold Hart.put; split <;> simp
@[simp] theorem Hart.put_hctl (h : Hart) (r : SReg) (v : Word) : (h.put r v).hctl = h.hctl := by unfold Hart.put; split <;> simp
@[simp] theorem Hart.put_hstat (h : Hart) (r : SReg) (v : Word) : (h.put r v).hstat = h.hstat := by unfold Hart.put; split <;> simp
@[simp] theorem Hart.put_lamppc (h : Hart) (r : SReg) (v : Word) : (h.put r v).lamppc = h.lamppc := by unfold Hart.put; split <;> simp
@[simp] theorem Hart.put_lampcause (h : Hart) (r : SReg) (v : Word) : (h.put r v).lampcause = h.lampcause := by unfold Hart.put; split <;> simp
@[simp] theorem Hart.put_rtimeout (h : Hart) (r : SReg) (v : Word) : (h.put r v).rtimeout = h.rtimeout := by unfold Hart.put; split <;> simp
@[simp] theorem Hart.put_trappc (h : Hart) (r : SReg) (v : Word) : (h.put r v).trappc = h.trappc := by unfold Hart.put; split <;> simp
@[simp] theorem Hart.put_trapcause (h : Hart) (r : SReg) (v : Word) : (h.put r v).trapcause = h.trapcause := by unfold Hart.put; split <;> simp
@[simp] theorem Hart.put_trapval (h : Hart) (r : SReg) (v : Word) : (h.put r v).trapval = h.trapval := by unfold Hart.put; split <;> simp
@[simp] theorem Hart.put_asid (h : Hart) (r : SReg) (v : Word) : (h.put r v).asid = h.asid := by unfold Hart.put; split <;> simp
@[simp] theorem Hart.put_ptbase (h : Hart) (r : SReg) (v : Word) : (h.put r v).ptbase = h.ptbase := by unfold Hart.put; split <;> simp
@[simp] theorem Hart.put_lamps (h : Hart) (r : SReg) (v : Word) : (h.put r v).lamps = h.lamps := by unfold Hart.put; split <;> simp
@[simp] theorem Hart.put_faults (h : Hart) (r : SReg) (v : Word) : (h.put r v).faults = h.faults := by unfold Hart.put; split <;> simp
@[simp] theorem Hart.put_timeouts (h : Hart) (r : SReg) (v : Word) : (h.put r v).timeouts = h.timeouts := by unfold Hart.put; split <;> simp
@[simp] theorem Hart.put_gangLost (h : Hart) (r : SReg) (v : Word) : (h.put r v).gangLost = h.gangLost := by unfold Hart.put; split <;> simp
@[simp] theorem Hart.put_evict (h : Hart) (r : SReg) (v : Word) : (h.put r v).evict = h.evict := by unfold Hart.put; split <;> simp
@[simp] theorem Hart.put_asked (h : Hart) (r : SReg) (v : Word) : (h.put r v).asked = h.asked := by unfold Hart.put; split <;> simp
@[simp] theorem Hart.put_stepDue (h : Hart) (r : SReg) (v : Word) : (h.put r v).stepDue = h.stepDue := by unfold Hart.put; split <;> simp
@[simp] theorem Hart.put_haltReq (h : Hart) (r : SReg) (v : Word) : (h.put r v).haltReq = h.haltReq := by unfold Hart.put; split <;> simp
@[simp] theorem Hart.put_halted (h : Hart) (r : SReg) (v : Word) : (h.put r v).halted = h.halted := by unfold Hart.put; split <;> simp
@[simp] theorem Hart.put_frozen (h : Hart) (r : SReg) (v : Word) : (h.put r v).frozen = h.frozen := by unfold Hart.put; split <;> simp
@[simp] theorem Hart.put_saved (h : Hart) (r : SReg) (v : Word) : (h.put r v).saved = h.saved := by unfold Hart.put; split <;> simp
@[simp] theorem Hart.put_retiring (h : Hart) (r : SReg) (v : Word) : (h.put r v).retiring = h.retiring := by unfold Hart.put; split <;> simp
@[simp] theorem Hart.put_blocked (h : Hart) (r : SReg) (v : Word) : (h.put r v).blocked = h.blocked := by unfold Hart.put; split <;> simp
@[simp] theorem Hart.put_idle (h : Hart) (r : SReg) (v : Word) : (h.put r v).idle = h.idle := by unfold Hart.put; split <;> simp
@[simp] theorem Hart.put_rbuf (h : Hart) (r : SReg) (v : Word) : (h.put r v).rbuf = h.rbuf := by unfold Hart.put; split <;> simp
@[simp] theorem Hart.put_strip (h : Hart) (r : SReg) (v : Word) : (h.put r v).strip = h.strip := by unfold Hart.put; split <;> simp
@[simp] theorem Hart.put_ifence (h : Hart) (r : SReg) (v : Word) : (h.put r v).ifence = h.ifence := by unfold Hart.put; split <;> simp
@[simp] theorem Hart.put_queues (h : Hart) (r : SReg) (v : Word) : (h.put r v).queues = h.queues := by unfold Hart.put; split <;> simp
@[simp] theorem Hart.put_full (h : Hart) (r : SReg) (v : Word) : (h.put r v).full = h.full := by unfold Hart.put; split <;> simp
@[simp] theorem Hart.put_pushed (h : Hart) (r : SReg) (v : Word) : (h.put r v).pushed = h.pushed := by unfold Hart.put; split <;> simp
@[simp] theorem Hart.put_monitor (h : Hart) (r : SReg) (v : Word) : (h.put r v).monitor = h.monitor := by unfold Hart.put; split <;> simp
@[simp] theorem Hart.put_lane (h : Hart) (r : SReg) (v : Word) : (h.put r v).lane = h.lane := by unfold Hart.put; split <;> simp
@[simp] theorem Hart.put_bar (h : Hart) (r : SReg) (v : Word) : (h.put r v).bar = h.bar := by unfold Hart.put; split <;> simp
@[simp] theorem Hart.put_convoy (h : Hart) (r : SReg) (v : Word) : (h.put r v).convoy = h.convoy := by unfold Hart.put; split <;> simp
@[simp] theorem Hart.put_waitReg (h : Hart) (r : SReg) (v : Word) : (h.put r v).waitReg = h.waitReg := by unfold Hart.put; split <;> simp
@[simp] theorem Hart.put_begun (h : Hart) (r : SReg) (v : Word) : (h.put r v).begun = h.begun := by unfold Hart.put; split <;> simp
@[simp] theorem Hart.put_barrier (h : Hart) (r : SReg) (v : Word) : (h.put r v).barrier = h.barrier := by unfold Hart.put; split <;> simp
@[simp] theorem Hart.put_claimAt (h : Hart) (r : SReg) (v : Word) : (h.put r v).claimAt = h.claimAt := by unfold Hart.put; split <;> simp
@[simp] theorem Hart.put_pillarAt (h : Hart) (r : SReg) (v : Word) : (h.put r v).pillarAt = h.pillarAt := by unfold Hart.put; split <;> simp

/-! ### Taking a trap -/

@[simp] theorem State.takeTrap_h (s : State) (c : Nat) (v : Word) : (s.takeTrap c v).h = s.h.trapEntry s.svec c v := rfl
@[simp] theorem State.takeTrap_others (s : State) (c : Nat) (v : Word) : (s.takeTrap c v).others = s.others := rfl
@[simp] theorem State.takeTrap_mem (s : State) (c : Nat) (v : Word) : (s.takeTrap c v).mem = s.mem := rfl
@[simp] theorem State.takeTrap_regs (s : State) (c : Nat) (v : Word) : (s.takeTrap c v).regs = s.regs := rfl
@[simp] theorem State.takeTrap_tiles (s : State) (c : Nat) (v : Word) : (s.takeTrap c v).tiles = s.tiles := rfl
@[simp] theorem State.takeTrap_poison (s : State) (c : Nat) (v : Word) : (s.takeTrap c v).poison = s.poison := rfl
@[simp] theorem State.takeTrap_regPoison (s : State) (c : Nat) (v : Word) : (s.takeTrap c v).regPoison = s.regPoison := rfl
@[simp] theorem State.takeTrap_matrices (s : State) (c : Nat) (v : Word) : (s.takeTrap c v).matrices = s.matrices := rfl
@[simp] theorem State.takeTrap_launches (s : State) (c : Nat) (v : Word) : (s.takeTrap c v).launches = s.launches := rfl
@[simp] theorem State.takeTrap_farms (s : State) (c : Nat) (v : Word) : (s.takeTrap c v).farms = s.farms := rfl
@[simp] theorem State.takeTrap_ring (s : State) (c : Nat) (v : Word) : (s.takeTrap c v).ring = s.ring := rfl
@[simp] theorem State.takeTrap_streams (s : State) (c : Nat) (v : Word) : (s.takeTrap c v).streams = s.streams := rfl
@[simp] theorem State.takeTrap_orphans (s : State) (c : Nat) (v : Word) : (s.takeTrap c v).orphans = s.orphans := rfl
@[simp] theorem State.takeTrap_finals (s : State) (c : Nat) (v : Word) : (s.takeTrap c v).finals = s.finals := rfl
@[simp] theorem State.takeTrap_pillars (s : State) (c : Nat) (v : Word) : (s.takeTrap c v).pillars = s.pillars := rfl
@[simp] theorem State.takeTrap_routeTiles (s : State) (c : Nat) (v : Word) : (s.takeTrap c v).routeTiles = s.routeTiles := rfl
@[simp] theorem State.takeTrap_routeGens (s : State) (c : Nat) (v : Word) : (s.takeTrap c v).routeGens = s.routeGens := rfl
@[simp] theorem State.takeTrap_targets (s : State) (c : Nat) (v : Word) : (s.takeTrap c v).targets = s.targets := rfl
@[simp] theorem State.takeTrap_pushes (s : State) (c : Nat) (v : Word) : (s.takeTrap c v).pushes = s.pushes := rfl
@[simp] theorem State.takeTrap_contribs (s : State) (c : Nat) (v : Word) : (s.takeTrap c v).contribs = s.contribs := rfl
@[simp] theorem State.takeTrap_tlb (s : State) (c : Nat) (v : Word) : (s.takeTrap c v).tlb = s.tlb := rfl
@[simp] theorem State.takeTrap_icaches (s : State) (c : Nat) (v : Word) : (s.takeTrap c v).icaches = s.icaches := rfl
@[simp] theorem State.takeTrap_dies (s : State) (c : Nat) (v : Word) : (s.takeTrap c v).dies = s.dies := rfl
@[simp] theorem State.takeTrap_cores (s : State) (c : Nat) (v : Word) : (s.takeTrap c v).cores = s.cores := rfl
@[simp] theorem State.takeTrap_hbm (s : State) (c : Nat) (v : Word) : (s.takeTrap c v).hbm = s.hbm := rfl
@[simp] theorem State.takeTrap_links (s : State) (c : Nat) (v : Word) : (s.takeTrap c v).links = s.links := rfl
@[simp] theorem State.takeTrap_assay (s : State) (c : Nat) (v : Word) : (s.takeTrap c v).assay = s.assay := rfl
@[simp] theorem State.takeTrap_powerMode (s : State) (c : Nat) (v : Word) : (s.takeTrap c v).powerMode = s.powerMode := rfl
@[simp] theorem State.takeTrap_powerPending (s : State) (c : Nat) (v : Word) : (s.takeTrap c v).powerPending = s.powerPending := rfl
@[simp] theorem State.takeTrap_powerAct (s : State) (c : Nat) (v : Word) : (s.takeTrap c v).powerAct = s.powerAct := rfl
@[simp] theorem State.takeTrap_therm (s : State) (c : Nat) (v : Word) : (s.takeTrap c v).therm = s.therm := rfl
@[simp] theorem State.takeTrap_powerFloor (s : State) (c : Nat) (v : Word) : (s.takeTrap c v).powerFloor = s.powerFloor := rfl
@[simp] theorem State.takeTrap_powerOver (s : State) (c : Nat) (v : Word) : (s.takeTrap c v).powerOver = s.powerOver := rfl
@[simp] theorem State.takeTrap_powerWatts (s : State) (c : Nat) (v : Word) : (s.takeTrap c v).powerWatts = s.powerWatts := rfl
@[simp] theorem State.takeTrap_devstat (s : State) (c : Nat) (v : Word) : (s.takeTrap c v).devstat = s.devstat := rfl
@[simp] theorem State.takeTrap_bringUp (s : State) (c : Nat) (v : Word) : (s.takeTrap c v).bringUp = s.bringUp := rfl
@[simp] theorem State.takeTrap_hdm (s : State) (c : Nat) (v : Word) : (s.takeTrap c v).hdm = s.hdm := rfl
@[simp] theorem State.takeTrap_secver (s : State) (c : Nat) (v : Word) : (s.takeTrap c v).secver = s.secver := rfl
@[simp] theorem State.takeTrap_failed (s : State) (c : Nat) (v : Word) : (s.takeTrap c v).failed = s.failed := rfl
@[simp] theorem State.takeTrap_spdm (s : State) (c : Nat) (v : Word) : (s.takeTrap c v).spdm = s.spdm := rfl
@[simp] theorem State.takeTrap_hostData (s : State) (c : Nat) (v : Word) : (s.takeTrap c v).hostData = s.hostData := rfl
@[simp] theorem State.takeTrap_tick (s : State) (c : Nat) (v : Word) : (s.takeTrap c v).tick = s.tick := rfl
@[simp] theorem State.takeTrap_nextId (s : State) (c : Nat) (v : Word) : (s.takeTrap c v).nextId = s.nextId := rfl
@[simp] theorem State.takeTrap_part (s : State) (c : Nat) (v : Word) : (s.takeTrap c v).part = s.part := rfl
@[simp] theorem State.takeTrap_tanPrefix (s : State) (c : Nat) (v : Word) : (s.takeTrap c v).tanPrefix = s.tanPrefix := rfl
@[simp] theorem State.takeTrap_inputs (s : State) (c : Nat) (v : Word) : (s.takeTrap c v).inputs = s.inputs := rfl
@[simp] theorem State.takeTrap_outside (s : State) (c : Nat) (v : Word) : (s.takeTrap c v).outside = s.outside := rfl
@[simp] theorem State.takeTrap_turn (s : State) (c : Nat) (v : Word) : (s.takeTrap c v).turn = s.turn := rfl

/-! ### The parts of trap entry: leaving a wait -/

@[simp] theorem Hart.leaveWait_live (h : Hart) : (h.leaveWait).live = h.live := rfl
@[simp] theorem Hart.leaveWait_key (h : Hart) : (h.leaveWait).key = h.key := rfl
@[simp] theorem Hart.leaveWait_stop (h : Hart) : (h.leaveWait).stop = h.stop := rfl
@[simp] theorem Hart.leaveWait_slot (h : Hart) : (h.leaveWait).slot = h.slot := rfl
@[simp] theorem Hart.leaveWait_prio (h : Hart) : (h.leaveWait).prio = h.prio := rfl
@[simp] theorem Hart.leaveWait_gang (h : Hart) : (h.leaveWait).gang = h.gang := rfl
@[simp] theorem Hart.leaveWait_s (h : Hart) : (h.leaveWait).s = h.s := rfl
@[simp] theorem Hart.leaveWait_b (h : Hart) : (h.leaveWait).b = h.b := rfl
@[simp] theorem Hart.leaveWait_alt (h : Hart) : (h.leaveWait).alt = h.alt := rfl
@[simp] theorem Hart.leaveWait_stan (h : Hart) : (h.leaveWait).stan = h.stan := rfl
@[simp] theorem Hart.leaveWait_altStan (h : Hart) : (h.leaveWait).altStan = h.altStan := rfl
@[simp] theorem Hart.leaveWait_pc (h : Hart) : (h.leaveWait).pc = h.pc := rfl
@[simp] theorem Hart.leaveWait_level (h : Hart) : (h.leaveWait).level = h.level := rfl
@[simp] theorem Hart.leaveWait_fcsr (h : Hart) : (h.leaveWait).fcsr = h.fcsr := rfl
@[simp] theorem Hart.leaveWait_seed (h : Hart) : (h.leaveWait).seed = h.seed := rfl
@[simp] theorem Hart.leaveWait_sbase (h : Hart) : (h.leaveWait).sbase = h.sbase := rfl
@[simp] theorem Hart.leaveWait_sstep (h : Hart) : (h.leaveWait).sstep = h.sstep := rfl
@[simp] theorem Hart.leaveWait_tann (h : Hart) : (h.leaveWait).tann = h.tann := rfl
@[simp] theorem Hart.leaveWait_ordscope (h : Hart) : (h.leaveWait).ordscope = h.ordscope := rfl
@[simp] theorem Hart.leaveWait_ictl (h : Hart) : (h.leaveWait).ictl = h.ictl := rfl
@[simp] theorem Hart.leaveWait_vl (h : Hart) : (h.leaveWait).vl = h.vl := rfl
@[simp] theorem Hart.leaveWait_vtype (h : Hart) : (h.leaveWait).vtype = h.vtype := rfl
@[simp] theorem Hart.leaveWait_vstart (h : Hart) : (h.leaveWait).vstart = h.vstart := rfl
@[simp] theorem Hart.leaveWait_vshape (h : Hart) : (h.leaveWait).vshape = h.vshape := rfl
@[simp] theorem Hart.leaveWait_vpart (h : Hart) : (h.leaveWait).vpart = h.vpart := rfl
@[simp] theorem Hart.leaveWait_vw (h : Hart) : (h.leaveWait).vw = h.vw := rfl
@[simp] theorem Hart.leaveWait_mw (h : Hart) : (h.leaveWait).mw = h.mw := rfl
@[simp] theorem Hart.leaveWait_gw (h : Hart) : (h.leaveWait).gw = h.gw := rfl
@[simp] theorem Hart.leaveWait_iw (h : Hart) : (h.leaveWait).iw = h.iw := rfl
@[simp] theorem Hart.leaveWait_hctl (h : Hart) : (h.leaveWait).hctl = h.hctl := rfl
@[simp] theorem Hart.leaveWait_hstat (h : Hart) : (h.leaveWait).hstat = h.hstat := rfl
@[simp] theorem Hart.leaveWait_lamppc (h : Hart) : (h.leaveWait).lamppc = h.lamppc := rfl
@[simp] theorem Hart.leaveWait_lampcause (h : Hart) : (h.leaveWait).lampcause = h.lampcause := rfl
@[simp] theorem Hart.leaveWait_rtimeout (h : Hart) : (h.leaveWait).rtimeout = h.rtimeout := rfl
@[simp] theorem Hart.leaveWait_trappc (h : Hart) : (h.leaveWait).trappc = h.trappc := rfl
@[simp] theorem Hart.leaveWait_trapcause (h : Hart) : (h.leaveWait).trapcause = h.trapcause := rfl
@[simp] theorem Hart.leaveWait_trapval (h : Hart) : (h.leaveWait).trapval = h.trapval := rfl
@[simp] theorem Hart.leaveWait_asid (h : Hart) : (h.leaveWait).asid = h.asid := rfl
@[simp] theorem Hart.leaveWait_ptbase (h : Hart) : (h.leaveWait).ptbase = h.ptbase := rfl
@[simp] theorem Hart.leaveWait_lamps (h : Hart) : (h.leaveWait).lamps = h.lamps := rfl
@[simp] theorem Hart.leaveWait_faults (h : Hart) : (h.leaveWait).faults = h.faults := rfl
@[simp] theorem Hart.leaveWait_timeouts (h : Hart) : (h.leaveWait).timeouts = h.timeouts := rfl
@[simp] theorem Hart.leaveWait_gangLost (h : Hart) : (h.leaveWait).gangLost = h.gangLost := rfl
@[simp] theorem Hart.leaveWait_evict (h : Hart) : (h.leaveWait).evict = h.evict := rfl
@[simp] theorem Hart.leaveWait_asked (h : Hart) : (h.leaveWait).asked = h.asked := rfl
@[simp] theorem Hart.leaveWait_stepDue (h : Hart) : (h.leaveWait).stepDue = h.stepDue := rfl
@[simp] theorem Hart.leaveWait_haltReq (h : Hart) : (h.leaveWait).haltReq = h.haltReq := rfl
@[simp] theorem Hart.leaveWait_halted (h : Hart) : (h.leaveWait).halted = h.halted := rfl
@[simp] theorem Hart.leaveWait_frozen (h : Hart) : (h.leaveWait).frozen = h.frozen := rfl
@[simp] theorem Hart.leaveWait_saved (h : Hart) : (h.leaveWait).saved = h.saved := rfl
@[simp] theorem Hart.leaveWait_blocked (h : Hart) : (h.leaveWait).blocked = h.blocked := rfl
@[simp] theorem Hart.leaveWait_rbuf (h : Hart) : (h.leaveWait).rbuf = h.rbuf := rfl
@[simp] theorem Hart.leaveWait_strip (h : Hart) : (h.leaveWait).strip = h.strip := rfl
@[simp] theorem Hart.leaveWait_ifence (h : Hart) : (h.leaveWait).ifence = h.ifence := rfl
@[simp] theorem Hart.leaveWait_queues (h : Hart) : (h.leaveWait).queues = h.queues := rfl
@[simp] theorem Hart.leaveWait_full (h : Hart) : (h.leaveWait).full = h.full := rfl
@[simp] theorem Hart.leaveWait_pushed (h : Hart) : (h.leaveWait).pushed = h.pushed := rfl
@[simp] theorem Hart.leaveWait_monitor (h : Hart) : (h.leaveWait).monitor = h.monitor := rfl
@[simp] theorem Hart.leaveWait_bar (h : Hart) : (h.leaveWait).bar = h.bar := rfl
@[simp] theorem Hart.leaveWait_convoy (h : Hart) : (h.leaveWait).convoy = h.convoy := rfl
@[simp] theorem Hart.leaveWait_barrier (h : Hart) : (h.leaveWait).barrier = h.barrier := rfl

/-! ### Closing a strip -/

@[simp] theorem Hart.closeStrip_live (h : Hart) : (h.closeStrip).live = h.live := rfl
@[simp] theorem Hart.closeStrip_key (h : Hart) : (h.closeStrip).key = h.key := rfl
@[simp] theorem Hart.closeStrip_stop (h : Hart) : (h.closeStrip).stop = h.stop := rfl
@[simp] theorem Hart.closeStrip_slot (h : Hart) : (h.closeStrip).slot = h.slot := rfl
@[simp] theorem Hart.closeStrip_prio (h : Hart) : (h.closeStrip).prio = h.prio := rfl
@[simp] theorem Hart.closeStrip_gang (h : Hart) : (h.closeStrip).gang = h.gang := rfl
@[simp] theorem Hart.closeStrip_s (h : Hart) : (h.closeStrip).s = h.s := rfl
@[simp] theorem Hart.closeStrip_b (h : Hart) : (h.closeStrip).b = h.b := rfl
@[simp] theorem Hart.closeStrip_alt (h : Hart) : (h.closeStrip).alt = h.alt := rfl
@[simp] theorem Hart.closeStrip_stan (h : Hart) : (h.closeStrip).stan = h.stan := rfl
@[simp] theorem Hart.closeStrip_altStan (h : Hart) : (h.closeStrip).altStan = h.altStan := rfl
@[simp] theorem Hart.closeStrip_pc (h : Hart) : (h.closeStrip).pc = h.pc := rfl
@[simp] theorem Hart.closeStrip_level (h : Hart) : (h.closeStrip).level = h.level := rfl
@[simp] theorem Hart.closeStrip_fcsr (h : Hart) : (h.closeStrip).fcsr = h.fcsr := rfl
@[simp] theorem Hart.closeStrip_seed (h : Hart) : (h.closeStrip).seed = h.seed := rfl
@[simp] theorem Hart.closeStrip_sbase (h : Hart) : (h.closeStrip).sbase = h.sbase := rfl
@[simp] theorem Hart.closeStrip_sstep (h : Hart) : (h.closeStrip).sstep = h.sstep := rfl
@[simp] theorem Hart.closeStrip_tann (h : Hart) : (h.closeStrip).tann = h.tann := rfl
@[simp] theorem Hart.closeStrip_ordscope (h : Hart) : (h.closeStrip).ordscope = h.ordscope := rfl
@[simp] theorem Hart.closeStrip_ictl (h : Hart) : (h.closeStrip).ictl = h.ictl := rfl
@[simp] theorem Hart.closeStrip_vl (h : Hart) : (h.closeStrip).vl = h.vl := rfl
@[simp] theorem Hart.closeStrip_vtype (h : Hart) : (h.closeStrip).vtype = h.vtype := rfl
@[simp] theorem Hart.closeStrip_vstart (h : Hart) : (h.closeStrip).vstart = h.vstart := rfl
@[simp] theorem Hart.closeStrip_vshape (h : Hart) : (h.closeStrip).vshape = h.vshape := rfl
@[simp] theorem Hart.closeStrip_vpart (h : Hart) : (h.closeStrip).vpart = h.vpart := rfl
@[simp] theorem Hart.closeStrip_vw (h : Hart) : (h.closeStrip).vw = h.vw := rfl
@[simp] theorem Hart.closeStrip_mw (h : Hart) : (h.closeStrip).mw = h.mw := rfl
@[simp] theorem Hart.closeStrip_gw (h : Hart) : (h.closeStrip).gw = h.gw := rfl
@[simp] theorem Hart.closeStrip_iw (h : Hart) : (h.closeStrip).iw = h.iw := rfl
@[simp] theorem Hart.closeStrip_hctl (h : Hart) : (h.closeStrip).hctl = h.hctl := rfl
@[simp] theorem Hart.closeStrip_hstat (h : Hart) : (h.closeStrip).hstat = h.hstat := rfl
@[simp] theorem Hart.closeStrip_lamppc (h : Hart) : (h.closeStrip).lamppc = h.lamppc := rfl
@[simp] theorem Hart.closeStrip_lampcause (h : Hart) : (h.closeStrip).lampcause = h.lampcause := rfl
@[simp] theorem Hart.closeStrip_rtimeout (h : Hart) : (h.closeStrip).rtimeout = h.rtimeout := rfl
@[simp] theorem Hart.closeStrip_trappc (h : Hart) : (h.closeStrip).trappc = h.trappc := rfl
@[simp] theorem Hart.closeStrip_trapcause (h : Hart) : (h.closeStrip).trapcause = h.trapcause := rfl
@[simp] theorem Hart.closeStrip_trapval (h : Hart) : (h.closeStrip).trapval = h.trapval := rfl
@[simp] theorem Hart.closeStrip_asid (h : Hart) : (h.closeStrip).asid = h.asid := rfl
@[simp] theorem Hart.closeStrip_ptbase (h : Hart) : (h.closeStrip).ptbase = h.ptbase := rfl
@[simp] theorem Hart.closeStrip_lamps (h : Hart) : (h.closeStrip).lamps = h.lamps := rfl
@[simp] theorem Hart.closeStrip_faults (h : Hart) : (h.closeStrip).faults = h.faults := rfl
@[simp] theorem Hart.closeStrip_timeouts (h : Hart) : (h.closeStrip).timeouts = h.timeouts := rfl
@[simp] theorem Hart.closeStrip_gangLost (h : Hart) : (h.closeStrip).gangLost = h.gangLost := rfl
@[simp] theorem Hart.closeStrip_evict (h : Hart) : (h.closeStrip).evict = h.evict := rfl
@[simp] theorem Hart.closeStrip_asked (h : Hart) : (h.closeStrip).asked = h.asked := rfl
@[simp] theorem Hart.closeStrip_stepDue (h : Hart) : (h.closeStrip).stepDue = h.stepDue := rfl
@[simp] theorem Hart.closeStrip_haltReq (h : Hart) : (h.closeStrip).haltReq = h.haltReq := rfl
@[simp] theorem Hart.closeStrip_halted (h : Hart) : (h.closeStrip).halted = h.halted := rfl
@[simp] theorem Hart.closeStrip_frozen (h : Hart) : (h.closeStrip).frozen = h.frozen := rfl
@[simp] theorem Hart.closeStrip_saved (h : Hart) : (h.closeStrip).saved = h.saved := rfl
@[simp] theorem Hart.closeStrip_retiring (h : Hart) : (h.closeStrip).retiring = h.retiring := rfl
@[simp] theorem Hart.closeStrip_blocked (h : Hart) : (h.closeStrip).blocked = h.blocked := rfl
@[simp] theorem Hart.closeStrip_idle (h : Hart) : (h.closeStrip).idle = h.idle := rfl
@[simp] theorem Hart.closeStrip_ifence (h : Hart) : (h.closeStrip).ifence = h.ifence := rfl
@[simp] theorem Hart.closeStrip_queues (h : Hart) : (h.closeStrip).queues = h.queues := rfl
@[simp] theorem Hart.closeStrip_full (h : Hart) : (h.closeStrip).full = h.full := rfl
@[simp] theorem Hart.closeStrip_pushed (h : Hart) : (h.closeStrip).pushed = h.pushed := rfl
@[simp] theorem Hart.closeStrip_monitor (h : Hart) : (h.closeStrip).monitor = h.monitor := rfl
@[simp] theorem Hart.closeStrip_lane (h : Hart) : (h.closeStrip).lane = h.lane := rfl
@[simp] theorem Hart.closeStrip_bar (h : Hart) : (h.closeStrip).bar = h.bar := rfl
@[simp] theorem Hart.closeStrip_convoy (h : Hart) : (h.closeStrip).convoy = h.convoy := rfl
@[simp] theorem Hart.closeStrip_waitReg (h : Hart) : (h.closeStrip).waitReg = h.waitReg := rfl
@[simp] theorem Hart.closeStrip_begun (h : Hart) : (h.closeStrip).begun = h.begun := rfl
@[simp] theorem Hart.closeStrip_barrier (h : Hart) : (h.closeStrip).barrier = h.barrier := rfl
@[simp] theorem Hart.closeStrip_claimAt (h : Hart) : (h.closeStrip).claimAt = h.claimAt := rfl
@[simp] theorem Hart.closeStrip_pillarAt (h : Hart) : (h.closeStrip).pillarAt = h.pillarAt := rfl

/-! ### Queued elements dropped -/

@[simp] theorem Hart.dropQueued_live (h : Hart) : (h.dropQueued).live = h.live := rfl
@[simp] theorem Hart.dropQueued_key (h : Hart) : (h.dropQueued).key = h.key := rfl
@[simp] theorem Hart.dropQueued_stop (h : Hart) : (h.dropQueued).stop = h.stop := rfl
@[simp] theorem Hart.dropQueued_slot (h : Hart) : (h.dropQueued).slot = h.slot := rfl
@[simp] theorem Hart.dropQueued_prio (h : Hart) : (h.dropQueued).prio = h.prio := rfl
@[simp] theorem Hart.dropQueued_gang (h : Hart) : (h.dropQueued).gang = h.gang := rfl
@[simp] theorem Hart.dropQueued_s (h : Hart) : (h.dropQueued).s = h.s := rfl
@[simp] theorem Hart.dropQueued_b (h : Hart) : (h.dropQueued).b = h.b := rfl
@[simp] theorem Hart.dropQueued_alt (h : Hart) : (h.dropQueued).alt = h.alt := rfl
@[simp] theorem Hart.dropQueued_stan (h : Hart) : (h.dropQueued).stan = h.stan := rfl
@[simp] theorem Hart.dropQueued_altStan (h : Hart) : (h.dropQueued).altStan = h.altStan := rfl
@[simp] theorem Hart.dropQueued_pc (h : Hart) : (h.dropQueued).pc = h.pc := rfl
@[simp] theorem Hart.dropQueued_level (h : Hart) : (h.dropQueued).level = h.level := rfl
@[simp] theorem Hart.dropQueued_fcsr (h : Hart) : (h.dropQueued).fcsr = h.fcsr := rfl
@[simp] theorem Hart.dropQueued_seed (h : Hart) : (h.dropQueued).seed = h.seed := rfl
@[simp] theorem Hart.dropQueued_sbase (h : Hart) : (h.dropQueued).sbase = h.sbase := rfl
@[simp] theorem Hart.dropQueued_sstep (h : Hart) : (h.dropQueued).sstep = h.sstep := rfl
@[simp] theorem Hart.dropQueued_tann (h : Hart) : (h.dropQueued).tann = h.tann := rfl
@[simp] theorem Hart.dropQueued_ordscope (h : Hart) : (h.dropQueued).ordscope = h.ordscope := rfl
@[simp] theorem Hart.dropQueued_ictl (h : Hart) : (h.dropQueued).ictl = h.ictl := rfl
@[simp] theorem Hart.dropQueued_vl (h : Hart) : (h.dropQueued).vl = h.vl := rfl
@[simp] theorem Hart.dropQueued_vtype (h : Hart) : (h.dropQueued).vtype = h.vtype := rfl
@[simp] theorem Hart.dropQueued_vstart (h : Hart) : (h.dropQueued).vstart = h.vstart := rfl
@[simp] theorem Hart.dropQueued_vshape (h : Hart) : (h.dropQueued).vshape = h.vshape := rfl
@[simp] theorem Hart.dropQueued_vpart (h : Hart) : (h.dropQueued).vpart = h.vpart := rfl
@[simp] theorem Hart.dropQueued_vw (h : Hart) : (h.dropQueued).vw = h.vw := rfl
@[simp] theorem Hart.dropQueued_mw (h : Hart) : (h.dropQueued).mw = h.mw := rfl
@[simp] theorem Hart.dropQueued_gw (h : Hart) : (h.dropQueued).gw = h.gw := rfl
@[simp] theorem Hart.dropQueued_iw (h : Hart) : (h.dropQueued).iw = h.iw := rfl
@[simp] theorem Hart.dropQueued_hctl (h : Hart) : (h.dropQueued).hctl = h.hctl := rfl
@[simp] theorem Hart.dropQueued_hstat (h : Hart) : (h.dropQueued).hstat = h.hstat := rfl
@[simp] theorem Hart.dropQueued_lamppc (h : Hart) : (h.dropQueued).lamppc = h.lamppc := rfl
@[simp] theorem Hart.dropQueued_lampcause (h : Hart) : (h.dropQueued).lampcause = h.lampcause := rfl
@[simp] theorem Hart.dropQueued_rtimeout (h : Hart) : (h.dropQueued).rtimeout = h.rtimeout := rfl
@[simp] theorem Hart.dropQueued_trappc (h : Hart) : (h.dropQueued).trappc = h.trappc := rfl
@[simp] theorem Hart.dropQueued_trapcause (h : Hart) : (h.dropQueued).trapcause = h.trapcause := rfl
@[simp] theorem Hart.dropQueued_trapval (h : Hart) : (h.dropQueued).trapval = h.trapval := rfl
@[simp] theorem Hart.dropQueued_asid (h : Hart) : (h.dropQueued).asid = h.asid := rfl
@[simp] theorem Hart.dropQueued_ptbase (h : Hart) : (h.dropQueued).ptbase = h.ptbase := rfl
@[simp] theorem Hart.dropQueued_lamps (h : Hart) : (h.dropQueued).lamps = h.lamps := rfl
@[simp] theorem Hart.dropQueued_faults (h : Hart) : (h.dropQueued).faults = h.faults := rfl
@[simp] theorem Hart.dropQueued_timeouts (h : Hart) : (h.dropQueued).timeouts = h.timeouts := rfl
@[simp] theorem Hart.dropQueued_gangLost (h : Hart) : (h.dropQueued).gangLost = h.gangLost := rfl
@[simp] theorem Hart.dropQueued_evict (h : Hart) : (h.dropQueued).evict = h.evict := rfl
@[simp] theorem Hart.dropQueued_asked (h : Hart) : (h.dropQueued).asked = h.asked := rfl
@[simp] theorem Hart.dropQueued_stepDue (h : Hart) : (h.dropQueued).stepDue = h.stepDue := rfl
@[simp] theorem Hart.dropQueued_haltReq (h : Hart) : (h.dropQueued).haltReq = h.haltReq := rfl
@[simp] theorem Hart.dropQueued_halted (h : Hart) : (h.dropQueued).halted = h.halted := rfl
@[simp] theorem Hart.dropQueued_frozen (h : Hart) : (h.dropQueued).frozen = h.frozen := rfl
@[simp] theorem Hart.dropQueued_saved (h : Hart) : (h.dropQueued).saved = h.saved := rfl
@[simp] theorem Hart.dropQueued_retiring (h : Hart) : (h.dropQueued).retiring = h.retiring := rfl
@[simp] theorem Hart.dropQueued_blocked (h : Hart) : (h.dropQueued).blocked = h.blocked := rfl
@[simp] theorem Hart.dropQueued_idle (h : Hart) : (h.dropQueued).idle = h.idle := rfl
@[simp] theorem Hart.dropQueued_rbuf (h : Hart) : (h.dropQueued).rbuf = h.rbuf := rfl
@[simp] theorem Hart.dropQueued_strip (h : Hart) : (h.dropQueued).strip = h.strip := rfl
@[simp] theorem Hart.dropQueued_ifence (h : Hart) : (h.dropQueued).ifence = h.ifence := rfl
@[simp] theorem Hart.dropQueued_full (h : Hart) : (h.dropQueued).full = h.full := rfl
@[simp] theorem Hart.dropQueued_pushed (h : Hart) : (h.dropQueued).pushed = h.pushed := rfl
@[simp] theorem Hart.dropQueued_monitor (h : Hart) : (h.dropQueued).monitor = h.monitor := rfl
@[simp] theorem Hart.dropQueued_lane (h : Hart) : (h.dropQueued).lane = h.lane := rfl
@[simp] theorem Hart.dropQueued_bar (h : Hart) : (h.dropQueued).bar = h.bar := rfl
@[simp] theorem Hart.dropQueued_convoy (h : Hart) : (h.dropQueued).convoy = h.convoy := rfl
@[simp] theorem Hart.dropQueued_waitReg (h : Hart) : (h.dropQueued).waitReg = h.waitReg := rfl
@[simp] theorem Hart.dropQueued_begun (h : Hart) : (h.dropQueued).begun = h.begun := rfl
@[simp] theorem Hart.dropQueued_barrier (h : Hart) : (h.dropQueued).barrier = h.barrier := rfl
@[simp] theorem Hart.dropQueued_claimAt (h : Hart) : (h.dropQueued).claimAt = h.claimAt := rfl
@[simp] theorem Hart.dropQueued_pillarAt (h : Hart) : (h.dropQueued).pillarAt = h.pillarAt := rfl

/-! ### Queues unbound -/

@[simp] theorem Hart.unbind_live (h : Hart) (k : Nat) : (h.unbind k).live = h.live := by simp only [Hart.unbind]
@[simp] theorem Hart.unbind_key (h : Hart) (k : Nat) : (h.unbind k).key = h.key := by simp only [Hart.unbind]
@[simp] theorem Hart.unbind_stop (h : Hart) (k : Nat) : (h.unbind k).stop = h.stop := by simp only [Hart.unbind]
@[simp] theorem Hart.unbind_slot (h : Hart) (k : Nat) : (h.unbind k).slot = h.slot := by simp only [Hart.unbind]
@[simp] theorem Hart.unbind_prio (h : Hart) (k : Nat) : (h.unbind k).prio = h.prio := by simp only [Hart.unbind]
@[simp] theorem Hart.unbind_gang (h : Hart) (k : Nat) : (h.unbind k).gang = h.gang := by simp only [Hart.unbind]
@[simp] theorem Hart.unbind_s (h : Hart) (k : Nat) : (h.unbind k).s = h.s := by simp only [Hart.unbind]
@[simp] theorem Hart.unbind_b (h : Hart) (k : Nat) : (h.unbind k).b = h.b := by simp only [Hart.unbind]
@[simp] theorem Hart.unbind_alt (h : Hart) (k : Nat) : (h.unbind k).alt = h.alt := by simp only [Hart.unbind]
@[simp] theorem Hart.unbind_stan (h : Hart) (k : Nat) : (h.unbind k).stan = h.stan := by simp only [Hart.unbind]
@[simp] theorem Hart.unbind_altStan (h : Hart) (k : Nat) : (h.unbind k).altStan = h.altStan := by simp only [Hart.unbind]
@[simp] theorem Hart.unbind_pc (h : Hart) (k : Nat) : (h.unbind k).pc = h.pc := by simp only [Hart.unbind]
@[simp] theorem Hart.unbind_level (h : Hart) (k : Nat) : (h.unbind k).level = h.level := by simp only [Hart.unbind]
@[simp] theorem Hart.unbind_fcsr (h : Hart) (k : Nat) : (h.unbind k).fcsr = h.fcsr := by simp only [Hart.unbind]
@[simp] theorem Hart.unbind_seed (h : Hart) (k : Nat) : (h.unbind k).seed = h.seed := by simp only [Hart.unbind]
@[simp] theorem Hart.unbind_sbase (h : Hart) (k : Nat) : (h.unbind k).sbase = h.sbase := by simp only [Hart.unbind]
@[simp] theorem Hart.unbind_sstep (h : Hart) (k : Nat) : (h.unbind k).sstep = h.sstep := by simp only [Hart.unbind]
@[simp] theorem Hart.unbind_tann (h : Hart) (k : Nat) : (h.unbind k).tann = h.tann := by simp only [Hart.unbind]
@[simp] theorem Hart.unbind_ordscope (h : Hart) (k : Nat) : (h.unbind k).ordscope = h.ordscope := by simp only [Hart.unbind]
@[simp] theorem Hart.unbind_ictl (h : Hart) (k : Nat) : (h.unbind k).ictl = h.ictl := by simp only [Hart.unbind]
@[simp] theorem Hart.unbind_vl (h : Hart) (k : Nat) : (h.unbind k).vl = h.vl := by simp only [Hart.unbind]
@[simp] theorem Hart.unbind_vtype (h : Hart) (k : Nat) : (h.unbind k).vtype = h.vtype := by simp only [Hart.unbind]
@[simp] theorem Hart.unbind_vstart (h : Hart) (k : Nat) : (h.unbind k).vstart = h.vstart := by simp only [Hart.unbind]
@[simp] theorem Hart.unbind_vshape (h : Hart) (k : Nat) : (h.unbind k).vshape = h.vshape := by simp only [Hart.unbind]
@[simp] theorem Hart.unbind_vpart (h : Hart) (k : Nat) : (h.unbind k).vpart = h.vpart := by simp only [Hart.unbind]
@[simp] theorem Hart.unbind_vw (h : Hart) (k : Nat) : (h.unbind k).vw = h.vw := by simp only [Hart.unbind]
@[simp] theorem Hart.unbind_mw (h : Hart) (k : Nat) : (h.unbind k).mw = h.mw := by simp only [Hart.unbind]
@[simp] theorem Hart.unbind_gw (h : Hart) (k : Nat) : (h.unbind k).gw = h.gw := by simp only [Hart.unbind]
@[simp] theorem Hart.unbind_iw (h : Hart) (k : Nat) : (h.unbind k).iw = h.iw := by simp only [Hart.unbind]
@[simp] theorem Hart.unbind_hctl (h : Hart) (k : Nat) : (h.unbind k).hctl = h.hctl := by simp only [Hart.unbind]
@[simp] theorem Hart.unbind_hstat (h : Hart) (k : Nat) : (h.unbind k).hstat = h.hstat := by simp only [Hart.unbind]
@[simp] theorem Hart.unbind_lamppc (h : Hart) (k : Nat) : (h.unbind k).lamppc = h.lamppc := by simp only [Hart.unbind]
@[simp] theorem Hart.unbind_lampcause (h : Hart) (k : Nat) : (h.unbind k).lampcause = h.lampcause := by simp only [Hart.unbind]
@[simp] theorem Hart.unbind_rtimeout (h : Hart) (k : Nat) : (h.unbind k).rtimeout = h.rtimeout := by simp only [Hart.unbind]
@[simp] theorem Hart.unbind_trappc (h : Hart) (k : Nat) : (h.unbind k).trappc = h.trappc := by simp only [Hart.unbind]
@[simp] theorem Hart.unbind_trapcause (h : Hart) (k : Nat) : (h.unbind k).trapcause = h.trapcause := by simp only [Hart.unbind]
@[simp] theorem Hart.unbind_trapval (h : Hart) (k : Nat) : (h.unbind k).trapval = h.trapval := by simp only [Hart.unbind]
@[simp] theorem Hart.unbind_asid (h : Hart) (k : Nat) : (h.unbind k).asid = h.asid := by simp only [Hart.unbind]
@[simp] theorem Hart.unbind_ptbase (h : Hart) (k : Nat) : (h.unbind k).ptbase = h.ptbase := by simp only [Hart.unbind]
@[simp] theorem Hart.unbind_lamps (h : Hart) (k : Nat) : (h.unbind k).lamps = h.lamps := by simp only [Hart.unbind]
@[simp] theorem Hart.unbind_faults (h : Hart) (k : Nat) : (h.unbind k).faults = h.faults := by simp only [Hart.unbind]
@[simp] theorem Hart.unbind_timeouts (h : Hart) (k : Nat) : (h.unbind k).timeouts = h.timeouts := by simp only [Hart.unbind]
@[simp] theorem Hart.unbind_gangLost (h : Hart) (k : Nat) : (h.unbind k).gangLost = h.gangLost := by simp only [Hart.unbind]
@[simp] theorem Hart.unbind_evict (h : Hart) (k : Nat) : (h.unbind k).evict = h.evict := by simp only [Hart.unbind]
@[simp] theorem Hart.unbind_asked (h : Hart) (k : Nat) : (h.unbind k).asked = h.asked := by simp only [Hart.unbind]
@[simp] theorem Hart.unbind_stepDue (h : Hart) (k : Nat) : (h.unbind k).stepDue = h.stepDue := by simp only [Hart.unbind]
@[simp] theorem Hart.unbind_haltReq (h : Hart) (k : Nat) : (h.unbind k).haltReq = h.haltReq := by simp only [Hart.unbind]
@[simp] theorem Hart.unbind_halted (h : Hart) (k : Nat) : (h.unbind k).halted = h.halted := by simp only [Hart.unbind]
@[simp] theorem Hart.unbind_frozen (h : Hart) (k : Nat) : (h.unbind k).frozen = h.frozen := by simp only [Hart.unbind]
@[simp] theorem Hart.unbind_saved (h : Hart) (k : Nat) : (h.unbind k).saved = h.saved := by simp only [Hart.unbind]
@[simp] theorem Hart.unbind_retiring (h : Hart) (k : Nat) : (h.unbind k).retiring = h.retiring := by simp only [Hart.unbind]
@[simp] theorem Hart.unbind_blocked (h : Hart) (k : Nat) : (h.unbind k).blocked = h.blocked := by simp only [Hart.unbind]
@[simp] theorem Hart.unbind_idle (h : Hart) (k : Nat) : (h.unbind k).idle = h.idle := by simp only [Hart.unbind]
@[simp] theorem Hart.unbind_rbuf (h : Hart) (k : Nat) : (h.unbind k).rbuf = h.rbuf := by simp only [Hart.unbind]
@[simp] theorem Hart.unbind_strip (h : Hart) (k : Nat) : (h.unbind k).strip = h.strip := by simp only [Hart.unbind]
@[simp] theorem Hart.unbind_ifence (h : Hart) (k : Nat) : (h.unbind k).ifence = h.ifence := by simp only [Hart.unbind]
@[simp] theorem Hart.unbind_full (h : Hart) (k : Nat) : (h.unbind k).full = h.full := by simp only [Hart.unbind]
@[simp] theorem Hart.unbind_pushed (h : Hart) (k : Nat) : (h.unbind k).pushed = h.pushed := by simp only [Hart.unbind]
@[simp] theorem Hart.unbind_monitor (h : Hart) (k : Nat) : (h.unbind k).monitor = h.monitor := by simp only [Hart.unbind]
@[simp] theorem Hart.unbind_lane (h : Hart) (k : Nat) : (h.unbind k).lane = h.lane := by simp only [Hart.unbind]
@[simp] theorem Hart.unbind_bar (h : Hart) (k : Nat) : (h.unbind k).bar = h.bar := by simp only [Hart.unbind]
@[simp] theorem Hart.unbind_convoy (h : Hart) (k : Nat) : (h.unbind k).convoy = h.convoy := by simp only [Hart.unbind]
@[simp] theorem Hart.unbind_waitReg (h : Hart) (k : Nat) : (h.unbind k).waitReg = h.waitReg := by simp only [Hart.unbind]
@[simp] theorem Hart.unbind_begun (h : Hart) (k : Nat) : (h.unbind k).begun = h.begun := by simp only [Hart.unbind]
@[simp] theorem Hart.unbind_barrier (h : Hart) (k : Nat) : (h.unbind k).barrier = h.barrier := by simp only [Hart.unbind]
@[simp] theorem Hart.unbind_claimAt (h : Hart) (k : Nat) : (h.unbind k).claimAt = h.claimAt := by simp only [Hart.unbind]
@[simp] theorem Hart.unbind_pillarAt (h : Hart) (k : Nat) : (h.unbind k).pillarAt = h.pillarAt := by simp only [Hart.unbind]

/-! ### The end of a strip -/

@[simp] theorem Hart.endStrip_live (h : Hart) : (h.endStrip).live = h.live := by simp [Hart.endStrip]
@[simp] theorem Hart.endStrip_key (h : Hart) : (h.endStrip).key = h.key := by simp [Hart.endStrip]
@[simp] theorem Hart.endStrip_stop (h : Hart) : (h.endStrip).stop = h.stop := by simp [Hart.endStrip]
@[simp] theorem Hart.endStrip_slot (h : Hart) : (h.endStrip).slot = h.slot := by simp [Hart.endStrip]
@[simp] theorem Hart.endStrip_prio (h : Hart) : (h.endStrip).prio = h.prio := by simp [Hart.endStrip]
@[simp] theorem Hart.endStrip_gang (h : Hart) : (h.endStrip).gang = h.gang := by simp [Hart.endStrip]
@[simp] theorem Hart.endStrip_s (h : Hart) : (h.endStrip).s = h.s := by simp [Hart.endStrip]
@[simp] theorem Hart.endStrip_b (h : Hart) : (h.endStrip).b = h.b := by simp [Hart.endStrip]
@[simp] theorem Hart.endStrip_alt (h : Hart) : (h.endStrip).alt = h.alt := by simp [Hart.endStrip]
@[simp] theorem Hart.endStrip_stan (h : Hart) : (h.endStrip).stan = h.stan := by simp [Hart.endStrip]
@[simp] theorem Hart.endStrip_altStan (h : Hart) : (h.endStrip).altStan = h.altStan := by simp [Hart.endStrip]
@[simp] theorem Hart.endStrip_pc (h : Hart) : (h.endStrip).pc = h.pc := by simp [Hart.endStrip]
@[simp] theorem Hart.endStrip_level (h : Hart) : (h.endStrip).level = h.level := by simp [Hart.endStrip]
@[simp] theorem Hart.endStrip_fcsr (h : Hart) : (h.endStrip).fcsr = h.fcsr := by simp [Hart.endStrip]
@[simp] theorem Hart.endStrip_seed (h : Hart) : (h.endStrip).seed = h.seed := by simp [Hart.endStrip]
@[simp] theorem Hart.endStrip_sbase (h : Hart) : (h.endStrip).sbase = h.sbase := by simp [Hart.endStrip]
@[simp] theorem Hart.endStrip_sstep (h : Hart) : (h.endStrip).sstep = h.sstep := by simp [Hart.endStrip]
@[simp] theorem Hart.endStrip_tann (h : Hart) : (h.endStrip).tann = h.tann := by simp [Hart.endStrip]
@[simp] theorem Hart.endStrip_ordscope (h : Hart) : (h.endStrip).ordscope = h.ordscope := by simp [Hart.endStrip]
@[simp] theorem Hart.endStrip_ictl (h : Hart) : (h.endStrip).ictl = h.ictl := by simp [Hart.endStrip]
@[simp] theorem Hart.endStrip_vl (h : Hart) : (h.endStrip).vl = h.vl := by simp [Hart.endStrip]
@[simp] theorem Hart.endStrip_vtype (h : Hart) : (h.endStrip).vtype = h.vtype := by simp [Hart.endStrip]
@[simp] theorem Hart.endStrip_vstart (h : Hart) : (h.endStrip).vstart = h.vstart := by simp [Hart.endStrip]
@[simp] theorem Hart.endStrip_vshape (h : Hart) : (h.endStrip).vshape = h.vshape := by simp [Hart.endStrip]
@[simp] theorem Hart.endStrip_vpart (h : Hart) : (h.endStrip).vpart = h.vpart := by simp [Hart.endStrip]
@[simp] theorem Hart.endStrip_vw (h : Hart) : (h.endStrip).vw = h.vw := by simp [Hart.endStrip]
@[simp] theorem Hart.endStrip_mw (h : Hart) : (h.endStrip).mw = h.mw := by simp [Hart.endStrip]
@[simp] theorem Hart.endStrip_gw (h : Hart) : (h.endStrip).gw = h.gw := by simp [Hart.endStrip]
@[simp] theorem Hart.endStrip_iw (h : Hart) : (h.endStrip).iw = h.iw := by simp [Hart.endStrip]
@[simp] theorem Hart.endStrip_hctl (h : Hart) : (h.endStrip).hctl = h.hctl := by simp [Hart.endStrip]
@[simp] theorem Hart.endStrip_hstat (h : Hart) : (h.endStrip).hstat = h.hstat := by simp [Hart.endStrip]
@[simp] theorem Hart.endStrip_lamppc (h : Hart) : (h.endStrip).lamppc = h.lamppc := by simp [Hart.endStrip]
@[simp] theorem Hart.endStrip_lampcause (h : Hart) : (h.endStrip).lampcause = h.lampcause := by simp [Hart.endStrip]
@[simp] theorem Hart.endStrip_rtimeout (h : Hart) : (h.endStrip).rtimeout = h.rtimeout := by simp [Hart.endStrip]
@[simp] theorem Hart.endStrip_trappc (h : Hart) : (h.endStrip).trappc = h.trappc := by simp [Hart.endStrip]
@[simp] theorem Hart.endStrip_trapcause (h : Hart) : (h.endStrip).trapcause = h.trapcause := by simp [Hart.endStrip]
@[simp] theorem Hart.endStrip_trapval (h : Hart) : (h.endStrip).trapval = h.trapval := by simp [Hart.endStrip]
@[simp] theorem Hart.endStrip_asid (h : Hart) : (h.endStrip).asid = h.asid := by simp [Hart.endStrip]
@[simp] theorem Hart.endStrip_ptbase (h : Hart) : (h.endStrip).ptbase = h.ptbase := by simp [Hart.endStrip]
@[simp] theorem Hart.endStrip_lamps (h : Hart) : (h.endStrip).lamps = h.lamps := by simp [Hart.endStrip]
@[simp] theorem Hart.endStrip_faults (h : Hart) : (h.endStrip).faults = h.faults := by simp [Hart.endStrip]
@[simp] theorem Hart.endStrip_timeouts (h : Hart) : (h.endStrip).timeouts = h.timeouts := by simp [Hart.endStrip]
@[simp] theorem Hart.endStrip_gangLost (h : Hart) : (h.endStrip).gangLost = h.gangLost := by simp [Hart.endStrip]
@[simp] theorem Hart.endStrip_evict (h : Hart) : (h.endStrip).evict = h.evict := by simp [Hart.endStrip]
@[simp] theorem Hart.endStrip_asked (h : Hart) : (h.endStrip).asked = h.asked := by simp [Hart.endStrip]
@[simp] theorem Hart.endStrip_stepDue (h : Hart) : (h.endStrip).stepDue = h.stepDue := by simp [Hart.endStrip]
@[simp] theorem Hart.endStrip_haltReq (h : Hart) : (h.endStrip).haltReq = h.haltReq := by simp [Hart.endStrip]
@[simp] theorem Hart.endStrip_halted (h : Hart) : (h.endStrip).halted = h.halted := by simp [Hart.endStrip]
@[simp] theorem Hart.endStrip_frozen (h : Hart) : (h.endStrip).frozen = h.frozen := by simp [Hart.endStrip]
@[simp] theorem Hart.endStrip_saved (h : Hart) : (h.endStrip).saved = h.saved := by simp [Hart.endStrip]
@[simp] theorem Hart.endStrip_retiring (h : Hart) : (h.endStrip).retiring = h.retiring := by simp [Hart.endStrip]
@[simp] theorem Hart.endStrip_blocked (h : Hart) : (h.endStrip).blocked = h.blocked := by simp [Hart.endStrip]
@[simp] theorem Hart.endStrip_idle (h : Hart) : (h.endStrip).idle = h.idle := by simp [Hart.endStrip]
@[simp] theorem Hart.endStrip_ifence (h : Hart) : (h.endStrip).ifence = h.ifence := by simp [Hart.endStrip]
@[simp] theorem Hart.endStrip_full (h : Hart) : (h.endStrip).full = h.full := by simp [Hart.endStrip]
@[simp] theorem Hart.endStrip_pushed (h : Hart) : (h.endStrip).pushed = h.pushed := by simp [Hart.endStrip]
@[simp] theorem Hart.endStrip_monitor (h : Hart) : (h.endStrip).monitor = h.monitor := by simp [Hart.endStrip]
@[simp] theorem Hart.endStrip_lane (h : Hart) : (h.endStrip).lane = h.lane := by simp [Hart.endStrip]
@[simp] theorem Hart.endStrip_bar (h : Hart) : (h.endStrip).bar = h.bar := by simp [Hart.endStrip]
@[simp] theorem Hart.endStrip_convoy (h : Hart) : (h.endStrip).convoy = h.convoy := by simp [Hart.endStrip]
@[simp] theorem Hart.endStrip_waitReg (h : Hart) : (h.endStrip).waitReg = h.waitReg := by simp [Hart.endStrip]
@[simp] theorem Hart.endStrip_begun (h : Hart) : (h.endStrip).begun = h.begun := by simp [Hart.endStrip]
@[simp] theorem Hart.endStrip_barrier (h : Hart) : (h.endStrip).barrier = h.barrier := by simp [Hart.endStrip]
@[simp] theorem Hart.endStrip_claimAt (h : Hart) : (h.endStrip).claimAt = h.claimAt := by simp [Hart.endStrip]
@[simp] theorem Hart.endStrip_pillarAt (h : Hart) : (h.endStrip).pillarAt = h.pillarAt := by simp [Hart.endStrip]
@[simp] theorem Hart.endStrip_strip (h : Hart) : h.endStrip.strip = [] := rfl
@[simp] theorem Hart.endStrip_rbuf (h : Hart) : h.endStrip.rbuf = [] := rfl

/-! ### A release -/

@[simp] theorem Hart.settle_live (h : Hart) : (h.settle).live = h.live := rfl
@[simp] theorem Hart.settle_key (h : Hart) : (h.settle).key = h.key := rfl
@[simp] theorem Hart.settle_stop (h : Hart) : (h.settle).stop = h.stop := rfl
@[simp] theorem Hart.settle_slot (h : Hart) : (h.settle).slot = h.slot := rfl
@[simp] theorem Hart.settle_prio (h : Hart) : (h.settle).prio = h.prio := rfl
@[simp] theorem Hart.settle_gang (h : Hart) : (h.settle).gang = h.gang := rfl
@[simp] theorem Hart.settle_s (h : Hart) : (h.settle).s = h.s := rfl
@[simp] theorem Hart.settle_b (h : Hart) : (h.settle).b = h.b := rfl
@[simp] theorem Hart.settle_alt (h : Hart) : (h.settle).alt = h.alt := rfl
@[simp] theorem Hart.settle_stan (h : Hart) : (h.settle).stan = h.stan := rfl
@[simp] theorem Hart.settle_altStan (h : Hart) : (h.settle).altStan = h.altStan := rfl
@[simp] theorem Hart.settle_pc (h : Hart) : (h.settle).pc = h.pc := rfl
@[simp] theorem Hart.settle_level (h : Hart) : (h.settle).level = h.level := rfl
@[simp] theorem Hart.settle_fcsr (h : Hart) : (h.settle).fcsr = h.fcsr := rfl
@[simp] theorem Hart.settle_seed (h : Hart) : (h.settle).seed = h.seed := rfl
@[simp] theorem Hart.settle_sbase (h : Hart) : (h.settle).sbase = h.sbase := rfl
@[simp] theorem Hart.settle_sstep (h : Hart) : (h.settle).sstep = h.sstep := rfl
@[simp] theorem Hart.settle_tann (h : Hart) : (h.settle).tann = h.tann := rfl
@[simp] theorem Hart.settle_ordscope (h : Hart) : (h.settle).ordscope = h.ordscope := rfl
@[simp] theorem Hart.settle_ictl (h : Hart) : (h.settle).ictl = h.ictl := rfl
@[simp] theorem Hart.settle_vl (h : Hart) : (h.settle).vl = h.vl := rfl
@[simp] theorem Hart.settle_vtype (h : Hart) : (h.settle).vtype = h.vtype := rfl
@[simp] theorem Hart.settle_vstart (h : Hart) : (h.settle).vstart = h.vstart := rfl
@[simp] theorem Hart.settle_vshape (h : Hart) : (h.settle).vshape = h.vshape := rfl
@[simp] theorem Hart.settle_vpart (h : Hart) : (h.settle).vpart = h.vpart := rfl
@[simp] theorem Hart.settle_vw (h : Hart) : (h.settle).vw = h.vw := rfl
@[simp] theorem Hart.settle_mw (h : Hart) : (h.settle).mw = h.mw := rfl
@[simp] theorem Hart.settle_gw (h : Hart) : (h.settle).gw = h.gw := rfl
@[simp] theorem Hart.settle_iw (h : Hart) : (h.settle).iw = h.iw := rfl
@[simp] theorem Hart.settle_hctl (h : Hart) : (h.settle).hctl = h.hctl := rfl
@[simp] theorem Hart.settle_hstat (h : Hart) : (h.settle).hstat = h.hstat := rfl
@[simp] theorem Hart.settle_lamppc (h : Hart) : (h.settle).lamppc = h.lamppc := rfl
@[simp] theorem Hart.settle_lampcause (h : Hart) : (h.settle).lampcause = h.lampcause := rfl
@[simp] theorem Hart.settle_rtimeout (h : Hart) : (h.settle).rtimeout = h.rtimeout := rfl
@[simp] theorem Hart.settle_trappc (h : Hart) : (h.settle).trappc = h.trappc := rfl
@[simp] theorem Hart.settle_trapcause (h : Hart) : (h.settle).trapcause = h.trapcause := rfl
@[simp] theorem Hart.settle_trapval (h : Hart) : (h.settle).trapval = h.trapval := rfl
@[simp] theorem Hart.settle_asid (h : Hart) : (h.settle).asid = h.asid := rfl
@[simp] theorem Hart.settle_ptbase (h : Hart) : (h.settle).ptbase = h.ptbase := rfl
@[simp] theorem Hart.settle_lamps (h : Hart) : (h.settle).lamps = h.lamps := rfl
@[simp] theorem Hart.settle_faults (h : Hart) : (h.settle).faults = h.faults := rfl
@[simp] theorem Hart.settle_timeouts (h : Hart) : (h.settle).timeouts = h.timeouts := rfl
@[simp] theorem Hart.settle_gangLost (h : Hart) : (h.settle).gangLost = h.gangLost := rfl
@[simp] theorem Hart.settle_evict (h : Hart) : (h.settle).evict = h.evict := rfl
@[simp] theorem Hart.settle_asked (h : Hart) : (h.settle).asked = h.asked := rfl
@[simp] theorem Hart.settle_stepDue (h : Hart) : (h.settle).stepDue = h.stepDue := rfl
@[simp] theorem Hart.settle_haltReq (h : Hart) : (h.settle).haltReq = h.haltReq := rfl
@[simp] theorem Hart.settle_halted (h : Hart) : (h.settle).halted = h.halted := rfl
@[simp] theorem Hart.settle_frozen (h : Hart) : (h.settle).frozen = h.frozen := rfl
@[simp] theorem Hart.settle_saved (h : Hart) : (h.settle).saved = h.saved := rfl
@[simp] theorem Hart.settle_retiring (h : Hart) : (h.settle).retiring = h.retiring := rfl
@[simp] theorem Hart.settle_blocked (h : Hart) : (h.settle).blocked = h.blocked := rfl
@[simp] theorem Hart.settle_idle (h : Hart) : (h.settle).idle = h.idle := rfl
@[simp] theorem Hart.settle_rbuf (h : Hart) : (h.settle).rbuf = h.rbuf := rfl
@[simp] theorem Hart.settle_ifence (h : Hart) : (h.settle).ifence = h.ifence := rfl
@[simp] theorem Hart.settle_full (h : Hart) : (h.settle).full = h.full := rfl
@[simp] theorem Hart.settle_pushed (h : Hart) : (h.settle).pushed = h.pushed := rfl
@[simp] theorem Hart.settle_monitor (h : Hart) : (h.settle).monitor = h.monitor := rfl
@[simp] theorem Hart.settle_lane (h : Hart) : (h.settle).lane = h.lane := rfl
@[simp] theorem Hart.settle_bar (h : Hart) : (h.settle).bar = h.bar := rfl
@[simp] theorem Hart.settle_convoy (h : Hart) : (h.settle).convoy = h.convoy := rfl
@[simp] theorem Hart.settle_waitReg (h : Hart) : (h.settle).waitReg = h.waitReg := rfl
@[simp] theorem Hart.settle_begun (h : Hart) : (h.settle).begun = h.begun := rfl
@[simp] theorem Hart.settle_barrier (h : Hart) : (h.settle).barrier = h.barrier := rfl
@[simp] theorem Hart.settle_claimAt (h : Hart) : (h.settle).claimAt = h.claimAt := rfl
@[simp] theorem Hart.settle_pillarAt (h : Hart) : (h.settle).pillarAt = h.pillarAt := rfl

/-! ### An acquire -/

@[simp] theorem Hart.acquire_live (h : Hart) : (h.acquire).live = h.live := rfl
@[simp] theorem Hart.acquire_key (h : Hart) : (h.acquire).key = h.key := rfl
@[simp] theorem Hart.acquire_stop (h : Hart) : (h.acquire).stop = h.stop := rfl
@[simp] theorem Hart.acquire_slot (h : Hart) : (h.acquire).slot = h.slot := rfl
@[simp] theorem Hart.acquire_prio (h : Hart) : (h.acquire).prio = h.prio := rfl
@[simp] theorem Hart.acquire_gang (h : Hart) : (h.acquire).gang = h.gang := rfl
@[simp] theorem Hart.acquire_s (h : Hart) : (h.acquire).s = h.s := rfl
@[simp] theorem Hart.acquire_b (h : Hart) : (h.acquire).b = h.b := rfl
@[simp] theorem Hart.acquire_alt (h : Hart) : (h.acquire).alt = h.alt := rfl
@[simp] theorem Hart.acquire_stan (h : Hart) : (h.acquire).stan = h.stan := rfl
@[simp] theorem Hart.acquire_altStan (h : Hart) : (h.acquire).altStan = h.altStan := rfl
@[simp] theorem Hart.acquire_pc (h : Hart) : (h.acquire).pc = h.pc := rfl
@[simp] theorem Hart.acquire_level (h : Hart) : (h.acquire).level = h.level := rfl
@[simp] theorem Hart.acquire_fcsr (h : Hart) : (h.acquire).fcsr = h.fcsr := rfl
@[simp] theorem Hart.acquire_seed (h : Hart) : (h.acquire).seed = h.seed := rfl
@[simp] theorem Hart.acquire_sbase (h : Hart) : (h.acquire).sbase = h.sbase := rfl
@[simp] theorem Hart.acquire_sstep (h : Hart) : (h.acquire).sstep = h.sstep := rfl
@[simp] theorem Hart.acquire_tann (h : Hart) : (h.acquire).tann = h.tann := rfl
@[simp] theorem Hart.acquire_ordscope (h : Hart) : (h.acquire).ordscope = h.ordscope := rfl
@[simp] theorem Hart.acquire_ictl (h : Hart) : (h.acquire).ictl = h.ictl := rfl
@[simp] theorem Hart.acquire_vl (h : Hart) : (h.acquire).vl = h.vl := rfl
@[simp] theorem Hart.acquire_vtype (h : Hart) : (h.acquire).vtype = h.vtype := rfl
@[simp] theorem Hart.acquire_vstart (h : Hart) : (h.acquire).vstart = h.vstart := rfl
@[simp] theorem Hart.acquire_vshape (h : Hart) : (h.acquire).vshape = h.vshape := rfl
@[simp] theorem Hart.acquire_vpart (h : Hart) : (h.acquire).vpart = h.vpart := rfl
@[simp] theorem Hart.acquire_vw (h : Hart) : (h.acquire).vw = h.vw := rfl
@[simp] theorem Hart.acquire_mw (h : Hart) : (h.acquire).mw = h.mw := rfl
@[simp] theorem Hart.acquire_gw (h : Hart) : (h.acquire).gw = h.gw := rfl
@[simp] theorem Hart.acquire_iw (h : Hart) : (h.acquire).iw = h.iw := rfl
@[simp] theorem Hart.acquire_hctl (h : Hart) : (h.acquire).hctl = h.hctl := rfl
@[simp] theorem Hart.acquire_hstat (h : Hart) : (h.acquire).hstat = h.hstat := rfl
@[simp] theorem Hart.acquire_lamppc (h : Hart) : (h.acquire).lamppc = h.lamppc := rfl
@[simp] theorem Hart.acquire_lampcause (h : Hart) : (h.acquire).lampcause = h.lampcause := rfl
@[simp] theorem Hart.acquire_rtimeout (h : Hart) : (h.acquire).rtimeout = h.rtimeout := rfl
@[simp] theorem Hart.acquire_trappc (h : Hart) : (h.acquire).trappc = h.trappc := rfl
@[simp] theorem Hart.acquire_trapcause (h : Hart) : (h.acquire).trapcause = h.trapcause := rfl
@[simp] theorem Hart.acquire_trapval (h : Hart) : (h.acquire).trapval = h.trapval := rfl
@[simp] theorem Hart.acquire_asid (h : Hart) : (h.acquire).asid = h.asid := rfl
@[simp] theorem Hart.acquire_ptbase (h : Hart) : (h.acquire).ptbase = h.ptbase := rfl
@[simp] theorem Hart.acquire_lamps (h : Hart) : (h.acquire).lamps = h.lamps := rfl
@[simp] theorem Hart.acquire_faults (h : Hart) : (h.acquire).faults = h.faults := rfl
@[simp] theorem Hart.acquire_timeouts (h : Hart) : (h.acquire).timeouts = h.timeouts := rfl
@[simp] theorem Hart.acquire_gangLost (h : Hart) : (h.acquire).gangLost = h.gangLost := rfl
@[simp] theorem Hart.acquire_evict (h : Hart) : (h.acquire).evict = h.evict := rfl
@[simp] theorem Hart.acquire_asked (h : Hart) : (h.acquire).asked = h.asked := rfl
@[simp] theorem Hart.acquire_stepDue (h : Hart) : (h.acquire).stepDue = h.stepDue := rfl
@[simp] theorem Hart.acquire_haltReq (h : Hart) : (h.acquire).haltReq = h.haltReq := rfl
@[simp] theorem Hart.acquire_halted (h : Hart) : (h.acquire).halted = h.halted := rfl
@[simp] theorem Hart.acquire_frozen (h : Hart) : (h.acquire).frozen = h.frozen := rfl
@[simp] theorem Hart.acquire_saved (h : Hart) : (h.acquire).saved = h.saved := rfl
@[simp] theorem Hart.acquire_retiring (h : Hart) : (h.acquire).retiring = h.retiring := rfl
@[simp] theorem Hart.acquire_blocked (h : Hart) : (h.acquire).blocked = h.blocked := rfl
@[simp] theorem Hart.acquire_idle (h : Hart) : (h.acquire).idle = h.idle := rfl
@[simp] theorem Hart.acquire_ifence (h : Hart) : (h.acquire).ifence = h.ifence := rfl
@[simp] theorem Hart.acquire_queues (h : Hart) : (h.acquire).queues = h.queues := rfl
@[simp] theorem Hart.acquire_full (h : Hart) : (h.acquire).full = h.full := rfl
@[simp] theorem Hart.acquire_pushed (h : Hart) : (h.acquire).pushed = h.pushed := rfl
@[simp] theorem Hart.acquire_monitor (h : Hart) : (h.acquire).monitor = h.monitor := rfl
@[simp] theorem Hart.acquire_lane (h : Hart) : (h.acquire).lane = h.lane := rfl
@[simp] theorem Hart.acquire_bar (h : Hart) : (h.acquire).bar = h.bar := rfl
@[simp] theorem Hart.acquire_convoy (h : Hart) : (h.acquire).convoy = h.convoy := rfl
@[simp] theorem Hart.acquire_waitReg (h : Hart) : (h.acquire).waitReg = h.waitReg := rfl
@[simp] theorem Hart.acquire_begun (h : Hart) : (h.acquire).begun = h.begun := rfl
@[simp] theorem Hart.acquire_barrier (h : Hart) : (h.acquire).barrier = h.barrier := rfl
@[simp] theorem Hart.acquire_claimAt (h : Hart) : (h.acquire).claimAt = h.claimAt := rfl
@[simp] theorem Hart.acquire_pillarAt (h : Hart) : (h.acquire).pillarAt = h.pillarAt := rfl

/-! ### Buffered lines forgotten -/

@[simp] theorem Hart.forgetLines_live (h : Hart) (loc n : Nat) : (h.forgetLines loc n).live = h.live := rfl
@[simp] theorem Hart.forgetLines_key (h : Hart) (loc n : Nat) : (h.forgetLines loc n).key = h.key := rfl
@[simp] theorem Hart.forgetLines_stop (h : Hart) (loc n : Nat) : (h.forgetLines loc n).stop = h.stop := rfl
@[simp] theorem Hart.forgetLines_slot (h : Hart) (loc n : Nat) : (h.forgetLines loc n).slot = h.slot := rfl
@[simp] theorem Hart.forgetLines_prio (h : Hart) (loc n : Nat) : (h.forgetLines loc n).prio = h.prio := rfl
@[simp] theorem Hart.forgetLines_gang (h : Hart) (loc n : Nat) : (h.forgetLines loc n).gang = h.gang := rfl
@[simp] theorem Hart.forgetLines_s (h : Hart) (loc n : Nat) : (h.forgetLines loc n).s = h.s := rfl
@[simp] theorem Hart.forgetLines_b (h : Hart) (loc n : Nat) : (h.forgetLines loc n).b = h.b := rfl
@[simp] theorem Hart.forgetLines_alt (h : Hart) (loc n : Nat) : (h.forgetLines loc n).alt = h.alt := rfl
@[simp] theorem Hart.forgetLines_stan (h : Hart) (loc n : Nat) : (h.forgetLines loc n).stan = h.stan := rfl
@[simp] theorem Hart.forgetLines_altStan (h : Hart) (loc n : Nat) : (h.forgetLines loc n).altStan = h.altStan := rfl
@[simp] theorem Hart.forgetLines_pc (h : Hart) (loc n : Nat) : (h.forgetLines loc n).pc = h.pc := rfl
@[simp] theorem Hart.forgetLines_level (h : Hart) (loc n : Nat) : (h.forgetLines loc n).level = h.level := rfl
@[simp] theorem Hart.forgetLines_fcsr (h : Hart) (loc n : Nat) : (h.forgetLines loc n).fcsr = h.fcsr := rfl
@[simp] theorem Hart.forgetLines_seed (h : Hart) (loc n : Nat) : (h.forgetLines loc n).seed = h.seed := rfl
@[simp] theorem Hart.forgetLines_sbase (h : Hart) (loc n : Nat) : (h.forgetLines loc n).sbase = h.sbase := rfl
@[simp] theorem Hart.forgetLines_sstep (h : Hart) (loc n : Nat) : (h.forgetLines loc n).sstep = h.sstep := rfl
@[simp] theorem Hart.forgetLines_tann (h : Hart) (loc n : Nat) : (h.forgetLines loc n).tann = h.tann := rfl
@[simp] theorem Hart.forgetLines_ordscope (h : Hart) (loc n : Nat) : (h.forgetLines loc n).ordscope = h.ordscope := rfl
@[simp] theorem Hart.forgetLines_ictl (h : Hart) (loc n : Nat) : (h.forgetLines loc n).ictl = h.ictl := rfl
@[simp] theorem Hart.forgetLines_vl (h : Hart) (loc n : Nat) : (h.forgetLines loc n).vl = h.vl := rfl
@[simp] theorem Hart.forgetLines_vtype (h : Hart) (loc n : Nat) : (h.forgetLines loc n).vtype = h.vtype := rfl
@[simp] theorem Hart.forgetLines_vstart (h : Hart) (loc n : Nat) : (h.forgetLines loc n).vstart = h.vstart := rfl
@[simp] theorem Hart.forgetLines_vshape (h : Hart) (loc n : Nat) : (h.forgetLines loc n).vshape = h.vshape := rfl
@[simp] theorem Hart.forgetLines_vpart (h : Hart) (loc n : Nat) : (h.forgetLines loc n).vpart = h.vpart := rfl
@[simp] theorem Hart.forgetLines_vw (h : Hart) (loc n : Nat) : (h.forgetLines loc n).vw = h.vw := rfl
@[simp] theorem Hart.forgetLines_mw (h : Hart) (loc n : Nat) : (h.forgetLines loc n).mw = h.mw := rfl
@[simp] theorem Hart.forgetLines_gw (h : Hart) (loc n : Nat) : (h.forgetLines loc n).gw = h.gw := rfl
@[simp] theorem Hart.forgetLines_iw (h : Hart) (loc n : Nat) : (h.forgetLines loc n).iw = h.iw := rfl
@[simp] theorem Hart.forgetLines_hctl (h : Hart) (loc n : Nat) : (h.forgetLines loc n).hctl = h.hctl := rfl
@[simp] theorem Hart.forgetLines_hstat (h : Hart) (loc n : Nat) : (h.forgetLines loc n).hstat = h.hstat := rfl
@[simp] theorem Hart.forgetLines_lamppc (h : Hart) (loc n : Nat) : (h.forgetLines loc n).lamppc = h.lamppc := rfl
@[simp] theorem Hart.forgetLines_lampcause (h : Hart) (loc n : Nat) : (h.forgetLines loc n).lampcause = h.lampcause := rfl
@[simp] theorem Hart.forgetLines_rtimeout (h : Hart) (loc n : Nat) : (h.forgetLines loc n).rtimeout = h.rtimeout := rfl
@[simp] theorem Hart.forgetLines_trappc (h : Hart) (loc n : Nat) : (h.forgetLines loc n).trappc = h.trappc := rfl
@[simp] theorem Hart.forgetLines_trapcause (h : Hart) (loc n : Nat) : (h.forgetLines loc n).trapcause = h.trapcause := rfl
@[simp] theorem Hart.forgetLines_trapval (h : Hart) (loc n : Nat) : (h.forgetLines loc n).trapval = h.trapval := rfl
@[simp] theorem Hart.forgetLines_asid (h : Hart) (loc n : Nat) : (h.forgetLines loc n).asid = h.asid := rfl
@[simp] theorem Hart.forgetLines_ptbase (h : Hart) (loc n : Nat) : (h.forgetLines loc n).ptbase = h.ptbase := rfl
@[simp] theorem Hart.forgetLines_lamps (h : Hart) (loc n : Nat) : (h.forgetLines loc n).lamps = h.lamps := rfl
@[simp] theorem Hart.forgetLines_faults (h : Hart) (loc n : Nat) : (h.forgetLines loc n).faults = h.faults := rfl
@[simp] theorem Hart.forgetLines_timeouts (h : Hart) (loc n : Nat) : (h.forgetLines loc n).timeouts = h.timeouts := rfl
@[simp] theorem Hart.forgetLines_gangLost (h : Hart) (loc n : Nat) : (h.forgetLines loc n).gangLost = h.gangLost := rfl
@[simp] theorem Hart.forgetLines_evict (h : Hart) (loc n : Nat) : (h.forgetLines loc n).evict = h.evict := rfl
@[simp] theorem Hart.forgetLines_asked (h : Hart) (loc n : Nat) : (h.forgetLines loc n).asked = h.asked := rfl
@[simp] theorem Hart.forgetLines_stepDue (h : Hart) (loc n : Nat) : (h.forgetLines loc n).stepDue = h.stepDue := rfl
@[simp] theorem Hart.forgetLines_haltReq (h : Hart) (loc n : Nat) : (h.forgetLines loc n).haltReq = h.haltReq := rfl
@[simp] theorem Hart.forgetLines_halted (h : Hart) (loc n : Nat) : (h.forgetLines loc n).halted = h.halted := rfl
@[simp] theorem Hart.forgetLines_frozen (h : Hart) (loc n : Nat) : (h.forgetLines loc n).frozen = h.frozen := rfl
@[simp] theorem Hart.forgetLines_saved (h : Hart) (loc n : Nat) : (h.forgetLines loc n).saved = h.saved := rfl
@[simp] theorem Hart.forgetLines_retiring (h : Hart) (loc n : Nat) : (h.forgetLines loc n).retiring = h.retiring := rfl
@[simp] theorem Hart.forgetLines_blocked (h : Hart) (loc n : Nat) : (h.forgetLines loc n).blocked = h.blocked := rfl
@[simp] theorem Hart.forgetLines_idle (h : Hart) (loc n : Nat) : (h.forgetLines loc n).idle = h.idle := rfl
@[simp] theorem Hart.forgetLines_strip (h : Hart) (loc n : Nat) : (h.forgetLines loc n).strip = h.strip := rfl
@[simp] theorem Hart.forgetLines_ifence (h : Hart) (loc n : Nat) : (h.forgetLines loc n).ifence = h.ifence := rfl
@[simp] theorem Hart.forgetLines_queues (h : Hart) (loc n : Nat) : (h.forgetLines loc n).queues = h.queues := rfl
@[simp] theorem Hart.forgetLines_full (h : Hart) (loc n : Nat) : (h.forgetLines loc n).full = h.full := rfl
@[simp] theorem Hart.forgetLines_pushed (h : Hart) (loc n : Nat) : (h.forgetLines loc n).pushed = h.pushed := rfl
@[simp] theorem Hart.forgetLines_monitor (h : Hart) (loc n : Nat) : (h.forgetLines loc n).monitor = h.monitor := rfl
@[simp] theorem Hart.forgetLines_lane (h : Hart) (loc n : Nat) : (h.forgetLines loc n).lane = h.lane := rfl
@[simp] theorem Hart.forgetLines_bar (h : Hart) (loc n : Nat) : (h.forgetLines loc n).bar = h.bar := rfl
@[simp] theorem Hart.forgetLines_convoy (h : Hart) (loc n : Nat) : (h.forgetLines loc n).convoy = h.convoy := rfl
@[simp] theorem Hart.forgetLines_waitReg (h : Hart) (loc n : Nat) : (h.forgetLines loc n).waitReg = h.waitReg := rfl
@[simp] theorem Hart.forgetLines_begun (h : Hart) (loc n : Nat) : (h.forgetLines loc n).begun = h.begun := rfl
@[simp] theorem Hart.forgetLines_barrier (h : Hart) (loc n : Nat) : (h.forgetLines loc n).barrier = h.barrier := rfl
@[simp] theorem Hart.forgetLines_claimAt (h : Hart) (loc n : Nat) : (h.forgetLines loc n).claimAt = h.claimAt := rfl
@[simp] theorem Hart.forgetLines_pillarAt (h : Hart) (loc n : Nat) : (h.forgetLines loc n).pillarAt = h.pillarAt := rfl

/-! ### Trap entry -/

@[simp] theorem Hart.trapEntry_live (h : Hart) (w : Word) (c : Nat) (v : Word) : (h.trapEntry w c v).live = h.live := by unfold Hart.trapEntry; split <;> simp [Hart.halt]
@[simp] theorem Hart.trapEntry_key (h : Hart) (w : Word) (c : Nat) (v : Word) : (h.trapEntry w c v).key = h.key := by unfold Hart.trapEntry; split <;> simp [Hart.halt]
@[simp] theorem Hart.trapEntry_stop (h : Hart) (w : Word) (c : Nat) (v : Word) : (h.trapEntry w c v).stop = h.stop := by unfold Hart.trapEntry; split <;> simp [Hart.halt]
@[simp] theorem Hart.trapEntry_slot (h : Hart) (w : Word) (c : Nat) (v : Word) : (h.trapEntry w c v).slot = h.slot := by unfold Hart.trapEntry; split <;> simp [Hart.halt]
@[simp] theorem Hart.trapEntry_prio (h : Hart) (w : Word) (c : Nat) (v : Word) : (h.trapEntry w c v).prio = h.prio := by unfold Hart.trapEntry; split <;> simp [Hart.halt]
@[simp] theorem Hart.trapEntry_gang (h : Hart) (w : Word) (c : Nat) (v : Word) : (h.trapEntry w c v).gang = h.gang := by unfold Hart.trapEntry; split <;> simp [Hart.halt]
@[simp] theorem Hart.trapEntry_s (h : Hart) (w : Word) (c : Nat) (v : Word) : (h.trapEntry w c v).s = h.s := by unfold Hart.trapEntry; split <;> simp [Hart.halt]
@[simp] theorem Hart.trapEntry_b (h : Hart) (w : Word) (c : Nat) (v : Word) : (h.trapEntry w c v).b = h.b := by unfold Hart.trapEntry; split <;> simp [Hart.halt]
@[simp] theorem Hart.trapEntry_alt (h : Hart) (w : Word) (c : Nat) (v : Word) : (h.trapEntry w c v).alt = h.alt := by unfold Hart.trapEntry; split <;> simp [Hart.halt]
@[simp] theorem Hart.trapEntry_stan (h : Hart) (w : Word) (c : Nat) (v : Word) : (h.trapEntry w c v).stan = h.stan := by unfold Hart.trapEntry; split <;> simp [Hart.halt]
@[simp] theorem Hart.trapEntry_altStan (h : Hart) (w : Word) (c : Nat) (v : Word) : (h.trapEntry w c v).altStan = h.altStan := by unfold Hart.trapEntry; split <;> simp [Hart.halt]
@[simp] theorem Hart.trapEntry_fcsr (h : Hart) (w : Word) (c : Nat) (v : Word) : (h.trapEntry w c v).fcsr = h.fcsr := by unfold Hart.trapEntry; split <;> simp [Hart.halt]
@[simp] theorem Hart.trapEntry_seed (h : Hart) (w : Word) (c : Nat) (v : Word) : (h.trapEntry w c v).seed = h.seed := by unfold Hart.trapEntry; split <;> simp [Hart.halt]
@[simp] theorem Hart.trapEntry_sbase (h : Hart) (w : Word) (c : Nat) (v : Word) : (h.trapEntry w c v).sbase = h.sbase := by unfold Hart.trapEntry; split <;> simp [Hart.halt]
@[simp] theorem Hart.trapEntry_sstep (h : Hart) (w : Word) (c : Nat) (v : Word) : (h.trapEntry w c v).sstep = h.sstep := by unfold Hart.trapEntry; split <;> simp [Hart.halt]
@[simp] theorem Hart.trapEntry_tann (h : Hart) (w : Word) (c : Nat) (v : Word) : (h.trapEntry w c v).tann = h.tann := by unfold Hart.trapEntry; split <;> simp [Hart.halt]
@[simp] theorem Hart.trapEntry_ordscope (h : Hart) (w : Word) (c : Nat) (v : Word) : (h.trapEntry w c v).ordscope = h.ordscope := by unfold Hart.trapEntry; split <;> simp [Hart.halt]
@[simp] theorem Hart.trapEntry_ictl (h : Hart) (w : Word) (c : Nat) (v : Word) : (h.trapEntry w c v).ictl = h.ictl := by unfold Hart.trapEntry; split <;> simp [Hart.halt]
@[simp] theorem Hart.trapEntry_vl (h : Hart) (w : Word) (c : Nat) (v : Word) : (h.trapEntry w c v).vl = h.vl := by unfold Hart.trapEntry; split <;> simp [Hart.halt]
@[simp] theorem Hart.trapEntry_vtype (h : Hart) (w : Word) (c : Nat) (v : Word) : (h.trapEntry w c v).vtype = h.vtype := by unfold Hart.trapEntry; split <;> simp [Hart.halt]
@[simp] theorem Hart.trapEntry_vstart (h : Hart) (w : Word) (c : Nat) (v : Word) : (h.trapEntry w c v).vstart = h.vstart := by unfold Hart.trapEntry; split <;> simp [Hart.halt]
@[simp] theorem Hart.trapEntry_vshape (h : Hart) (w : Word) (c : Nat) (v : Word) : (h.trapEntry w c v).vshape = h.vshape := by unfold Hart.trapEntry; split <;> simp [Hart.halt]
@[simp] theorem Hart.trapEntry_vpart (h : Hart) (w : Word) (c : Nat) (v : Word) : (h.trapEntry w c v).vpart = h.vpart := by unfold Hart.trapEntry; split <;> simp [Hart.halt]
@[simp] theorem Hart.trapEntry_vw (h : Hart) (w : Word) (c : Nat) (v : Word) : (h.trapEntry w c v).vw = h.vw := by unfold Hart.trapEntry; split <;> simp [Hart.halt]
@[simp] theorem Hart.trapEntry_mw (h : Hart) (w : Word) (c : Nat) (v : Word) : (h.trapEntry w c v).mw = h.mw := by unfold Hart.trapEntry; split <;> simp [Hart.halt]
@[simp] theorem Hart.trapEntry_gw (h : Hart) (w : Word) (c : Nat) (v : Word) : (h.trapEntry w c v).gw = h.gw := by unfold Hart.trapEntry; split <;> simp [Hart.halt]
@[simp] theorem Hart.trapEntry_iw (h : Hart) (w : Word) (c : Nat) (v : Word) : (h.trapEntry w c v).iw = h.iw := by unfold Hart.trapEntry; split <;> simp [Hart.halt]
@[simp] theorem Hart.trapEntry_hstat (h : Hart) (w : Word) (c : Nat) (v : Word) : (h.trapEntry w c v).hstat = h.hstat := by unfold Hart.trapEntry; split <;> simp [Hart.halt]
@[simp] theorem Hart.trapEntry_lamppc (h : Hart) (w : Word) (c : Nat) (v : Word) : (h.trapEntry w c v).lamppc = h.lamppc := by unfold Hart.trapEntry; split <;> simp [Hart.halt]
@[simp] theorem Hart.trapEntry_lampcause (h : Hart) (w : Word) (c : Nat) (v : Word) : (h.trapEntry w c v).lampcause = h.lampcause := by unfold Hart.trapEntry; split <;> simp [Hart.halt]
@[simp] theorem Hart.trapEntry_rtimeout (h : Hart) (w : Word) (c : Nat) (v : Word) : (h.trapEntry w c v).rtimeout = h.rtimeout := by unfold Hart.trapEntry; split <;> simp [Hart.halt]
@[simp] theorem Hart.trapEntry_asid (h : Hart) (w : Word) (c : Nat) (v : Word) : (h.trapEntry w c v).asid = h.asid := by unfold Hart.trapEntry; split <;> simp [Hart.halt]
@[simp] theorem Hart.trapEntry_ptbase (h : Hart) (w : Word) (c : Nat) (v : Word) : (h.trapEntry w c v).ptbase = h.ptbase := by unfold Hart.trapEntry; split <;> simp [Hart.halt]
@[simp] theorem Hart.trapEntry_lamps (h : Hart) (w : Word) (c : Nat) (v : Word) : (h.trapEntry w c v).lamps = h.lamps := by unfold Hart.trapEntry; split <;> simp [Hart.halt]
@[simp] theorem Hart.trapEntry_faults (h : Hart) (w : Word) (c : Nat) (v : Word) : (h.trapEntry w c v).faults = h.faults := by unfold Hart.trapEntry; split <;> simp [Hart.halt]
@[simp] theorem Hart.trapEntry_timeouts (h : Hart) (w : Word) (c : Nat) (v : Word) : (h.trapEntry w c v).timeouts = h.timeouts := by unfold Hart.trapEntry; split <;> simp [Hart.halt]
@[simp] theorem Hart.trapEntry_gangLost (h : Hart) (w : Word) (c : Nat) (v : Word) : (h.trapEntry w c v).gangLost = h.gangLost := by unfold Hart.trapEntry; split <;> simp [Hart.halt]
@[simp] theorem Hart.trapEntry_evict (h : Hart) (w : Word) (c : Nat) (v : Word) : (h.trapEntry w c v).evict = h.evict := by unfold Hart.trapEntry; split <;> simp [Hart.halt]
@[simp] theorem Hart.trapEntry_asked (h : Hart) (w : Word) (c : Nat) (v : Word) : (h.trapEntry w c v).asked = h.asked := by unfold Hart.trapEntry; split <;> simp [Hart.halt]
@[simp] theorem Hart.trapEntry_stepDue (h : Hart) (w : Word) (c : Nat) (v : Word) : (h.trapEntry w c v).stepDue = h.stepDue := by unfold Hart.trapEntry; split <;> simp [Hart.halt]
@[simp] theorem Hart.trapEntry_frozen (h : Hart) (w : Word) (c : Nat) (v : Word) : (h.trapEntry w c v).frozen = h.frozen := by unfold Hart.trapEntry; split <;> simp [Hart.halt]
@[simp] theorem Hart.trapEntry_saved (h : Hart) (w : Word) (c : Nat) (v : Word) : (h.trapEntry w c v).saved = h.saved := by unfold Hart.trapEntry; split <;> simp [Hart.halt]
@[simp] theorem Hart.trapEntry_blocked (h : Hart) (w : Word) (c : Nat) (v : Word) : (h.trapEntry w c v).blocked = h.blocked := by unfold Hart.trapEntry; split <;> simp [Hart.halt]
@[simp] theorem Hart.trapEntry_ifence (h : Hart) (w : Word) (c : Nat) (v : Word) : (h.trapEntry w c v).ifence = h.ifence := by unfold Hart.trapEntry; split <;> simp [Hart.halt]
@[simp] theorem Hart.trapEntry_full (h : Hart) (w : Word) (c : Nat) (v : Word) : (h.trapEntry w c v).full = h.full := by unfold Hart.trapEntry; split <;> simp [Hart.halt]
@[simp] theorem Hart.trapEntry_pushed (h : Hart) (w : Word) (c : Nat) (v : Word) : (h.trapEntry w c v).pushed = h.pushed := by unfold Hart.trapEntry; split <;> simp [Hart.halt]
@[simp] theorem Hart.trapEntry_monitor (h : Hart) (w : Word) (c : Nat) (v : Word) : (h.trapEntry w c v).monitor = h.monitor := by unfold Hart.trapEntry; split <;> simp [Hart.halt]
@[simp] theorem Hart.trapEntry_bar (h : Hart) (w : Word) (c : Nat) (v : Word) : (h.trapEntry w c v).bar = h.bar := by unfold Hart.trapEntry; split <;> simp [Hart.halt]
@[simp] theorem Hart.trapEntry_convoy (h : Hart) (w : Word) (c : Nat) (v : Word) : (h.trapEntry w c v).convoy = h.convoy := by unfold Hart.trapEntry; split <;> simp [Hart.halt]
@[simp] theorem Hart.trapEntry_barrier (h : Hart) (w : Word) (c : Nat) (v : Word) : (h.trapEntry w c v).barrier = h.barrier := by unfold Hart.trapEntry; split <;> simp [Hart.halt]

/-! ### Storage changed alone -/

@[simp] theorem State.notifyMonitors_mem (s : State) (who : Option HKey) (a n : Nat) (bad : Bool) : (s.notifyMonitors who a n bad).mem = s.mem := rfl
@[simp] theorem State.notifyMonitors_regs (s : State) (who : Option HKey) (a n : Nat) (bad : Bool) : (s.notifyMonitors who a n bad).regs = s.regs := rfl
@[simp] theorem State.notifyMonitors_tiles (s : State) (who : Option HKey) (a n : Nat) (bad : Bool) : (s.notifyMonitors who a n bad).tiles = s.tiles := rfl
@[simp] theorem State.notifyMonitors_poison (s : State) (who : Option HKey) (a n : Nat) (bad : Bool) : (s.notifyMonitors who a n bad).poison = s.poison := rfl
@[simp] theorem State.notifyMonitors_regPoison (s : State) (who : Option HKey) (a n : Nat) (bad : Bool) : (s.notifyMonitors who a n bad).regPoison = s.regPoison := rfl
@[simp] theorem State.notifyMonitors_matrices (s : State) (who : Option HKey) (a n : Nat) (bad : Bool) : (s.notifyMonitors who a n bad).matrices = s.matrices := rfl
@[simp] theorem State.notifyMonitors_launches (s : State) (who : Option HKey) (a n : Nat) (bad : Bool) : (s.notifyMonitors who a n bad).launches = s.launches := rfl
@[simp] theorem State.notifyMonitors_farms (s : State) (who : Option HKey) (a n : Nat) (bad : Bool) : (s.notifyMonitors who a n bad).farms = s.farms := rfl
@[simp] theorem State.notifyMonitors_ring (s : State) (who : Option HKey) (a n : Nat) (bad : Bool) : (s.notifyMonitors who a n bad).ring = s.ring := rfl
@[simp] theorem State.notifyMonitors_streams (s : State) (who : Option HKey) (a n : Nat) (bad : Bool) : (s.notifyMonitors who a n bad).streams = s.streams := rfl
@[simp] theorem State.notifyMonitors_orphans (s : State) (who : Option HKey) (a n : Nat) (bad : Bool) : (s.notifyMonitors who a n bad).orphans = s.orphans := rfl
@[simp] theorem State.notifyMonitors_finals (s : State) (who : Option HKey) (a n : Nat) (bad : Bool) : (s.notifyMonitors who a n bad).finals = s.finals := rfl
@[simp] theorem State.notifyMonitors_pillars (s : State) (who : Option HKey) (a n : Nat) (bad : Bool) : (s.notifyMonitors who a n bad).pillars = s.pillars := rfl
@[simp] theorem State.notifyMonitors_routeTiles (s : State) (who : Option HKey) (a n : Nat) (bad : Bool) : (s.notifyMonitors who a n bad).routeTiles = s.routeTiles := rfl
@[simp] theorem State.notifyMonitors_routeGens (s : State) (who : Option HKey) (a n : Nat) (bad : Bool) : (s.notifyMonitors who a n bad).routeGens = s.routeGens := rfl
@[simp] theorem State.notifyMonitors_targets (s : State) (who : Option HKey) (a n : Nat) (bad : Bool) : (s.notifyMonitors who a n bad).targets = s.targets := rfl
@[simp] theorem State.notifyMonitors_pushes (s : State) (who : Option HKey) (a n : Nat) (bad : Bool) : (s.notifyMonitors who a n bad).pushes = s.pushes := rfl
@[simp] theorem State.notifyMonitors_contribs (s : State) (who : Option HKey) (a n : Nat) (bad : Bool) : (s.notifyMonitors who a n bad).contribs = s.contribs := rfl
@[simp] theorem State.notifyMonitors_tlb (s : State) (who : Option HKey) (a n : Nat) (bad : Bool) : (s.notifyMonitors who a n bad).tlb = s.tlb := rfl
@[simp] theorem State.notifyMonitors_icaches (s : State) (who : Option HKey) (a n : Nat) (bad : Bool) : (s.notifyMonitors who a n bad).icaches = s.icaches := rfl
@[simp] theorem State.notifyMonitors_dies (s : State) (who : Option HKey) (a n : Nat) (bad : Bool) : (s.notifyMonitors who a n bad).dies = s.dies := rfl
@[simp] theorem State.notifyMonitors_cores (s : State) (who : Option HKey) (a n : Nat) (bad : Bool) : (s.notifyMonitors who a n bad).cores = s.cores := rfl
@[simp] theorem State.notifyMonitors_hbm (s : State) (who : Option HKey) (a n : Nat) (bad : Bool) : (s.notifyMonitors who a n bad).hbm = s.hbm := rfl
@[simp] theorem State.notifyMonitors_links (s : State) (who : Option HKey) (a n : Nat) (bad : Bool) : (s.notifyMonitors who a n bad).links = s.links := rfl
@[simp] theorem State.notifyMonitors_assay (s : State) (who : Option HKey) (a n : Nat) (bad : Bool) : (s.notifyMonitors who a n bad).assay = s.assay := rfl
@[simp] theorem State.notifyMonitors_powerMode (s : State) (who : Option HKey) (a n : Nat) (bad : Bool) : (s.notifyMonitors who a n bad).powerMode = s.powerMode := rfl
@[simp] theorem State.notifyMonitors_powerPending (s : State) (who : Option HKey) (a n : Nat) (bad : Bool) : (s.notifyMonitors who a n bad).powerPending = s.powerPending := rfl
@[simp] theorem State.notifyMonitors_powerAct (s : State) (who : Option HKey) (a n : Nat) (bad : Bool) : (s.notifyMonitors who a n bad).powerAct = s.powerAct := rfl
@[simp] theorem State.notifyMonitors_therm (s : State) (who : Option HKey) (a n : Nat) (bad : Bool) : (s.notifyMonitors who a n bad).therm = s.therm := rfl
@[simp] theorem State.notifyMonitors_powerFloor (s : State) (who : Option HKey) (a n : Nat) (bad : Bool) : (s.notifyMonitors who a n bad).powerFloor = s.powerFloor := rfl
@[simp] theorem State.notifyMonitors_powerOver (s : State) (who : Option HKey) (a n : Nat) (bad : Bool) : (s.notifyMonitors who a n bad).powerOver = s.powerOver := rfl
@[simp] theorem State.notifyMonitors_powerWatts (s : State) (who : Option HKey) (a n : Nat) (bad : Bool) : (s.notifyMonitors who a n bad).powerWatts = s.powerWatts := rfl
@[simp] theorem State.notifyMonitors_devstat (s : State) (who : Option HKey) (a n : Nat) (bad : Bool) : (s.notifyMonitors who a n bad).devstat = s.devstat := rfl
@[simp] theorem State.notifyMonitors_bringUp (s : State) (who : Option HKey) (a n : Nat) (bad : Bool) : (s.notifyMonitors who a n bad).bringUp = s.bringUp := rfl
@[simp] theorem State.notifyMonitors_hdm (s : State) (who : Option HKey) (a n : Nat) (bad : Bool) : (s.notifyMonitors who a n bad).hdm = s.hdm := rfl
@[simp] theorem State.notifyMonitors_secver (s : State) (who : Option HKey) (a n : Nat) (bad : Bool) : (s.notifyMonitors who a n bad).secver = s.secver := rfl
@[simp] theorem State.notifyMonitors_failed (s : State) (who : Option HKey) (a n : Nat) (bad : Bool) : (s.notifyMonitors who a n bad).failed = s.failed := rfl
@[simp] theorem State.notifyMonitors_spdm (s : State) (who : Option HKey) (a n : Nat) (bad : Bool) : (s.notifyMonitors who a n bad).spdm = s.spdm := rfl
@[simp] theorem State.notifyMonitors_hostData (s : State) (who : Option HKey) (a n : Nat) (bad : Bool) : (s.notifyMonitors who a n bad).hostData = s.hostData := rfl
@[simp] theorem State.notifyMonitors_tick (s : State) (who : Option HKey) (a n : Nat) (bad : Bool) : (s.notifyMonitors who a n bad).tick = s.tick := rfl
@[simp] theorem State.notifyMonitors_nextId (s : State) (who : Option HKey) (a n : Nat) (bad : Bool) : (s.notifyMonitors who a n bad).nextId = s.nextId := rfl
@[simp] theorem State.notifyMonitors_part (s : State) (who : Option HKey) (a n : Nat) (bad : Bool) : (s.notifyMonitors who a n bad).part = s.part := rfl
@[simp] theorem State.notifyMonitors_tanPrefix (s : State) (who : Option HKey) (a n : Nat) (bad : Bool) : (s.notifyMonitors who a n bad).tanPrefix = s.tanPrefix := rfl
@[simp] theorem State.notifyMonitors_inputs (s : State) (who : Option HKey) (a n : Nat) (bad : Bool) : (s.notifyMonitors who a n bad).inputs = s.inputs := rfl
@[simp] theorem State.notifyMonitors_outside (s : State) (who : Option HKey) (a n : Nat) (bad : Bool) : (s.notifyMonitors who a n bad).outside = s.outside := rfl
@[simp] theorem State.notifyMonitors_turn (s : State) (who : Option HKey) (a n : Nat) (bad : Bool) : (s.notifyMonitors who a n bad).turn = s.turn := rfl
@[simp] theorem State.markDirty_h (s : State) (a n : Nat) : (s.markDirty a n).h = s.h := by unfold State.markDirty; split <;> rfl
@[simp] theorem State.markDirty_others (s : State) (a n : Nat) : (s.markDirty a n).others = s.others := by unfold State.markDirty; split <;> rfl
@[simp] theorem State.markDirty_mem (s : State) (a n : Nat) : (s.markDirty a n).mem = s.mem := by unfold State.markDirty; split <;> rfl
@[simp] theorem State.markDirty_regs (s : State) (a n : Nat) : (s.markDirty a n).regs = s.regs := by unfold State.markDirty; split <;> rfl
@[simp] theorem State.markDirty_tiles (s : State) (a n : Nat) : (s.markDirty a n).tiles = s.tiles := by unfold State.markDirty; split <;> rfl
@[simp] theorem State.markDirty_poison (s : State) (a n : Nat) : (s.markDirty a n).poison = s.poison := by unfold State.markDirty; split <;> rfl
@[simp] theorem State.markDirty_regPoison (s : State) (a n : Nat) : (s.markDirty a n).regPoison = s.regPoison := by unfold State.markDirty; split <;> rfl
@[simp] theorem State.markDirty_matrices (s : State) (a n : Nat) : (s.markDirty a n).matrices = s.matrices := by unfold State.markDirty; split <;> rfl
@[simp] theorem State.markDirty_launches (s : State) (a n : Nat) : (s.markDirty a n).launches = s.launches := by unfold State.markDirty; split <;> rfl
@[simp] theorem State.markDirty_farms (s : State) (a n : Nat) : (s.markDirty a n).farms = s.farms := by unfold State.markDirty; split <;> rfl
@[simp] theorem State.markDirty_ring (s : State) (a n : Nat) : (s.markDirty a n).ring = s.ring := by unfold State.markDirty; split <;> rfl
@[simp] theorem State.markDirty_streams (s : State) (a n : Nat) : (s.markDirty a n).streams = s.streams := by unfold State.markDirty; split <;> rfl
@[simp] theorem State.markDirty_orphans (s : State) (a n : Nat) : (s.markDirty a n).orphans = s.orphans := by unfold State.markDirty; split <;> rfl
@[simp] theorem State.markDirty_finals (s : State) (a n : Nat) : (s.markDirty a n).finals = s.finals := by unfold State.markDirty; split <;> rfl
@[simp] theorem State.markDirty_pillars (s : State) (a n : Nat) : (s.markDirty a n).pillars = s.pillars := by unfold State.markDirty; split <;> rfl
@[simp] theorem State.markDirty_routeTiles (s : State) (a n : Nat) : (s.markDirty a n).routeTiles = s.routeTiles := by unfold State.markDirty; split <;> rfl
@[simp] theorem State.markDirty_routeGens (s : State) (a n : Nat) : (s.markDirty a n).routeGens = s.routeGens := by unfold State.markDirty; split <;> rfl
@[simp] theorem State.markDirty_targets (s : State) (a n : Nat) : (s.markDirty a n).targets = s.targets := by unfold State.markDirty; split <;> rfl
@[simp] theorem State.markDirty_pushes (s : State) (a n : Nat) : (s.markDirty a n).pushes = s.pushes := by unfold State.markDirty; split <;> rfl
@[simp] theorem State.markDirty_contribs (s : State) (a n : Nat) : (s.markDirty a n).contribs = s.contribs := by unfold State.markDirty; split <;> rfl
@[simp] theorem State.markDirty_tlb (s : State) (a n : Nat) : (s.markDirty a n).tlb = s.tlb := by unfold State.markDirty; split <;> rfl
@[simp] theorem State.markDirty_icaches (s : State) (a n : Nat) : (s.markDirty a n).icaches = s.icaches := by unfold State.markDirty; split <;> rfl
@[simp] theorem State.markDirty_dies (s : State) (a n : Nat) : (s.markDirty a n).dies = s.dies := by unfold State.markDirty; split <;> rfl
@[simp] theorem State.markDirty_cores (s : State) (a n : Nat) : (s.markDirty a n).cores = s.cores := by unfold State.markDirty; split <;> rfl
@[simp] theorem State.markDirty_hbm (s : State) (a n : Nat) : (s.markDirty a n).hbm = s.hbm := by unfold State.markDirty; split <;> rfl
@[simp] theorem State.markDirty_links (s : State) (a n : Nat) : (s.markDirty a n).links = s.links := by unfold State.markDirty; split <;> rfl
@[simp] theorem State.markDirty_powerMode (s : State) (a n : Nat) : (s.markDirty a n).powerMode = s.powerMode := by unfold State.markDirty; split <;> rfl
@[simp] theorem State.markDirty_powerPending (s : State) (a n : Nat) : (s.markDirty a n).powerPending = s.powerPending := by unfold State.markDirty; split <;> rfl
@[simp] theorem State.markDirty_powerAct (s : State) (a n : Nat) : (s.markDirty a n).powerAct = s.powerAct := by unfold State.markDirty; split <;> rfl
@[simp] theorem State.markDirty_therm (s : State) (a n : Nat) : (s.markDirty a n).therm = s.therm := by unfold State.markDirty; split <;> rfl
@[simp] theorem State.markDirty_powerFloor (s : State) (a n : Nat) : (s.markDirty a n).powerFloor = s.powerFloor := by unfold State.markDirty; split <;> rfl
@[simp] theorem State.markDirty_powerOver (s : State) (a n : Nat) : (s.markDirty a n).powerOver = s.powerOver := by unfold State.markDirty; split <;> rfl
@[simp] theorem State.markDirty_powerWatts (s : State) (a n : Nat) : (s.markDirty a n).powerWatts = s.powerWatts := by unfold State.markDirty; split <;> rfl
@[simp] theorem State.markDirty_devstat (s : State) (a n : Nat) : (s.markDirty a n).devstat = s.devstat := by unfold State.markDirty; split <;> rfl
@[simp] theorem State.markDirty_bringUp (s : State) (a n : Nat) : (s.markDirty a n).bringUp = s.bringUp := by unfold State.markDirty; split <;> rfl
@[simp] theorem State.markDirty_hdm (s : State) (a n : Nat) : (s.markDirty a n).hdm = s.hdm := by unfold State.markDirty; split <;> rfl
@[simp] theorem State.markDirty_secver (s : State) (a n : Nat) : (s.markDirty a n).secver = s.secver := by unfold State.markDirty; split <;> rfl
@[simp] theorem State.markDirty_failed (s : State) (a n : Nat) : (s.markDirty a n).failed = s.failed := by unfold State.markDirty; split <;> rfl
@[simp] theorem State.markDirty_spdm (s : State) (a n : Nat) : (s.markDirty a n).spdm = s.spdm := by unfold State.markDirty; split <;> rfl
@[simp] theorem State.markDirty_hostData (s : State) (a n : Nat) : (s.markDirty a n).hostData = s.hostData := by unfold State.markDirty; split <;> rfl
@[simp] theorem State.markDirty_tick (s : State) (a n : Nat) : (s.markDirty a n).tick = s.tick := by unfold State.markDirty; split <;> rfl
@[simp] theorem State.markDirty_nextId (s : State) (a n : Nat) : (s.markDirty a n).nextId = s.nextId := by unfold State.markDirty; split <;> rfl
@[simp] theorem State.markDirty_part (s : State) (a n : Nat) : (s.markDirty a n).part = s.part := by unfold State.markDirty; split <;> rfl
@[simp] theorem State.markDirty_tanPrefix (s : State) (a n : Nat) : (s.markDirty a n).tanPrefix = s.tanPrefix := by unfold State.markDirty; split <;> rfl
@[simp] theorem State.markDirty_inputs (s : State) (a n : Nat) : (s.markDirty a n).inputs = s.inputs := by unfold State.markDirty; split <;> rfl
@[simp] theorem State.markDirty_outside (s : State) (a n : Nat) : (s.markDirty a n).outside = s.outside := by unfold State.markDirty; split <;> rfl
@[simp] theorem State.markDirty_turn (s : State) (a n : Nat) : (s.markDirty a n).turn = s.turn := by unfold State.markDirty; split <;> rfl
@[simp] theorem State.storeBytes_regs (s : State) (who : Option HKey) (loc : Nat) (bs : List Byte) (bad : Bool) : (s.storeBytes who loc bs bad).regs = s.regs := by simp [State.storeBytes]
@[simp] theorem State.storeBytes_tiles (s : State) (who : Option HKey) (loc : Nat) (bs : List Byte) (bad : Bool) : (s.storeBytes who loc bs bad).tiles = s.tiles := by simp [State.storeBytes]
@[simp] theorem State.storeBytes_regPoison (s : State) (who : Option HKey) (loc : Nat) (bs : List Byte) (bad : Bool) : (s.storeBytes who loc bs bad).regPoison = s.regPoison := by simp [State.storeBytes]
@[simp] theorem State.storeBytes_matrices (s : State) (who : Option HKey) (loc : Nat) (bs : List Byte) (bad : Bool) : (s.storeBytes who loc bs bad).matrices = s.matrices := by simp [State.storeBytes]
@[simp] theorem State.storeBytes_launches (s : State) (who : Option HKey) (loc : Nat) (bs : List Byte) (bad : Bool) : (s.storeBytes who loc bs bad).launches = s.launches := by simp [State.storeBytes]
@[simp] theorem State.storeBytes_farms (s : State) (who : Option HKey) (loc : Nat) (bs : List Byte) (bad : Bool) : (s.storeBytes who loc bs bad).farms = s.farms := by simp [State.storeBytes]
@[simp] theorem State.storeBytes_ring (s : State) (who : Option HKey) (loc : Nat) (bs : List Byte) (bad : Bool) : (s.storeBytes who loc bs bad).ring = s.ring := by simp [State.storeBytes]
@[simp] theorem State.storeBytes_streams (s : State) (who : Option HKey) (loc : Nat) (bs : List Byte) (bad : Bool) : (s.storeBytes who loc bs bad).streams = s.streams := by simp [State.storeBytes]
@[simp] theorem State.storeBytes_orphans (s : State) (who : Option HKey) (loc : Nat) (bs : List Byte) (bad : Bool) : (s.storeBytes who loc bs bad).orphans = s.orphans := by simp [State.storeBytes]
@[simp] theorem State.storeBytes_finals (s : State) (who : Option HKey) (loc : Nat) (bs : List Byte) (bad : Bool) : (s.storeBytes who loc bs bad).finals = s.finals := by simp [State.storeBytes]
@[simp] theorem State.storeBytes_pillars (s : State) (who : Option HKey) (loc : Nat) (bs : List Byte) (bad : Bool) : (s.storeBytes who loc bs bad).pillars = s.pillars := by simp [State.storeBytes]
@[simp] theorem State.storeBytes_routeTiles (s : State) (who : Option HKey) (loc : Nat) (bs : List Byte) (bad : Bool) : (s.storeBytes who loc bs bad).routeTiles = s.routeTiles := by simp [State.storeBytes]
@[simp] theorem State.storeBytes_routeGens (s : State) (who : Option HKey) (loc : Nat) (bs : List Byte) (bad : Bool) : (s.storeBytes who loc bs bad).routeGens = s.routeGens := by simp [State.storeBytes]
@[simp] theorem State.storeBytes_targets (s : State) (who : Option HKey) (loc : Nat) (bs : List Byte) (bad : Bool) : (s.storeBytes who loc bs bad).targets = s.targets := by simp [State.storeBytes]
@[simp] theorem State.storeBytes_pushes (s : State) (who : Option HKey) (loc : Nat) (bs : List Byte) (bad : Bool) : (s.storeBytes who loc bs bad).pushes = s.pushes := by simp [State.storeBytes]
@[simp] theorem State.storeBytes_contribs (s : State) (who : Option HKey) (loc : Nat) (bs : List Byte) (bad : Bool) : (s.storeBytes who loc bs bad).contribs = s.contribs := by simp [State.storeBytes]
@[simp] theorem State.storeBytes_tlb (s : State) (who : Option HKey) (loc : Nat) (bs : List Byte) (bad : Bool) : (s.storeBytes who loc bs bad).tlb = s.tlb := by simp [State.storeBytes]
@[simp] theorem State.storeBytes_icaches (s : State) (who : Option HKey) (loc : Nat) (bs : List Byte) (bad : Bool) : (s.storeBytes who loc bs bad).icaches = s.icaches := by simp [State.storeBytes]
@[simp] theorem State.storeBytes_dies (s : State) (who : Option HKey) (loc : Nat) (bs : List Byte) (bad : Bool) : (s.storeBytes who loc bs bad).dies = s.dies := by simp [State.storeBytes]
@[simp] theorem State.storeBytes_cores (s : State) (who : Option HKey) (loc : Nat) (bs : List Byte) (bad : Bool) : (s.storeBytes who loc bs bad).cores = s.cores := by simp [State.storeBytes]
@[simp] theorem State.storeBytes_hbm (s : State) (who : Option HKey) (loc : Nat) (bs : List Byte) (bad : Bool) : (s.storeBytes who loc bs bad).hbm = s.hbm := by simp [State.storeBytes]
@[simp] theorem State.storeBytes_links (s : State) (who : Option HKey) (loc : Nat) (bs : List Byte) (bad : Bool) : (s.storeBytes who loc bs bad).links = s.links := by simp [State.storeBytes]
@[simp] theorem State.storeBytes_powerMode (s : State) (who : Option HKey) (loc : Nat) (bs : List Byte) (bad : Bool) : (s.storeBytes who loc bs bad).powerMode = s.powerMode := by simp [State.storeBytes]
@[simp] theorem State.storeBytes_powerPending (s : State) (who : Option HKey) (loc : Nat) (bs : List Byte) (bad : Bool) : (s.storeBytes who loc bs bad).powerPending = s.powerPending := by simp [State.storeBytes]
@[simp] theorem State.storeBytes_powerAct (s : State) (who : Option HKey) (loc : Nat) (bs : List Byte) (bad : Bool) : (s.storeBytes who loc bs bad).powerAct = s.powerAct := by simp [State.storeBytes]
@[simp] theorem State.storeBytes_therm (s : State) (who : Option HKey) (loc : Nat) (bs : List Byte) (bad : Bool) : (s.storeBytes who loc bs bad).therm = s.therm := by simp [State.storeBytes]
@[simp] theorem State.storeBytes_powerFloor (s : State) (who : Option HKey) (loc : Nat) (bs : List Byte) (bad : Bool) : (s.storeBytes who loc bs bad).powerFloor = s.powerFloor := by simp [State.storeBytes]
@[simp] theorem State.storeBytes_powerOver (s : State) (who : Option HKey) (loc : Nat) (bs : List Byte) (bad : Bool) : (s.storeBytes who loc bs bad).powerOver = s.powerOver := by simp [State.storeBytes]
@[simp] theorem State.storeBytes_powerWatts (s : State) (who : Option HKey) (loc : Nat) (bs : List Byte) (bad : Bool) : (s.storeBytes who loc bs bad).powerWatts = s.powerWatts := by simp [State.storeBytes]
@[simp] theorem State.storeBytes_devstat (s : State) (who : Option HKey) (loc : Nat) (bs : List Byte) (bad : Bool) : (s.storeBytes who loc bs bad).devstat = s.devstat := by simp [State.storeBytes]
@[simp] theorem State.storeBytes_bringUp (s : State) (who : Option HKey) (loc : Nat) (bs : List Byte) (bad : Bool) : (s.storeBytes who loc bs bad).bringUp = s.bringUp := by simp [State.storeBytes]
@[simp] theorem State.storeBytes_hdm (s : State) (who : Option HKey) (loc : Nat) (bs : List Byte) (bad : Bool) : (s.storeBytes who loc bs bad).hdm = s.hdm := by simp [State.storeBytes]
@[simp] theorem State.storeBytes_secver (s : State) (who : Option HKey) (loc : Nat) (bs : List Byte) (bad : Bool) : (s.storeBytes who loc bs bad).secver = s.secver := by simp [State.storeBytes]
@[simp] theorem State.storeBytes_failed (s : State) (who : Option HKey) (loc : Nat) (bs : List Byte) (bad : Bool) : (s.storeBytes who loc bs bad).failed = s.failed := by simp [State.storeBytes]
@[simp] theorem State.storeBytes_spdm (s : State) (who : Option HKey) (loc : Nat) (bs : List Byte) (bad : Bool) : (s.storeBytes who loc bs bad).spdm = s.spdm := by simp [State.storeBytes]
@[simp] theorem State.storeBytes_hostData (s : State) (who : Option HKey) (loc : Nat) (bs : List Byte) (bad : Bool) : (s.storeBytes who loc bs bad).hostData = s.hostData := by simp [State.storeBytes]
@[simp] theorem State.storeBytes_tick (s : State) (who : Option HKey) (loc : Nat) (bs : List Byte) (bad : Bool) : (s.storeBytes who loc bs bad).tick = s.tick := by simp [State.storeBytes]
@[simp] theorem State.storeBytes_nextId (s : State) (who : Option HKey) (loc : Nat) (bs : List Byte) (bad : Bool) : (s.storeBytes who loc bs bad).nextId = s.nextId := by simp [State.storeBytes]
@[simp] theorem State.storeBytes_part (s : State) (who : Option HKey) (loc : Nat) (bs : List Byte) (bad : Bool) : (s.storeBytes who loc bs bad).part = s.part := by simp [State.storeBytes]
@[simp] theorem State.storeBytes_tanPrefix (s : State) (who : Option HKey) (loc : Nat) (bs : List Byte) (bad : Bool) : (s.storeBytes who loc bs bad).tanPrefix = s.tanPrefix := by simp [State.storeBytes]
@[simp] theorem State.storeBytes_inputs (s : State) (who : Option HKey) (loc : Nat) (bs : List Byte) (bad : Bool) : (s.storeBytes who loc bs bad).inputs = s.inputs := by simp [State.storeBytes]
@[simp] theorem State.storeBytes_outside (s : State) (who : Option HKey) (loc : Nat) (bs : List Byte) (bad : Bool) : (s.storeBytes who loc bs bad).outside = s.outside := by simp [State.storeBytes]
@[simp] theorem State.storeBytes_turn (s : State) (who : Option HKey) (loc : Nat) (bs : List Byte) (bad : Bool) : (s.storeBytes who loc bs bad).turn = s.turn := by simp [State.storeBytes]
@[simp] theorem State.storeBytes_mem (s : State) (who : Option HKey) (loc : Nat) (bs : List Byte) (bad : Bool) : (s.storeBytes who loc bs bad).mem = s.mem.writeBytes loc bs := by simp [State.storeBytes]
@[simp] theorem State.storeBytes_poison (s : State) (who : Option HKey) (loc : Nat) (bs : List Byte) (bad : Bool) : (s.storeBytes who loc bs bad).poison = remark s.poison loc bs.length bad := by simp [State.storeBytes]

/-! ### Register memory changed alone -/

@[simp] theorem State.laneWrite_h (s : State) (stop lane off n v : Nat) (bad : Bool) : (s.laneWrite stop lane off n v bad).h = s.h := rfl
@[simp] theorem State.laneWrite_others (s : State) (stop lane off n v : Nat) (bad : Bool) : (s.laneWrite stop lane off n v bad).others = s.others := rfl
@[simp] theorem State.laneWrite_mem (s : State) (stop lane off n v : Nat) (bad : Bool) : (s.laneWrite stop lane off n v bad).mem = s.mem := rfl
@[simp] theorem State.laneWrite_tiles (s : State) (stop lane off n v : Nat) (bad : Bool) : (s.laneWrite stop lane off n v bad).tiles = s.tiles := rfl
@[simp] theorem State.laneWrite_poison (s : State) (stop lane off n v : Nat) (bad : Bool) : (s.laneWrite stop lane off n v bad).poison = s.poison := rfl
@[simp] theorem State.laneWrite_matrices (s : State) (stop lane off n v : Nat) (bad : Bool) : (s.laneWrite stop lane off n v bad).matrices = s.matrices := rfl
@[simp] theorem State.laneWrite_launches (s : State) (stop lane off n v : Nat) (bad : Bool) : (s.laneWrite stop lane off n v bad).launches = s.launches := rfl
@[simp] theorem State.laneWrite_farms (s : State) (stop lane off n v : Nat) (bad : Bool) : (s.laneWrite stop lane off n v bad).farms = s.farms := rfl
@[simp] theorem State.laneWrite_ring (s : State) (stop lane off n v : Nat) (bad : Bool) : (s.laneWrite stop lane off n v bad).ring = s.ring := rfl
@[simp] theorem State.laneWrite_streams (s : State) (stop lane off n v : Nat) (bad : Bool) : (s.laneWrite stop lane off n v bad).streams = s.streams := rfl
@[simp] theorem State.laneWrite_orphans (s : State) (stop lane off n v : Nat) (bad : Bool) : (s.laneWrite stop lane off n v bad).orphans = s.orphans := rfl
@[simp] theorem State.laneWrite_finals (s : State) (stop lane off n v : Nat) (bad : Bool) : (s.laneWrite stop lane off n v bad).finals = s.finals := rfl
@[simp] theorem State.laneWrite_pillars (s : State) (stop lane off n v : Nat) (bad : Bool) : (s.laneWrite stop lane off n v bad).pillars = s.pillars := rfl
@[simp] theorem State.laneWrite_routeTiles (s : State) (stop lane off n v : Nat) (bad : Bool) : (s.laneWrite stop lane off n v bad).routeTiles = s.routeTiles := rfl
@[simp] theorem State.laneWrite_routeGens (s : State) (stop lane off n v : Nat) (bad : Bool) : (s.laneWrite stop lane off n v bad).routeGens = s.routeGens := rfl
@[simp] theorem State.laneWrite_targets (s : State) (stop lane off n v : Nat) (bad : Bool) : (s.laneWrite stop lane off n v bad).targets = s.targets := rfl
@[simp] theorem State.laneWrite_pushes (s : State) (stop lane off n v : Nat) (bad : Bool) : (s.laneWrite stop lane off n v bad).pushes = s.pushes := rfl
@[simp] theorem State.laneWrite_contribs (s : State) (stop lane off n v : Nat) (bad : Bool) : (s.laneWrite stop lane off n v bad).contribs = s.contribs := rfl
@[simp] theorem State.laneWrite_tlb (s : State) (stop lane off n v : Nat) (bad : Bool) : (s.laneWrite stop lane off n v bad).tlb = s.tlb := rfl
@[simp] theorem State.laneWrite_icaches (s : State) (stop lane off n v : Nat) (bad : Bool) : (s.laneWrite stop lane off n v bad).icaches = s.icaches := rfl
@[simp] theorem State.laneWrite_dies (s : State) (stop lane off n v : Nat) (bad : Bool) : (s.laneWrite stop lane off n v bad).dies = s.dies := rfl
@[simp] theorem State.laneWrite_cores (s : State) (stop lane off n v : Nat) (bad : Bool) : (s.laneWrite stop lane off n v bad).cores = s.cores := rfl
@[simp] theorem State.laneWrite_hbm (s : State) (stop lane off n v : Nat) (bad : Bool) : (s.laneWrite stop lane off n v bad).hbm = s.hbm := rfl
@[simp] theorem State.laneWrite_links (s : State) (stop lane off n v : Nat) (bad : Bool) : (s.laneWrite stop lane off n v bad).links = s.links := rfl
@[simp] theorem State.laneWrite_assay (s : State) (stop lane off n v : Nat) (bad : Bool) : (s.laneWrite stop lane off n v bad).assay = s.assay := rfl
@[simp] theorem State.laneWrite_powerMode (s : State) (stop lane off n v : Nat) (bad : Bool) : (s.laneWrite stop lane off n v bad).powerMode = s.powerMode := rfl
@[simp] theorem State.laneWrite_powerPending (s : State) (stop lane off n v : Nat) (bad : Bool) : (s.laneWrite stop lane off n v bad).powerPending = s.powerPending := rfl
@[simp] theorem State.laneWrite_powerAct (s : State) (stop lane off n v : Nat) (bad : Bool) : (s.laneWrite stop lane off n v bad).powerAct = s.powerAct := rfl
@[simp] theorem State.laneWrite_therm (s : State) (stop lane off n v : Nat) (bad : Bool) : (s.laneWrite stop lane off n v bad).therm = s.therm := rfl
@[simp] theorem State.laneWrite_powerFloor (s : State) (stop lane off n v : Nat) (bad : Bool) : (s.laneWrite stop lane off n v bad).powerFloor = s.powerFloor := rfl
@[simp] theorem State.laneWrite_powerOver (s : State) (stop lane off n v : Nat) (bad : Bool) : (s.laneWrite stop lane off n v bad).powerOver = s.powerOver := rfl
@[simp] theorem State.laneWrite_powerWatts (s : State) (stop lane off n v : Nat) (bad : Bool) : (s.laneWrite stop lane off n v bad).powerWatts = s.powerWatts := rfl
@[simp] theorem State.laneWrite_devstat (s : State) (stop lane off n v : Nat) (bad : Bool) : (s.laneWrite stop lane off n v bad).devstat = s.devstat := rfl
@[simp] theorem State.laneWrite_bringUp (s : State) (stop lane off n v : Nat) (bad : Bool) : (s.laneWrite stop lane off n v bad).bringUp = s.bringUp := rfl
@[simp] theorem State.laneWrite_hdm (s : State) (stop lane off n v : Nat) (bad : Bool) : (s.laneWrite stop lane off n v bad).hdm = s.hdm := rfl
@[simp] theorem State.laneWrite_secver (s : State) (stop lane off n v : Nat) (bad : Bool) : (s.laneWrite stop lane off n v bad).secver = s.secver := rfl
@[simp] theorem State.laneWrite_failed (s : State) (stop lane off n v : Nat) (bad : Bool) : (s.laneWrite stop lane off n v bad).failed = s.failed := rfl
@[simp] theorem State.laneWrite_spdm (s : State) (stop lane off n v : Nat) (bad : Bool) : (s.laneWrite stop lane off n v bad).spdm = s.spdm := rfl
@[simp] theorem State.laneWrite_hostData (s : State) (stop lane off n v : Nat) (bad : Bool) : (s.laneWrite stop lane off n v bad).hostData = s.hostData := rfl
@[simp] theorem State.laneWrite_tick (s : State) (stop lane off n v : Nat) (bad : Bool) : (s.laneWrite stop lane off n v bad).tick = s.tick := rfl
@[simp] theorem State.laneWrite_nextId (s : State) (stop lane off n v : Nat) (bad : Bool) : (s.laneWrite stop lane off n v bad).nextId = s.nextId := rfl
@[simp] theorem State.laneWrite_part (s : State) (stop lane off n v : Nat) (bad : Bool) : (s.laneWrite stop lane off n v bad).part = s.part := rfl
@[simp] theorem State.laneWrite_tanPrefix (s : State) (stop lane off n v : Nat) (bad : Bool) : (s.laneWrite stop lane off n v bad).tanPrefix = s.tanPrefix := rfl
@[simp] theorem State.laneWrite_inputs (s : State) (stop lane off n v : Nat) (bad : Bool) : (s.laneWrite stop lane off n v bad).inputs = s.inputs := rfl
@[simp] theorem State.laneWrite_outside (s : State) (stop lane off n v : Nat) (bad : Bool) : (s.laneWrite stop lane off n v bad).outside = s.outside := rfl
@[simp] theorem State.laneWrite_turn (s : State) (stop lane off n v : Nat) (bad : Bool) : (s.laneWrite stop lane off n v bad).turn = s.turn := rfl

end Sys2Proof.Machine
end

