-- ==== Sys2Proof/Tests/Slice0.lean ====
section
/-! SUPPORT. Tests on fixed states: ill-formed terms, decoded words, one step of one instruction against the worked
examples and tables of the spec, and for each obligation a state and operands that meet its hypotheses. -/
namespace Sys2Proof.Tests
open Sys2Proof.Machine
set_option Elab.async false

/-! ### Helpers -/

/-- A meaning succeeds and its answer and last state satisfy `p`. -/
def gives {α : Type} (m : M α) (s : State) (p : α → State → Bool := fun _ _ => true) : Bool :=
  match m.run.run s with
  | (.ok a, t) => p a t
  | _ => false

theorem gives_sound {α : Type} {m : M α} {s : State} {p : α → State → Bool} (h : gives m s p = true) :
    ∃ a t, Gives m s a t ∧ p a t = true := by
  unfold gives at h
  unfold Gives
  rcases hm : m.run.run s with ⟨e | a, t⟩ <;> rw [hm] at h
  · cases h
  · exact ⟨a, t, rfl, h⟩

/-- The numbers of a loop all succeed, and then `p` holds. -/
def performs (f : Nat → M Unit) (p : State → Bool) : Nat → Nat → State → Bool
  | _, 0, s => p s
  | i, n + 1, s => match (f i).run.run s with
    | (.ok _, t) => performs f p (i + 1) n t
    | _ => false

theorem performs_sound {f : Nat → M Unit} {p : State → Bool} :
    ∀ (n i : Nat) (s : State), performs f p i n s = true → ∃ t, Performs f i n s t ∧ p t = true
  | 0, i, s, h => ⟨s, .done i s, h⟩
  | n + 1, i, s, h => by
    unfold performs at h
    rcases hm : (f i).run.run s with ⟨_ | _, t⟩ <;> rw [hm] at h
    · cases h
    · obtain ⟨u, hu, hp⟩ := performs_sound n (i + 1) t h
      exact ⟨u, .next (by unfold Gives; exact hm) hu, hp⟩

/-- The next state of an outcome satisfies `p`. -/
def next (o : Host.Outcome State Fault Refusal) (p : State → Bool) : Bool :=
  match o with
  | .next t => p t
  | _ => false

/-- A state with a hart in focus. -/
def at_ (h : Hart) : State := { State.reset with h := h }

/-- A hart of a launch no table holds, at user level: s5 = 5, s6 = 0x7FFFFFFFFFFFFFFF, s7 = −1, s8 = 0x80000000. -/
def user : Hart :=
  { live := true, pc := 0x10000, key := ⟨7, 1⟩
    s := (((Vector.replicate 32 0).set 5 5).set 6 0x7FFFFFFFFFFFFFFF).set 7 0xFFFFFFFFFFFFFFFF |>.set 8 0x80000000 }
/-- The same at supervisor and at firmware level. -/
def boss : Hart := { user with level := .supervisor }
def bare : Hart := { user with level := .firmware }

/-! ### Ill-formed terms -/

theorem test_event_is_no_word : Instr.wellFormed (.launchReady 0) = false := by decide
theorem test_rounding_reserved : Instr.wellFormed (.fadd ⟨0, 5, 1, 2, 3⟩) = false := by decide
theorem test_rounding_unused : Instr.wellFormed (.fmin ⟨0, 1, 1, 2, 3⟩) = false := by decide
theorem test_unused_c : Instr.wellFormed (.fsqrt ⟨0, 0, 1, 2, 3⟩) = false := by decide
theorem test_source_format : Instr.wellFormed (.fcvt ⟨0, 0, 1, 2, 4⟩) = false := by decide
theorem test_fence_kind : Instr.wellFormed (.fence 3 0) = false := by decide
theorem test_fence_scope : Instr.wellFormed (.fence 0 4) = false := by decide
theorem test_window_family : Instr.wellFormed (.winv 28 1 2) = false := by decide
theorem test_vm_mode : Instr.wellFormed (.vld ⟨0, 1, 0, false, 3, true, 0⟩) = false := by decide
theorem test_vm_eew : Instr.wellFormed (.vld ⟨0, 1, 0, false, 0, true, 6⟩) = false := by decide
theorem test_vm_unit_c : Instr.wellFormed (.vld ⟨0, 1, 2, false, 0, true, 0⟩) = false := by decide
theorem test_vm_stride_chain : Instr.wellFormed (.vld ⟨0, 1, 2, true, 1, true, 0⟩) = false := by decide
theorem test_vm_index_family : Instr.wellFormed (.vld ⟨0, 1, 28, false, 2, true, 0⟩) = false := by decide
theorem test_store_queue : Instr.wellFormed (.vst ⟨28, 1, 0, false, 0, true, 0⟩) = false := by decide
theorem test_mask_family : Instr.wellFormed (.vldm ⟨8, 1, 0, false, 0, true, 5⟩) = false := by decide
theorem test_scatter_mode : Instr.wellFormed (.vsredIadd ⟨0, 1, 0, false, 0, true, 0⟩) = false := by decide
theorem test_v_form : Instr.wellFormed (.vadd ⟨0, 1, 2, false, false, 3, true, 0⟩) = false := by decide
theorem test_v_chain_scalar : Instr.wellFormed (.vadd ⟨0, 1, 2, true, false, 1, true, 0⟩) = false := by decide
theorem test_v_family : Instr.wellFormed (.vadd ⟨28, 1, 2, false, false, 0, true, 0⟩) = false := by decide
theorem test_v_unused : Instr.wellFormed (.vabs ⟨0, 1, 2, false, false, 0, true, 0⟩) = false := by decide
theorem test_v_no_b : Instr.wellFormed (.vidx ⟨0, 1, 0, false, false, 0, true, 0⟩) = false := by decide
theorem test_compare_mask : Instr.wellFormed (.vcmpEq ⟨8, 1, 2, false, false, 0, true, 0⟩) = false := by decide
theorem test_tan_body : Instr.wellFormed (.tan 0 (.add 1 2 3)) = false := by decide
theorem test_proj : Instr.wellFormed (.gprod ⟨0, 1, 2, false, false, 0, true⟩) = false := by decide
theorem test_g_family : Instr.wellFormed (.gprod ⟨16, 1, 2, false, false, 0, false⟩) = false := by decide
theorem test_iv_unused : Instr.wellFormed (.isqr ⟨0, 1, 2, false, false, false, false⟩) = false := by decide
theorem test_interval_eew : Instr.wellFormed (.ild ⟨0, 1, 0, false, 0, true, 1⟩) = false := by decide
theorem test_tile_scales : Instr.wellFormed (.opadd ⟨0, 1, 0, 1, 2, false, false, true, 0⟩) = false := by decide
theorem test_tile_pitch : Instr.wellFormed (.mld ⟨0, 0, 1, 2, false, true⟩) = false := by decide
theorem test_compressed_zero : Instr.wellFormed (.cAdd 0 1) = false := by decide
theorem test_well_formed : Instr.wellFormed (.vadd ⟨27, 27, 27, true, true, 0, false, 7⟩) = true := by decide

/-! ### Decoded words: one of every encoded instruction, its fields laid out as 03 R30 to R42 have them -/

theorem test_decode_integer :
    decode 0x90268000 = .ok (.add 18 0 19) ∧
    decode 0x4C098000 = .ok (.addw 9 16 4) ∧
    decode 0x630E8001 = .ok (.sub 12 12 7) ∧
    decode 0x332D8001 = .ok (.subw 6 12 22) ∧
    decode 0x732C8002 = .ok (.and 14 12 22) ∧
    decode 0xDC088003 = .ok (.ior 27 16 4) ∧
    decode 0x44008004 = .ok (.xor 8 16 0) ∧
    decode 0xC74C8005 = .ok (.lsl 24 29 6) ∧
    decode 0xEFD98005 = .ok (.lslw 29 31 12) ∧
    decode 0x42CA8006 = .ok (.lsr 8 11 5) ∧
    decode 0x2E358006 = .ok (.lsrw 5 24 26) ∧
    decode 0x4F448007 = .ok (.asr 9 29 2) ∧
    decode 0x29C78007 = .ok (.asrw 5 7 3) ∧
    decode 0x7ED08008 = .ok (.mul 15 27 8) ∧
    decode 0x3BE98008 = .ok (.mulw 7 15 20) ∧
    decode 0xCCF48009 = .ok (.mulhs 25 19 26) ∧
    decode 0x531C800A = .ok (.mulhn 10 12 14) ∧
    decode 0xEBEA800B = .ok (.divs 29 15 21) ∧
    decode 0xFA0D800B = .ok (.divsw 31 8 6) ∧
    decode 0x0D90800C = .ok (.divn 1 22 8) ∧
    decode 0xF7E3800C = .ok (.divnw 30 31 17) ∧
    decode 0x8774800D = .ok (.rems 16 29 26) ∧
    decode 0x2175800D = .ok (.remsw 4 5 26) ∧
    decode 0x22D8800E = .ok (.remn 4 11 12) ∧
    decode 0x83C7800E = .ok (.remnw 16 15 3) ∧
    decode 0xFEF8800F = .ok (.slt 31 27 28) ∧
    decode 0xCCDC8010 = .ok (.sltn 25 19 14) ∧
    decode 0x241E8011 = .ok (.mins 4 16 15) ∧
    decode 0x7A928012 = .ok (.maxs 15 10 9) ∧
    decode 0xBDE68013 = .ok (.minn 23 23 19) ∧
    decode 0xECE48014 = .ok (.maxn 29 19 18) ∧
    decode 0x00808015 = .ok (.clz 0 2) ∧
    decode 0x3D408016 = .ok (.ctz 7 21) ∧
    decode 0xF5808017 = .ok (.popc 30 22) ∧
    decode 0xB0008018 = .ok (.bswp 22 0) := by
  refine ⟨?_, ?_, ?_, ?_, ?_, ?_, ?_, ?_, ?_, ?_, ?_, ?_, ?_, ?_, ?_, ?_, ?_, ?_, ?_, ?_, ?_, ?_, ?_, ?_, ?_, ?_, ?_, ?_, ?_, ?_, ?_, ?_, ?_, ?_, ?_⟩ <;> rfl

theorem test_decode_immediates :
    decode 0x624683AB = .ok (.addi 12 9 0xDAB) ∧
    decode 0xE0CD8207 = .ok (.andi 28 3 0xA07) ∧
    decode 0xC05783CE = .ok (.iori 24 1 0xFCE) ∧
    decode 0x935D82BD = .ok (.xori 18 13 0xABD) ∧
    decode 0xC1668205 = .ok (.slti 24 5 0xC05) ∧
    decode 0xC0688234 = .ok (.lsli 24 1 52) ∧
    decode 0xF6708233 = .ok (.lsri 30 25 51) ∧
    decode 0x7578822B = .ok (.asri 14 21 43) ∧
    decode 0xCAAD84B3 = .ok (.lih 25 0x55AB3) ∧
    decode 0xBF588653 = .ok (.addpc 23 0xEB053) := by
  refine ⟨?_, ?_, ?_, ?_, ?_, ?_, ?_, ?_, ?_, ?_⟩ <;> rfl

theorem test_decode_memory :
    decode 0x271F8830 = .ok (.ld .d 4 28 0xE30) ∧
    decode 0xE3328B3F = .ok (.lda .ws 28 12 0x53F) ∧
    decode 0x3EC88D20 = .ok (.st .h 7 27 0x120) ∧
    decode 0xE4C98F19 = .ok (.stl .h 28 19 0x319) ∧
    decode 0xD3C09180 = .ok (.aadd ⟨true, 2, 0, 26, 15, 0⟩) ∧
    decode 0xFAAE90E1 = .ok (.aand ⟨false, 3, 2, 31, 10, 23⟩) ∧
    decode 0xF3C29032 = .ok (.aior ⟨false, 0, 3, 30, 15, 1⟩) ∧
    decode 0x47C09153 = .ok (.axor ⟨true, 1, 1, 8, 31, 0⟩) ∧
    decode 0xBED69024 = .ok (.amins ⟨false, 0, 2, 23, 27, 11⟩) ∧
    decode 0x568E9005 = .ok (.amaxs ⟨false, 0, 0, 10, 26, 7⟩) ∧
    decode 0xB66691F6 = .ok (.aminn ⟨true, 3, 3, 22, 25, 19⟩) ∧
    decode 0x1E369197 = .ok (.amaxn ⟨true, 2, 1, 3, 24, 27⟩) ∧
    decode 0x36929048 = .ok (.aswp ⟨false, 1, 0, 6, 26, 9⟩) ∧
    decode 0x8E1E9199 = .ok (.acas ⟨true, 2, 1, 17, 24, 15⟩) := by
  refine ⟨?_, ?_, ?_, ?_, ?_, ?_, ?_, ?_, ?_, ?_, ?_, ?_, ?_, ?_⟩ <;> rfl

theorem test_decode_float :
    decode 0x435792E0 = .ok (.fadd ⟨2, 7, 8, 13, 11⟩) ∧
    decode 0x93B99201 = .ok (.fsub ⟨2, 0, 18, 14, 28⟩) ∧
    decode 0xCAB89222 = .ok (.fmul ⟨0, 1, 25, 10, 28⟩) ∧
    decode 0x428D9283 = .ok (.fdiv ⟨2, 4, 8, 10, 6⟩) ∧
    decode 0xC3019324 = .ok (.fsqrt ⟨3, 1, 24, 12, 0⟩) ∧
    decode 0x57839305 = .ok (.fmin ⟨3, 0, 10, 30, 1⟩) ∧
    decode 0xC03A9206 = .ok (.fmax ⟨0, 0, 24, 0, 29⟩) ∧
    decode 0x48629287 = .ok (.fmac ⟨0, 4, 9, 1, 17⟩) ∧
    decode 0xBAD29308 = .ok (.feq ⟨1, 0, 23, 11, 9⟩) ∧
    decode 0x782D9309 = .ok (.flt ⟨3, 0, 15, 0, 22⟩) ∧
    decode 0x8FF0930A = .ok (.fle ⟨1, 0, 17, 31, 24⟩) ∧
    decode 0x0C80920B = .ok (.fclass ⟨0, 0, 1, 18, 0⟩) ∧
    decode 0x6E01934C = .ok (.fcvti ⟨3, 2, 13, 24, 0⟩) ∧
    decode 0x8080930D = .ok (.fcvtf ⟨1, 0, 16, 2, 0⟩) ∧
    decode 0x6280926E = .ok (.fcvt ⟨0, 3, 12, 10, 0⟩) ∧
    decode 0xA779930F = .ok (.fsgn ⟨3, 0, 20, 29, 28⟩) ∧
    decode 0x04519210 = .ok (.fsgnn ⟨2, 0, 0, 17, 8⟩) ∧
    decode 0x96CD9211 = .ok (.fsgnx ⟨2, 0, 18, 27, 6⟩) := by
  refine ⟨?_, ?_, ?_, ?_, ?_, ?_, ?_, ?_, ?_, ?_, ?_, ?_, ?_, ?_, ?_, ?_, ?_, ?_⟩ <;> rfl

theorem test_decode_branches :
    decode 0x67FE949F = .ok (.beq 12 31 0x7C9F) ∧
    decode 0x91519785 = .ok (.bne 18 5 0x2385) ∧
    decode 0x5F62981D = .ok (.blt 11 29 0x441D) ∧
    decode 0x13229BE7 = .ok (.bge 2 12 0x45E7) ∧
    decode 0x994B9D9E = .ok (.bltn 19 5 0x179E) ∧
    decode 0x206A9E4C = .ok (.bgen 4 1 0x544C) ∧
    decode 0x6245A11C = .ok (.jal 12 0x48B1C) ∧
    decode 0x364DA2B3 = .ok (.ptb 6 0xC9AB3) ∧
    decode 0x5F05A4DF = .ok (.jr 11 28 0xADF) ∧
    decode 0x080CA57D = .ok (.ptbr 1 0 0x97D) ∧
    decode 0x1810A400 = .ok (.brt 3) ∧
    decode 0x1F58A400 = .ok (.brtnz 3 29) ∧
    decode 0x37E0A400 = .ok (.brtz 6 31) ∧
    decode 0x3828A400 = .ok (.callt 7) := by
  refine ⟨?_, ?_, ?_, ?_, ?_, ?_, ?_, ?_, ?_, ?_, ?_, ?_, ?_, ?_⟩ <;> rfl

theorem test_decode_system :
    decode 0xB82AA7A8 = .ok (.crd 23 0xAB5) ∧
    decode 0xA5F3A659 = .ok (.cwr 20 23 0xCCB) ∧
    decode 0xACC2A762 = .ok (.cset 21 19 0x0AC) ∧
    decode 0x1334A6E3 = .ok (.cclr 2 12 0xD1C) ∧
    decode 0x001BA7C4 = .ok (.trap 0x6F8) ∧
    decode 0x0000A605 = .ok .resume ∧
    decode 0x0000A606 = .ok .idle ∧
    decode 0x0000A607 = .ok .halt ∧
    decode 0x0086A800 = .ok (.fence 2 3) ∧
    decode 0x0000A801 = .ok .fenceS ∧
    decode 0x0000A802 = .ok .fenceI ∧
    decode 0x03C0A803 = .ok (.marm 15) ∧
    decode 0xA000A804 = .ok (.mwait 20) ∧
    decode 0x012AA805 = .ok (.vmflush 4 21) ∧
    decode 0x0000A806 = .ok .assay := by
  refine ⟨?_, ?_, ?_, ?_, ?_, ?_, ?_, ?_, ?_, ?_, ?_, ?_, ?_, ?_, ?_⟩ <;> rfl

theorem test_decode_crews :
    decode 0xE100AA00 = .ok (.launch 28 4) ∧
    decode 0xDB00AA01 = .ok (.launchi 27 12) ∧
    decode 0x0000AA02 = .ok .retire ∧
    decode 0x0000AA03 = .ok .yield ∧
    decode 0x0640AA04 = .ok (.farm 25) ∧
    decode 0x7EC0AA05 = .ok (.fstrip 15 27) ∧
    decode 0x0364AA06 = .ok (.post 13 18) ∧
    decode 0x068AAA07 = .ok (.waiti 26 5) ∧
    decode 0x0000AA08 = .ok .bar ∧
    decode 0x0000AA09 = .ok .convoy ∧
    decode 0x35C0AA0A = .ok (.lwait 6 23) ∧
    decode 0x0000AA0B = .ok .uiret := by
  refine ⟨?_, ?_, ?_, ?_, ?_, ?_, ?_, ?_, ?_, ?_, ?_, ?_⟩ <;> rfl

theorem test_decode_streams_routes :
    decode 0xDD80AC00 = .ok (.sstart 27 22) ∧
    decode 0x93C0AC01 = .ok (.swait 18 15) ∧
    decode 0xB2C0AC02 = .ok (.stest 22 11) ∧
    decode 0xB800AC03 = .ok (.skill 23 0) ∧
    decode 0xBA80AC04 = .ok (.rbind 23 10) ∧
    decode 0x0000AC05 = .ok .runbind ∧
    decode 0x0CC0AC06 = .ok (.route 1 19) ∧
    decode 0x9C40AC07 = .ok (.rrecv 19 17) ∧
    decode 0xC95CAC08 = .ok (.rret 25 5 14) ∧
    decode 0xCA40AC09 = .ok (.rwait 25 9) ∧
    decode 0x9708AC0A = .ok (.rstat 18 28 4) := by
  refine ⟨?_, ?_, ?_, ?_, ?_, ?_, ?_, ?_, ?_, ?_, ?_⟩ <;> rfl

theorem test_decode_setup :
    decode 0x3846AE00 = .ok (.vsetvl 7 1 3) ∧
    decode 0x6B41AF1E = .ok (.vsetvli 13 13 0x11E) ∧
    decode 0x01C0AE01 = .ok (.vshape 7) ∧
    decode 0x9BE6AE02 = .ok (.winv 19 15 19) ∧
    decode 0x0542AE03 = .ok (.winm 0 21 1) ∧
    decode 0x4EF6AE04 = .ok (.wing 9 27 27) ∧
    decode 0x496CAE05 = .ok (.wini 9 5 22) ∧
    decode 0xFE80AE06 = .ok (.winrd 31 26) := by
  refine ⟨?_, ?_, ?_, ?_, ?_, ?_, ?_, ?_⟩ <;> rfl

theorem test_decode_vector_memory :
    decode 0xE800B010 = .ok (.vld ⟨29, 0, 0, false, 0, false, 2⟩) ∧
    decode 0x6E00B019 = .ok (.vldff ⟨13, 24, 0, false, 0, false, 3⟩) ∧
    decode 0x3E40B06A = .ok (.vldm ⟨7, 25, 0, false, 0, true, 5⟩) ∧
    decode 0x43C0B06B = .ok (.vfill ⟨8, 15, 0, false, 0, true, 5⟩) ∧
    decode 0xDF00B210 = .ok (.vst ⟨27, 28, 0, false, 0, false, 2⟩) ∧
    decode 0x2840B369 = .ok (.vstu ⟨5, 1, 0, false, 2, true, 5⟩) ∧
    decode 0x2580B26A = .ok (.vstm ⟨4, 22, 0, false, 0, true, 5⟩) ∧
    decode 0x5E80B263 = .ok (.vspill ⟨11, 26, 0, false, 0, true, 4⟩) ∧
    decode 0x0384B528 = .ok (.vsredIadd ⟨0, 14, 2, false, 2, false, 5⟩) ∧
    decode 0x91A3B541 = .ok (.vsredFadd ⟨18, 6, 17, true, 2, true, 0⟩) ∧
    decode 0x8D64B56A = .ok (.vsredMins ⟨17, 21, 18, false, 2, true, 5⟩) ∧
    decode 0x8064B55B = .ok (.vsredMaxs ⟨16, 1, 18, false, 2, true, 3⟩) ∧
    decode 0x02B0B524 = .ok (.vsredMinn ⟨0, 10, 24, false, 2, false, 4⟩) ∧
    decode 0x14B3B51D = .ok (.vsredMaxn ⟨2, 18, 25, true, 2, false, 3⟩) ∧
    decode 0x2348B506 = .ok (.vsredAnd ⟨4, 13, 4, false, 2, false, 0⟩) ∧
    decode 0x7B9AB507 = .ok (.vsredIor ⟨15, 14, 13, false, 2, false, 0⟩) ∧
    decode 0xD442B758 = .ok (.vsredoIadd ⟨26, 17, 1, false, 2, true, 3⟩) ∧
    decode 0x4195B761 = .ok (.vsredoFadd ⟨8, 6, 10, true, 2, true, 4⟩) ∧
    decode 0x0EF4B722 = .ok (.vsredoMins ⟨1, 27, 26, false, 2, false, 4⟩) ∧
    decode 0xD5A9B713 = .ok (.vsredoMaxs ⟨26, 22, 20, true, 2, false, 2⟩) ∧
    decode 0x00F3B70C = .ok (.vsredoMinn ⟨0, 3, 25, true, 2, false, 1⟩) ∧
    decode 0x6748B705 = .ok (.vsredoMaxn ⟨12, 29, 4, false, 2, false, 0⟩) ∧
    decode 0x5435B70E = .ok (.vsredoAnd ⟨10, 16, 26, true, 2, false, 1⟩) ∧
    decode 0x7F6EB72F = .ok (.vsredoIor ⟨15, 29, 23, false, 2, false, 5⟩) ∧
    decode 0x3E36B800 = .ok (.vbin 7 24 27) ∧
    decode 0x07DCB801 = .ok (.vpush 31 14) ∧
    decode 0x0404B802 = .ok (.vfe 16 2) := by
  refine ⟨?_, ?_, ?_, ?_, ?_, ?_, ?_, ?_, ?_, ?_, ?_, ?_, ?_, ?_, ?_, ?_, ?_, ?_, ?_, ?_, ?_, ?_, ?_, ?_, ?_, ?_, ?_⟩ <;> rfl

theorem test_decode_masks :
    decode 0x0908BBAC = .ok (.vcmpEq ⟨1, 4, 4, false, true, 2, true, 3⟩) ∧
    decode 0x1086BA9D = .ok (.vcmpNe ⟨2, 2, 3, false, false, 2, false, 7⟩) ∧
    decode 0x01C6BB52 = .ok (.vcmpLt ⟨0, 7, 3, false, true, 1, false, 4⟩) ∧
    decode 0x331EBAA3 = .ok (.vcmpLe ⟨6, 12, 15, false, false, 2, true, 0⟩) ∧
    decode 0x2E54BD0C = .ok (.vcmpGt ⟨5, 25, 10, false, true, 0, false, 3⟩) ∧
    decode 0x3BE7BC21 = .ok (.vcmpGe ⟨7, 15, 19, true, false, 0, true, 0⟩) ∧
    decode 0x1E80BC4E = .ok (.vcmpUn ⟨3, 26, 0, false, false, 1, false, 3⟩) ∧
    decode 0x00A7BD13 = .ok (.vcmpOrd ⟨0, 2, 19, true, true, 0, false, 4⟩) ∧
    decode 0x208CBE00 = .ok (.mand 4 2 6) ∧
    decode 0x0804BE01 = .ok (.mior 1 0 2) ∧
    decode 0x0046BE02 = .ok (.mxor 0 1 3) ∧
    decode 0x3006BE03 = .ok (.mandn 6 0 3) ∧
    decode 0x1980BE04 = .ok (.mnot 3 6) ∧
    decode 0xA180BE05 = .ok (.mpopc 20 6) ∧
    decode 0x11C0BE06 = .ok (.mfirst 2 7) ∧
    decode 0x3000BE07 = .ok (.mset 6) ∧
    decode 0x1000BE08 = .ok (.mclr 2) := by
  refine ⟨?_, ?_, ?_, ?_, ?_, ?_, ?_, ?_, ?_, ?_, ?_, ?_, ?_, ?_, ?_, ?_, ?_⟩ <;> rfl

theorem test_decode_lanes :
    decode 0x4A4EC048 = .ok (.vadd ⟨9, 9, 7, false, false, 1, false, 2⟩) ∧
    decode 0x2462C17D = .ok (.vsub ⟨4, 17, 17, false, true, 1, true, 7⟩) ∧
    decode 0x980CC162 = .ok (.vrsub ⟨19, 0, 6, false, true, 1, true, 0⟩) ∧
    decode 0xC484C11F = .ok (.vmul ⟨24, 18, 2, false, true, 0, false, 7⟩) ∧
    decode 0xB034C370 = .ok (.vmulh ⟨22, 0, 26, false, true, 1, true, 4⟩) ∧
    decode 0xAE37C331 = .ok (.vdiv ⟨21, 24, 27, true, true, 0, true, 4⟩) ∧
    decode 0x9DE6C29A = .ok (.vrem ⟨19, 23, 19, false, false, 2, false, 6⟩) ∧
    decode 0xDF30C3B7 = .ok (.vma ⟨27, 28, 24, false, true, 2, true, 5⟩) ∧
    decode 0x590CC540 = .ok (.vms ⟨11, 4, 6, false, true, 1, false, 0⟩) ∧
    decode 0xA056C539 = .ok (.vnma ⟨20, 1, 11, false, true, 0, true, 6⟩) ∧
    decode 0x53C8C56E = .ok (.vmin ⟨10, 15, 4, false, true, 1, true, 3⟩) ∧
    decode 0x3400C407 = .ok (.vmax ⟨6, 16, 0, false, false, 0, false, 1⟩) ∧
    decode 0x9180C648 = .ok (.vabs ⟨18, 6, 0, false, false, 1, false, 2⟩) ∧
    decode 0x9641C61D = .ok (.vneg ⟨18, 25, 0, true, false, 0, false, 7⟩) ∧
    decode 0x39C0C68E = .ok (.vsqrt ⟨7, 7, 0, false, false, 2, false, 3⟩) ∧
    decode 0x9040C683 = .ok (.vrcp ⟨18, 1, 0, false, false, 2, false, 0⟩) ∧
    decode 0xBF00C8B8 = .ok (.vrsq ⟨23, 28, 0, false, false, 2, true, 6⟩) ∧
    decode 0x7A40C861 = .ok (.vexp2 ⟨15, 9, 0, false, false, 1, true, 0⟩) ∧
    decode 0x0041C80A = .ok (.vlog2 ⟨0, 1, 0, true, false, 0, false, 2⟩) ∧
    decode 0x9B40C89F = .ok (.vcvt ⟨19, 13, 0, false, false, 2, false, 7⟩) ∧
    decode 0x30E4CA04 = .ok (.vand ⟨6, 3, 18, false, false, 0, false, 1⟩) ∧
    decode 0x89AACAB9 = .ok (.vior ⟨17, 6, 21, false, false, 2, true, 6⟩) ∧
    decode 0x2307CB12 = .ok (.vxor ⟨4, 12, 3, true, true, 0, false, 4⟩) ∧
    decode 0x1100CABF = .ok (.vnot ⟨2, 4, 0, false, false, 2, true, 7⟩) ∧
    decode 0xAD1ECD70 = .ok (.vshl ⟨21, 20, 15, false, true, 1, true, 4⟩) ∧
    decode 0x8AF0CD3D = .ok (.vshr ⟨17, 11, 24, false, true, 0, true, 7⟩) ∧
    decode 0xB066CD4E = .ok (.vsha ⟨22, 1, 19, false, true, 1, false, 3⟩) ∧
    decode 0xB100CC43 = .ok (.vclz ⟨22, 4, 0, false, false, 1, false, 0⟩) ∧
    decode 0x0880CE04 = .ok (.vpopc ⟨1, 2, 0, false, false, 0, false, 1⟩) ∧
    decode 0xBBCACE65 = .ok (.vmerge ⟨23, 15, 5, false, false, 1, true, 1⟩) ∧
    decode 0x7D40CE6E = .ok (.vmv ⟨15, 21, 0, false, false, 1, true, 3⟩) ∧
    decode 0x8800CE2F = .ok (.vidx ⟨17, 0, 0, false, false, 0, true, 3⟩) := by
  refine ⟨?_, ?_, ?_, ?_, ?_, ?_, ?_, ?_, ?_, ?_, ?_, ?_, ?_, ?_, ?_, ?_, ?_, ?_, ?_, ?_, ?_, ?_, ?_, ?_, ?_, ?_, ?_, ?_, ?_, ?_, ?_, ?_⟩ <;> rfl

theorem test_decode_permutes :
    decode 0xA684D1A4 = .ok (.vslup ⟨20, 26, 2, false, true, 2, true, 1⟩) ∧
    decode 0x7CD4D005 = .ok (.vsldn ⟨15, 19, 10, false, false, 0, false, 1⟩) ∧
    decode 0xDE89D102 = .ok (.vrgath ⟨27, 26, 4, true, true, 0, false, 0⟩) ∧
    decode 0x182CD113 = .ok (.vcompr ⟨3, 0, 22, false, true, 0, false, 4⟩) ∧
    decode 0xC926D270 = .ok (.vextr ⟨25, 4, 19, false, false, 1, true, 4⟩) ∧
    decode 0x494FD231 = .ok (.vins ⟨9, 5, 7, true, false, 0, true, 4⟩) ∧
    decode 0x0568D35E = .ok (.vscl ⟨0, 21, 20, false, true, 1, false, 7⟩) ∧
    decode 0xB481D21F = .ok (.vrnd ⟨22, 18, 0, true, false, 0, false, 7⟩) ∧
    decode 0x9FCED5BC = .ok (.vdotq ⟨19, 31, 7, false, true, 2, true, 7⟩) ∧
    decode 0x8400D485 = .ok (.vclass ⟨16, 16, 0, false, false, 2, false, 1⟩) ∧
    decode 0x9D37D800 = .ok (.vrsum ⟨19, 20, 27, true, false, 0, false, 0⟩) ∧
    decode 0xD8C2D901 = .ok (.vrsumo ⟨27, 3, 1, false, true, 0, false, 0⟩) ∧
    decode 0xD156D856 = .ok (.vrmin ⟨26, 5, 11, false, false, 1, false, 5⟩) ∧
    decode 0x0E06D89F = .ok (.vrmax ⟨1, 24, 3, false, false, 2, false, 7⟩) ∧
    decode 0xAD04DAA0 = .ok (.vscan ⟨21, 20, 2, false, false, 2, true, 0⟩) ∧
    decode 0x0800DA21 = .ok (.vfetch 1 true) ∧
    decode 0x0000DA02 = .ok .lend ∧
    decode 0x1F9CDCB0 = .ok (.vtget ⟨3, 30, 14, false, false, 2, true, 4⟩) ∧
    decode 0xC900DD59 = .ok (.vtset ⟨25, 4, 0, false, true, 1, false, 6⟩) ∧
    decode 0x8000DC5A = .ok (.vtzero ⟨16, 0, 0, false, false, 1, false, 6⟩) := by
  refine ⟨?_, ?_, ?_, ?_, ?_, ?_, ?_, ?_, ?_, ?_, ?_, ?_, ?_, ?_, ?_, ?_, ?_, ?_, ?_, ?_⟩ <;> rfl

theorem test_decode_geometry :
    decode 0x4286E194 = .ok (.gprod ⟨8, 10, 3, false, true, 18, true⟩) ∧
    decode 0x31D0E161 = .ok (.gwedge ⟨6, 7, 8, false, true, 12, false⟩) ∧
    decode 0x6916E15E = .ok (.gjoin ⟨13, 4, 11, false, true, 11, true⟩) ∧
    decode 0x6344E03B = .ok (.ginner ⟨12, 13, 2, false, false, 7, false⟩) ∧
    decode 0x43C3E234 = .ok (.gsand ⟨8, 15, 1, true, false, 6, true⟩) ∧
    decode 0x7AC0E2AD = .ok (.grev ⟨15, 11, 0, false, false, 21, true⟩) ∧
    decode 0x6300E202 = .ok (.gdual ⟨12, 12, 0, false, false, 0, false⟩) ∧
    decode 0x43B9E203 = .ok (.ggrade ⟨8, 14, 28, true, false, 0, false⟩) ∧
    decode 0x6880E444 = .ok (.gnorm ⟨13, 2, 0, false, false, 8, true⟩) ∧
    decode 0x58D7E5E5 = .ok (.gadd ⟨11, 3, 11, true, true, 28, true⟩) ∧
    decode 0x7141E40E = .ok (.gsub ⟨14, 5, 0, true, false, 1, true⟩) ∧
    decode 0x624CE4E3 = .ok (.gscale ⟨12, 9, 6, false, false, 28, false⟩) ∧
    decode 0x7244E6C0 = .ok (.gld ⟨14, 9, 2, false, false, 24, false⟩) ∧
    decode 0x0962E601 = .ok (.gst ⟨1, 5, 17, false, false, 0, false⟩) ∧
    decode 0x7100E66A = .ok (.gexp ⟨14, 4, 0, false, false, 13, false⟩) ∧
    decode 0x1802E72B = .ok (.gxsign ⟨3, 0, 1, false, true, 5, false⟩) ∧
    decode 0x4094E898 = .ok (.gsel ⟨8, 2, 10, false, false, 19, false⟩) ∧
    decode 0x5D00E8E9 = .ok (.gfromv ⟨11, 20, 0, false, false, 29, false⟩) ∧
    decode 0x0241E81A = .ok (.gtov ⟨0, 9, 0, true, false, 3, false⟩) := by
  refine ⟨?_, ?_, ?_, ?_, ?_, ?_, ?_, ?_, ?_, ?_, ?_, ?_, ?_, ?_, ?_, ?_, ?_, ?_, ?_⟩ <;> rfl

theorem test_decode_intervals :
    decode 0x524CEB40 = .ok (.iadd ⟨10, 9, 6, false, true, true, false⟩) ∧
    decode 0x08D5EA01 = .ok (.isub ⟨1, 3, 10, true, false, false, false⟩) ∧
    decode 0x5A4EEA22 = .ok (.imul ⟨11, 9, 7, false, false, false, true⟩) ∧
    decode 0x134EEA23 = .ok (.idiv ⟨2, 13, 7, false, false, false, true⟩) ∧
    decode 0x0381EA04 = .ok (.isqr ⟨0, 14, 0, true, false, false, false⟩) ∧
    decode 0x0000EA25 = .ok (.isqrt ⟨0, 0, 0, false, false, false, true⟩) ∧
    decode 0x6A40EA66 = .ok (.iexp ⟨13, 9, 0, false, false, true, true⟩) ∧
    decode 0x4801EA07 = .ok (.ilog ⟨9, 0, 0, true, false, false, false⟩) ∧
    decode 0x7B41EA68 = .ok (.ineg ⟨15, 13, 0, true, false, true, true⟩) ∧
    decode 0x3340EA49 = .ok (.iabs ⟨6, 13, 0, false, false, true, false⟩) ∧
    decode 0x3313EA4A = .ok (.imin ⟨6, 12, 9, true, false, true, false⟩) ∧
    decode 0x63C7EB4B = .ok (.imax ⟨12, 15, 3, true, true, true, false⟩) := by
  refine ⟨?_, ?_, ?_, ?_, ?_, ?_, ?_, ?_, ?_, ?_, ?_, ?_⟩ <;> rfl

theorem test_decode_contractors :
    decode 0x6315EB80 = .ok (.cadd ⟨12, 12, 10, true, true, false, false⟩) ∧
    decode 0x5082EBE1 = .ok (.csub ⟨10, 2, 1, false, true, true, true⟩) ∧
    decode 0x705BEBA2 = .ok (.cmul ⟨14, 1, 13, true, true, false, true⟩) ∧
    decode 0x0883EB83 = .ok (.cdiv ⟨1, 2, 1, true, true, false, false⟩) ∧
    decode 0x1B01EA84 = .ok (.csqr ⟨3, 12, 0, true, false, false, false⟩) ∧
    decode 0x5180EAA5 = .ok (.csqrt ⟨10, 6, 0, false, false, false, true⟩) ∧
    decode 0x3200EAC6 = .ok (.cexp ⟨6, 8, 0, false, false, true, false⟩) ∧
    decode 0x1A00EAE7 = .ok (.clog ⟨3, 8, 0, false, false, true, true⟩) ∧
    decode 0x43C0EAA8 = .ok (.cneg ⟨8, 15, 0, false, false, false, true⟩) ∧
    decode 0x5840EAC9 = .ok (.cabs ⟨11, 1, 0, false, false, true, false⟩) ∧
    decode 0x53C7EA8A = .ok (.cmin ⟨10, 15, 3, true, false, false, false⟩) ∧
    decode 0x78CFEAEB = .ok (.cmax ⟨15, 3, 7, true, false, true, true⟩) := by
  refine ⟨?_, ?_, ?_, ?_, ?_, ?_, ?_, ?_, ?_, ?_, ?_, ?_⟩ <;> rfl

theorem test_decode_interval_sets :
    decode 0x601BEC20 = .ok (.ihull ⟨12, 0, 13, true, false, false, true⟩) ∧
    decode 0x1019EC21 = .ok (.imeet ⟨2, 0, 12, true, false, false, true⟩) ∧
    decode 0x20DBEC22 = .ok (.isplit ⟨4, 3, 13, true, false, false, true⟩) ∧
    decode 0x3B40EC03 = .ok (.imid ⟨7, 13, 0, false, false, false, false⟩) ∧
    decode 0x0941EC04 = .ok (.iwid ⟨1, 5, 0, true, false, false, false⟩) ∧
    decode 0x39A5EC25 = .ok (.imk ⟨7, 6, 18, true, false, false, true⟩) ∧
    decode 0x6980EC26 = .ok (.ilo ⟨13, 6, 0, false, false, false, true⟩) ∧
    decode 0x1841EC47 = .ok (.ihi ⟨3, 1, 0, true, false, true, false⟩) ∧
    decode 0x09D2EC68 = .ok (.icmplt ⟨1, 7, 9, false, false, true, true⟩) ∧
    decode 0x10C7EC09 = .ok (.icmple ⟨2, 3, 3, true, false, false, false⟩) ∧
    decode 0x2081EC2A = .ok (.icmpeq ⟨4, 2, 0, true, false, false, true⟩) ∧
    decode 0x2B06ED6B = .ok (.iin ⟨5, 12, 3, false, true, true, true⟩) ∧
    decode 0x3280EC6C = .ok (.iempty ⟨6, 10, 0, false, false, true, true⟩) ∧
    decode 0x019CED0D = .ok (.isubset ⟨0, 6, 14, false, true, false, false⟩) ∧
    decode 0x3549EF10 = .ok (.ild ⟨6, 21, 4, true, 2, false, 2⟩) ∧
    decode 0x41E4EED9 = .ok (.ist ⟨8, 7, 18, false, 1, true, 3⟩) := by
  refine ⟨?_, ?_, ?_, ?_, ?_, ?_, ?_, ?_, ?_, ?_, ?_, ?_, ?_, ?_, ?_, ?_⟩ <;> rfl

theorem test_decode_matrix :
    decode 0x0680F200 = .ok (.mclaim 26) ∧
    decode 0x0000F201 = .ok .mfree ∧
    decode 0x020EF202 = .ok (.msetvl 8 7) ∧
    decode 0x3000F203 = .ok (.mwipe 6) := by
  refine ⟨?_, ?_, ?_, ?_⟩ <;> rfl

theorem test_decode_compressed :
    decode 0x01B5 = .ok (.cIll 437) ∧
    decode 0x0B86 = .ok (.cAdd 14 6) ∧
    decode 0x11BC = .ok (.cAddi 6 60) ∧
    decode 0x1D86 = .ok (.cMov 22 6) ∧
    decode 0x26AE = .ok (.cLi 26 46) ∧
    decode 0x2A3F = .ok (.cLd 8 63) ∧
    decode 0x36E4 = .ok (.cSt 27 36) ∧
    decode 0x3FC1 = .ok (.cBeqz 31 1) ∧
    decode 0x45DC = .ok (.cBnez 23 28) ∧
    decode 0x4918 = .ok (.cJ 280) ∧
    decode 0x50E5 = .ok (.cLsli 3 37) ∧
    decode 0x5AC0 = .ok (.cVsetvl 11) ∧
    decode 0x6000 = .ok (.cBrt 0) ∧
    decode 0x6800 = .ok .cNop ∧
    decode 0x75C4 = .ok (.cSub 23 4) := by
  refine ⟨?_, ?_, ?_, ?_, ?_, ?_, ?_, ?_, ?_, ?_, ?_, ?_, ?_, ?_, ?_⟩ <;> rfl

theorem test_decode_tile_bodies :
    decode 0x00C9F4082800FE00 = .ok (.opadd ⟨5, 0, 0, 3, 4, true, false, false, 2⟩) ∧
    decode 0x06D2F53D0800FE00 = .ok (.opsub ⟨1, 0, 0, 27, 9, false, true, true, 7⟩) ∧
    decode 0x0044F42E118EFE00 = .ok (.opxsc ⟨2, 6, 7, 1, 2, false, false, true, 3⟩) ∧
    decode 0xA000F6241B00FE00 = .ok (.trowr ⟨3, 12, 20, false, true, 1⟩) ∧
    decode 0x0016F7123FC0FE00 = .ok (.troww ⟨7, 31, 11, true, false, 4⟩) ∧
    decode 0xD800F6190340FE00 = .ok (.tcolr ⟨0, 13, 27, false, false, 6⟩) ∧
    decode 0x000AF6373380FE00 = .ok (.tcolw ⟨6, 14, 5, false, true, 5⟩) ∧
    decode 0x0300F8602000FF40 = .ok (.mld ⟨4, 5, 12, 0, false, true⟩) ∧
    decode 0x031AF8A12000FE40 = .ok (.mldt ⟨4, 1, 12, 13, true, false⟩) ∧
    decode 0x07BEF8E22800FE80 = .ok (.mst ⟨5, 2, 30, 31, true, true⟩) ∧
    decode 0x0740F8232800FEC0 = .ok (.mstt ⟨5, 3, 29, 0, false, false⟩) ∧
    decode 0xD000F86413C0FFC0 = .ok (.mcvt ⟨2, 15, 7, 26, true⟩) := by
  refine ⟨?_, ?_, ?_, ?_, ?_, ?_, ?_, ?_, ?_, ?_, ?_, ?_⟩ <;> rfl


/-! ### Scalar instructions, one step -/

-- 06 R100: 2^63 / −1 saturates to 2^63 − 1; a zero divisor gives the largest value of the dividend's sign.
theorem test_divs_overflow : next (exec (.divs 1 2 7) (at_ { user with s := user.s.set 2 0x8000000000000000 }))
    (fun t => t.h.get 1 == 0x7FFFFFFFFFFFFFFF) = true := by decide +kernel
theorem test_divs_zero : next (exec (.divs 1 7 0) (at_ user)) (fun t => t.h.get 1 == 0x8000000000000000) = true := by decide +kernel
theorem test_remsw_sign : next (exec (.remsw 1 2 5) (at_ { user with s := user.s.set 2 0xFFFFFFF8 }))
    (fun t => t.h.get 1 == 0xFFFFFFFFFFFFFFFD) = true := by decide +kernel
-- 06 R99: the word variant sign-extends; the high half of −1 · −1 is 0.
theorem test_addw_extends : next (exec (.addw 1 8 0) (at_ user)) (fun t => t.h.get 1 == 0xFFFFFFFF80000000) = true := by decide +kernel
theorem test_mulhs : next (exec (.mulhs 1 7 7) (at_ user)) (fun t => t.h.get 1 == 0) = true := by decide +kernel
theorem test_clz_zero : next (exec (.clz 1 0) (at_ user)) (fun t => t.h.get 1 == 64) = true := by decide +kernel
theorem test_bswp : next (exec (.bswp 1 5) (at_ user)) (fun t => t.h.get 1 == 0x0500000000000000) = true := by decide +kernel
-- 06 R96: s0 discards.
theorem test_s0 : next (exec (.add 0 5 5) (at_ user)) (fun t => t.h.get 0 == 0 && t.h.pc == 0x10004) = true := by decide +kernel
-- 06 R102: bit 31 of the shifted immediate is extended.
theorem test_lih : next (exec (.lih 1 0x80000) (at_ user)) (fun t => t.h.get 1 == 0xFFFFFFFF80000000) = true := by decide +kernel
-- 06 R110: the offset counts parcels.
theorem test_bltn_back : next (exec (.bltn 5 7 0x7FFF) (at_ user)) (fun t => t.h.pc == 0xFFFE) = true := by decide +kernel
theorem test_jal : next (exec (.jal 1 4) (at_ user)) (fun t => t.h.pc == 0x10008 && t.h.get 1 == 0x10004) = true := by decide +kernel
-- 06 R111: the target comes from s[b] before the link is written.
theorem test_jr_same : next (exec (.jr 5 5 4) (at_ user)) (fun t => t.h.pc == 9 && t.h.get 5 == 0x10004) = true := by decide +kernel
-- 08 R150, R153: TRAP enters at SVEC with cause 15; RESUME goes back.
theorem test_trap : next (exec (.trap 5) (at_ user))
    (fun t => t.h.trappc == 0x10000 && t.h.trapcause == 15 && t.h.trapval == 5 && t.h.level == .supervisor && t.h.pc == 0) = true := by
  decide +kernel
theorem test_resume : next (exec .resume (at_ { boss with trappc := 0x20, trapcause := 0x400F }))
    (fun t => t.h.pc == 0x20 && t.h.level == .user && t.h.hctl == 2) = true := by decide +kernel
-- 03 R45: illegal (cause 0) comes before privileged (cause 1).
theorem test_resume_illegal_first : next (exec .resume (at_ { user with trapcause := 0x400 })) (fun t => t.h.trapcause == 0) = true := by
  decide +kernel
theorem test_crd_hartid : next (exec (.crd 1 0x0B0) (at_ { user with slot := 3 })) (fun t => t.h.get 1 == 0x30001) = true := by decide +kernel
theorem test_cwr_denied : next (exec (.cwr 1 5 0x100) (at_ user)) (fun t => t.h.trapcause == 1) = true := by decide +kernel
-- 06 R103: a byte is sign-extended; a store writes the lowest byte first.
theorem test_ld_sign : next (exec (.ld .bs 1 5 0) { at_ bare with mem := ⟨[⟨5, 0x80⟩]⟩ })
    (fun t => t.h.get 1 == 0xFFFFFFFFFFFFFF80) = true := by decide +kernel
theorem test_st_order : next (exec (.st .h 8 0 0x100) (at_ { bare with s := bare.s.set 8 0x1234 }))
    (fun t => t.mem == ⟨[⟨0x100, 0x34⟩, ⟨0x101, 0x12⟩]⟩) = true := by decide +kernel
theorem test_stl_misaligned : next (exec (.stl .w 8 5 0) (at_ user)) (fun t => t.h.trapcause == 2 && t.h.trapval == 5) = true := by decide +kernel
-- 06 R104: the compare value is s[a], the old word comes back sign-extended.
theorem test_acas : next (exec (.acas ⟨false, 0, 0, 8, 9, 5⟩) { at_ { bare with s := bare.s.set 9 0x100 } with mem := ⟨[⟨0x103, 0x80⟩]⟩ })
    (fun t => t.h.get 8 == 0xFFFFFFFF80000000 && t.mem == ⟨[⟨0x100, 5⟩]⟩) = true := by decide +kernel
-- 06 R107, R108: 1.0 + 1.0 = 2.0; 1 / 0 is an infinity with DZ; −0 is of class 9.
theorem test_fadd : next (exec (.fadd ⟨1, 0, 1, 2, 2⟩) (at_ { user with s := user.s.set 2 0x3F800000 }))
    (fun t => t.h.get 1 == 0x40000000 && t.h.fcsr == 0) = true := by decide +kernel
theorem test_fdiv_zero : next (exec (.fdiv ⟨1, 0, 1, 2, 0⟩) (at_ { user with s := user.s.set 2 0x3F800000 }))
    (fun t => t.h.get 1 == 0x7F800000 && t.h.fcsr == 0x800) = true := by decide +kernel
theorem test_fclass : next (exec (.fclass ⟨2, 0, 1, 2, 0⟩) (at_ { user with s := user.s.set 2 0x8000 }))
    (fun t => t.h.get 1 == 0x200) = true := by decide +kernel
theorem test_fcvti_nan : next (exec (.fcvti ⟨1, 0, 1, 2, 0⟩) (at_ { user with s := user.s.set 2 0x7FC00000 }))
    (fun t => t.h.fcsr == 0x1000) = true := by decide +kernel
-- 03 R37: a compressed instruction is two bytes long.
theorem test_c_li : next (exec (.cLi 1 0x3F) (at_ user)) (fun t => t.h.get 1 == 0xFFFFFFFFFFFFFFFF && t.h.pc == 0x10002) = true := by
  decide +kernel
-- 03 R44: cause 0 with the bits.
theorem test_c_ill : next (exec (.cIll 5) (at_ user)) (fun t => t.h.trapcause == 0 && t.h.trapval == 5) = true := by decide +kernel

/-! ### States that meet the hypotheses of the obligations, scalar part -/

theorem witness_ImmediateBranchCompressed :
    ((at_ user).h.get 5 = (at_ user).h.get 5 ∧ ¬ (at_ user).h.get 5 = (at_ user).h.get 6) ∧
    (((at_ user).h.get 7).toInt < ((at_ user).h.get 0).toInt ∧ ¬ ((at_ user).h.get 7).toInt < ((at_ user).h.get 7).toInt) ∧
    (((at_ user).h.get 7).toInt ≤ ((at_ user).h.get 7).toInt ∧ ¬ ((at_ user).h.get 0).toInt ≤ ((at_ user).h.get 7).toInt) ∧
    (((at_ user).h.get 0).toNat < ((at_ user).h.get 7).toNat ∧ ¬ ((at_ user).h.get 7).toNat < ((at_ user).h.get 7).toNat) ∧
    (((at_ user).h.get 7).toNat ≤ ((at_ user).h.get 7).toNat ∧ ¬ ((at_ user).h.get 7).toNat ≤ ((at_ user).h.get 0).toNat) := by
  decide +kernel

/-- The table of R114 puts a register in every clause: 0x007 none, 0x006 read and written by all, 0x010 by the supervisor,
0x0B3 by nobody, 0x102 and 0x18F not read by user code; s5 is not 0; OVF is 0x091's. -/
theorem witness_ControlRegisterAccess :
    crAccess 0x007 true = .unassigned ∧ crAccess 0x006 true = .readWrite ∧ crAccess 0x010 true = .readOnly ∧
    crAccess 0x010 false = .readWrite ∧ crAccess 0x0B3 false = .readOnly ∧ crAccess 0x102 true = .denied ∧
    crAccess 0x18F true = .denied ∧ crAccess 0x102 false = .readWrite ∧ (5 : SReg) ≠ 0 ∧ (0x091 : BitVec 12) = 0x091 ∧
    (at_ user).h.level = .user ∧ (at_ boss).h.level ≠ .user := by decide +kernel

theorem witness_ControlRegisterWrites :
    (at_ boss).h.stop < 160 ∧ (0 : Word).getLsbD 0 = false ∧ (at_ boss).h.level ≠ .user ∧ (at_ user).h.level = .user ∧ crAccess 0 false ≠ .unassigned ∧
    crAccess 0x27F false ≠ .unassigned ∧ (0 : Nat) ≠ 0x27F ∧ (0 : Nat) ≠ 0x091 := by decide +kernel

theorem witness_TrapEntry :
    (at_ user).h.level ≠ .firmware ∧ (at_ boss).h.level ≠ .firmware ∧ (31 : Nat) < 32 ∧ (at_ bare).h.level = .firmware := by
  decide +kernel

/-- The hart with a push of its own that is not delivered. -/
def hasty (h : Hart) : State := { at_ h with pushes := [⟨4, 0, ⟨7, 1⟩, 0, 1, [(16, 8)], 0, some ⟨9, 0⟩, 10, 1⟩] }

theorem witness_ResumeReturns :
    (hasty { boss with trapcause := 0x200 }).pushing ⟨7, 1⟩ = true ∧ (at_ { boss with trapcause := 0x200 }).pushing ⟨7, 1⟩ = false ∧
    (at_ user).h.level = .user ∧
    ((at_ { boss with trapcause := 0x400 }).h.level ≠ .user ∧ 2 ≤ (at_ { boss with trapcause := 0x400 }).h.trapcause.toNat / 2 ^ 9 % 4) ∧
    ((at_ { boss with trapcause := 0x200 }).h.level ≠ .user ∧
      (at_ { boss with trapcause := 0x200 }).h.trapcause.toNat / 2 ^ 9 % 4 < 2) := by decide +kernel

/-- A hart with a lamp to be delivered. -/
def lit : Hart := { user with hctl := 4, lamps := [⟨true, 9⟩, ⟨false, 8⟩] }

theorem witness_LampsAndIdle :
    ((at_ lit).h.live = true ∧ (at_ lit).h.lampDue = true ∧ (at_ lit).h.lamps = ⟨true, 9⟩ :: [⟨false, 8⟩] ∧ (at_ lit).h.idle = false) ∧
    ((at_ user).h.idle = false ∧ (at_ user).h.lampEnable = false ∧ (at_ lit).h.idle = false ∧ (at_ lit).h.lamps ≠ []) ∧
    ((at_ { lit with lamps := [] }).h.lampEnable = true ∧ (at_ { lit with lamps := [] }).h.lamps = []) ∧
    ((at_ { lit with idle := true }).h.lampDue = true ∧ (at_ { lit with idle := true }).h.idle = true) := by decide +kernel

theorem witness_UiretReturns :
    ((at_ { user with retiring := true }).hartOf? ⟨7, 1⟩ = some { user with retiring := true } ∧
      (at_ { user with retiring := true }).drained ⟨7, 1⟩ = true) ∧
    ((at_ { user with lampcause := 0x8000000000000000 }).h.inLamp = true ∧ (at_ user).h.inLamp = false) := by decide +kernel

theorem witness_BoundaryTraps_due :
    let s := at_ { user with hctl := 8 }
    (s.h.level = .user ∧ s.h.step = true ∧ s.h.haltReq = false ∧ s.h.frozen = false ∧ s.h.halted = false ∧
      s.h.saved = false ∧ s.h.gangLost = [] ∧ s.h.faults = [] ∧ s.h.timeouts = []) := by decide +kernel

theorem witness_BoundaryTraps_taken :
    let s := at_ { user with faults := [1], timeouts := [2], stepDue := true, gangLost := [159, 3] }
    s.h.live = true ∧ s.h.canTrap = true ∧ s.h.faults = 1 :: [] ∧ s.h.timeouts = 2 :: [] ∧ s.h.stepDue = true ∧
      s.h.gangLost = 159 :: [3] := by decide +kernel

theorem witness_BoundaryTraps_order :
    let still (h : Hart) : Bool := !h.halted && !h.frozen && !h.saved
    still { user with haltReq := true } = true ∧ still boss = true ∧ boss.haltReq = false ∧
    (still { user with gangLost := [0] } = true ∧ ({ user with gangLost := [0] } : Hart).gangLost ≠ []) ∧
    (still { user with faults := [0] } = true ∧ ({ user with faults := [0] } : Hart).faults ≠ []) ∧
    (still { user with timeouts := [0] } = true ∧ ({ user with timeouts := [0] } : Hart).timeouts ≠ []) ∧
    still { user with stepDue := true } = true ∧ (still lit = true ∧ lit.evict = none ∧ lit.lampDue = true) := by decide +kernel

/-- An access of the hart in focus is aligned, allowed and reaches plain storage at `loc`, with no mark. -/
def reachable (s : State) (acc : Access) (ea : Word) (n loc : Nat) (marks : Bool := false) : Bool :=
  ea.toNat % n == 0 && (match s.locate s.h.space ea acc with
    | (.ok l, t) => l == loc && !(regionOf loc == .control) && !(regionOf loc == .link)
        && !t.conflict t.h.key (acc == .store) .virt ea.toNat (ea.toNat + n) && marked t.poison loc n == marks
    | _ => false)

theorem reachable_sound {s : State} {acc : Access} {ea : Word} {n loc : Nat} {marks : Bool}
    (h : reachable s acc ea n loc marks = true) : ∃ t, s.Reaches acc ea n loc t ∧ marked t.poison loc n = marks := by
  unfold reachable at h
  rcases hl : s.locate s.h.space ea acc with ⟨e | l, t⟩ <;> rw [hl] at h <;> simp at h
  obtain ⟨ha, ⟨⟨⟨rfl, hc⟩, hk⟩, hf⟩, hm⟩ := h
  exact ⟨t, ⟨ha, hl, ⟨hc, hk⟩, hf⟩, hm⟩

/-- An address reaches a location, or fails with a cause. -/
def finds (s : State) (va : Word) (acc : Access) (loc : Nat) : Bool :=
  match (s.locate s.h.space va acc).1 with | .ok l => l == loc | _ => false
def fails (s : State) (va : Word) (acc : Access) (f : Fail) : Bool :=
  match (s.locate s.h.space va acc).1 with | .error e => e == f | _ => false

theorem finds_sound {s : State} {va : Word} {acc : Access} {loc : Nat} (h : finds s va acc loc = true) :
    ∃ t, s.locate s.h.space va acc = (.ok loc, t) := by
  unfold finds at h
  rcases hl : s.locate s.h.space va acc with ⟨e | l, t⟩ <;> rw [hl] at h <;> simp at h
  exact ⟨t, by rw [h]⟩

theorem fails_sound {s : State} {va : Word} {acc : Access} {f : Fail} (h : fails s va acc f = true) :
    ∃ t, s.locate s.h.space va acc = (.error f, t) := by
  unfold fails at h
  rcases hl : s.locate s.h.space va acc with ⟨e | l, t⟩ <;> rw [hl] at h <;> simp at h
  exact ⟨t, by rw [h]⟩

/-- A page table that maps the first page of the low half to itself, with RD, W, X and U, but for one changed entry. -/
def paged (h : Hart) (place entry : Nat := 0) : State :=
  let m := (((Memory.mk []).writeNat 0x20000 8 0x30001).writeNat 0x30000 8 0x40001).writeNat 0x40000 8 0x50001
  { at_ { h with ptbase := 0x20000 } with mem := (m.writeNat 0x50000 8 0x3F).writeNat place 8 entry }

theorem witness_FencesAndMonitors :
    ((1 : BitVec 2) = 1 ∧ (0 : BitVec 2) ≠ 1 ∧ (hasty user).pushing ⟨7, 1⟩ = true ∧ (at_ user).pushing ⟨7, 1⟩ = false) ∧
    (∃ t, (at_ user).locate (at_ user).h.space 0x10000 .load = (.error (3, 0x10000), t)) ∧ ((at_ boss).h.level ≠ .user ∧ (at_ user).h.level = .user ∧ (at_ { boss with haltReq := true }).h.haltReq = true ∧
      (at_ { boss with haltReq := true }).h.halted = false ∧ (at_ user).h.monitor = none) ∧
    (∃ t, (paged user).locate (paged user).h.space 0x80 .load = (.ok 0x80, t)) ∧
    (regionOf 0x7FFFFFFFFF = .device ∧ regionOf 0xEFFFFFFFFFFFF = .host ∧ regionOf 0xF000000000000 ≠ .device ∧
      regionOf 0xF000000000000 ≠ .host) ∧
    (∃ t, (at_ boss).locate (at_ boss).h.space 0xFFFFFFF000000 .load = (.ok 0xF000000000000, t)) ∧
    ((at_ { user with monitor := some ⟨1, true, false⟩ }).h.monitor = some ⟨1, true, false⟩ ∧
      (at_ { lit with monitor := some ⟨1, false, false⟩ }).h.lamps ≠ []) ∧
    ((at_ boss).routeTiles = [] ∧ (at_ boss).finals = [] ∧ (at_ boss).launches = [] ∧ ∀ h ∈ (at_ boss).harts, h.begun = []) ∧
    ([(⟨2, 0, ⟨7, 1⟩, 0x7100, 7, none⟩ : Final)] ≠ [] ∧ 0x5000 < localBase ∧
      (boss.begin (.launch (launchRec [0, 0, 0, 0, 0x5000]) (some (0x5000, true)))).begun.map (·.doing) =
        [.launch (launchRec [0, 0, 0, 0, 0x5000]) (some (0x5000, true))]) ∧
    (∃ r ∈ ({ at_ boss with routeTiles := [⟨8, 0, 0, 0, ⟨7, 1⟩, .user, 3, 0, 0, false, routeRec [], 0, 0, [(2, 9, true)], false, [], [], [],
      .running, 0, 0⟩] } : State).routeTiles, r.status = .running ∧ ∃ p ∈ r.kept, p = (2, 9, true)) ∧
    ((at_ boss).assay.busy = none ∧ ({ at_ boss with assay := { busy := some ⟨[]⟩ } } : State).assay.busy ≠ none ∧
      ({ at_ boss with assay := { busy := some ⟨[]⟩, held := true } } : State).assay.held = true) := by
  exact ⟨by decide +kernel, fails_sound (by decide +kernel), by decide +kernel, finds_sound (by decide +kernel), by decide +kernel,
    finds_sound (by decide +kernel), by decide +kernel, by decide +kernel, by decide +kernel, ⟨_, List.mem_singleton.mpr rfl, rfl, _, List.mem_singleton.mpr rfl, rfl⟩, by decide +kernel⟩

/-- Aligned plain loads and stores of every size, paged and bare, an empty strip, no mark; a line that the buffer holds. -/
theorem witness_ScalarLoads :
    (∀ n ∈ [1, 2, 4, 8], ∃ t, (paged user).Reaches .load 0xFFF8 n 0xFFF8 t ∧ marked t.poison 0xFFF8 n = false) ∧
    (∀ n ∈ [1, 2, 4, 8], ∃ t, ((paged user).onHart Hart.endStrip).Reaches .load 0xFFF8 n 0xFFF8 t ∧ marked t.poison 0xFFF8 n = false) ∧
    (paged user).h.scalarStrip ∧ (paged user).h.rbuf = [] ∧ (paged user).h.get 0 + (0xFFF8 : BitVec 64) = 0xFFF8 := by
  refine ⟨fun n hn => reachable_sound ?_, fun n hn => reachable_sound ?_, by simp [Hart.scalarStrip, paged, at_, user], by decide +kernel⟩
  · have : ([1, 2, 4, 8].all fun n => reachable (paged user) .load 0xFFF8 n 0xFFF8) = true := by decide +kernel
    exact List.all_eq_true.mp this n hn
  · have : ([1, 2, 4, 8].all fun n => reachable ((paged user).onHart Hart.endStrip) .load 0xFFF8 n 0xFFF8) = true := by decide +kernel
    exact List.all_eq_true.mp this n hn

theorem witness_ScalarStores :
    (∀ n ∈ [1, 2, 4, 8], ∃ t, (paged user).Reaches .store 0xFFF8 n 0xFFF8 t ∧ marked t.poison 0xFFF8 n = false) ∧
    (∀ n ∈ [1, 2, 4, 8], ∃ t, ((at_ bare).onHart Hart.endStrip).Reaches .store 0x7FFFFFFFF8 n 0x7FFFFFFFF8 t ∧
      marked t.poison 0x7FFFFFFFF8 n = false) ∧
    (at_ bare).h.scalarStrip ∧ (at_ bare).assay.en = true ∧ (paged user).canonical = true ∧ (at_ bare).canonical = true := by
  refine ⟨fun n hn => reachable_sound ?_, fun n hn => reachable_sound ?_, by simp [Hart.scalarStrip, at_, bare, user], by decide +kernel⟩
  · have : ([1, 2, 4, 8].all fun n => reachable (paged user) .store 0xFFF8 n 0xFFF8) = true := by decide +kernel
    exact List.all_eq_true.mp this n hn
  · have : ([1, 2, 4, 8].all fun n => reachable ((at_ bare).onHart Hart.endStrip) .store 0x7FFFFFFFF8 n 0x7FFFFFFFF8) = true := by
      decide +kernel
    exact List.all_eq_true.mp this n hn

theorem witness_AtomicResults :
    (∃ t, (at_ { bare with s := bare.s.set 9 0x7FFFFFFFF8 }).Reaches .store 0x7FFFFFFFF8 8 0x7FFFFFFFF8 t ∧
      marked t.poison 0x7FFFFFFFF8 8 = false) ∧
    (∃ t, ((at_ bare).onHart Hart.endStrip).Reaches .store 4 4 4 t ∧ marked t.poison 4 4 = false) ∧
    (at_ { bare with s := bare.s.set 9 0x7FFFFFFFF8 }).canonical = true ∧ (at_ bare).canonical = true ∧
    (at_ bare).h.scalarStrip ∧ ((at_ bare).onHart Hart.endStrip).h.scalarStrip :=
  ⟨reachable_sound (by decide +kernel), reachable_sound (by decide +kernel), by decide +kernel, by decide +kernel, by simp [Hart.scalarStrip, at_, bare, user],
    by simp [Hart.scalarStrip, Hart.endStrip, Hart.closeStrip, Hart.unbind, State.onHart, at_, bare, user]⟩

theorem witness_ScalarAccessFaults_release :
    let s := (at_ user).onHart Hart.endStrip
    let t := ({ at_ bare with poison := [0] } : State).onHart Hart.endStrip
    (at_ user).pushing ⟨7, 1⟩ = false ∧ (∃ u, s.locate user.space 0x10000 .load = (.error (3, 0x10000), u)) ∧
    (∃ u, (s.onHart Hart.settle).locate user.space 0x10000 .store = (.error (4, 0x10000), u)) ∧
    (∃ u, t.Reaches .load 0 8 0 u ∧ marked u.poison 0 8 = true) ∧
    (∃ u, ({ at_ bare with poison := [0] } : State).Reaches .store 0 8 0 u ∧ marked u.poison 0 8 = true) ∧
    (∃ u, (t.onHart Hart.settle).Reaches .store 0 8 0 u ∧ marked u.poison 0 8 = true) :=
  ⟨by decide +kernel, fails_sound (s := (at_ user).onHart Hart.endStrip) (by decide +kernel),
    fails_sound (s := ((at_ user).onHart Hart.endStrip).onHart Hart.settle) (by decide +kernel),
    reachable_sound (by decide +kernel), reachable_sound (by decide +kernel), reachable_sound (by decide +kernel)⟩

theorem witness_ScalarAccessFaults :
    ((at_ bare).h.level = .firmware ∧ (at_ bare).pillars = [] ∧ (at_ bare).h.get 5 = 5 ∧ 5 % memBytes .d ≠ 0 ∧ 5 % memBytes .h ≠ 0 ∧
      (at_ bare).h.rbuf = [] ∧ marked (at_ bare).poison 5 8 = false ∧ (at_ bare).canonical = true) ∧
    (let l : BufLine := ⟨0, List.replicate 128 0, [0]⟩
     ({ at_ bare with h := { bare with rbuf := [l] } } : State).h.rbuf = [l] ∧ l.line = 0 / 128 ∧ marked l.marks 0 8 = true ∧ marked l.marks 8 8 = false) ∧
    (2 ^ 52 ≤ ((at_ user).h.get 6).toNat ∧ ((at_ user).h.get 5).toNat % 4 ≠ 0 ∧ ((at_ user).h.get 5).toNat % 8 ≠ 0) ∧
    (∃ t, (at_ user).locate (at_ user).h.space 0x10000 .load = (.error (3, 0x10000), t)) ∧
    (∃ t, (at_ user).locate (at_ user).h.space 0x10000 .store = (.error (4, 0x10000), t)) ∧
    (∃ t, ({ at_ bare with poison := [0] } : State).Reaches .load 0 8 0 t ∧ marked t.poison 0 8 = true) ∧
    (∃ t, (paged user 0x50000 0xF00002800003F).locate (paged user 0x50000 0xF00002800003F).h.space 0x10 .load =
      (.ok 0xF000028000010, t)) ∧ regionOf 0xF000028000010 = .control :=
  ⟨by decide +kernel, by decide +kernel, by decide +kernel, fails_sound (by decide +kernel), fails_sound (by decide +kernel),
    reachable_sound (by decide +kernel), finds_sound (by decide +kernel), by decide +kernel⟩

/-- The tables of `paged` are pointers at levels 3, 2 and 1, all readable. -/
theorem witness_PageWalk_tables :
    let s := paged user
    (∀ p ∈ [(0x20000, 0x30001), (0x30000, 0x40001), (0x40000, 0x50001)], s.mem.readNat p.1 8 = p.2 ∧ regionOf p.1 = .device ∧
      p.1 / 8 ∉ s.poison ∧ p.2 % 2 = 1 ∧ p.2 / 128 % 32 = 0 ∧ p.2 / 2 ^ 52 = 0 ∧ p.2 / 2 % 2 = 0) ∧
    s.h.ptbase.toNat / 4096 % 2 ^ 40 * 4096 = 0x20000 ∧ 0xFFF8 / 2 ^ 43 % 512 = 0 ∧ 0x50003 / 2 % 2 = 1 := by decide +kernel
/-- Leaves of levels 3, 2 and 1; a leaf that is not aligned, one of level 1 that is refused, a pointer at level 0; a location
that nothing backs, one of a node that no link reaches, and one that a link does. -/
theorem witness_PageWalk_ends :
    finds (paged user 0x20000 0x3F) 0xFFF8 .load 0xFFF8 ∧ finds (paged user 0x30000 0x3F) 0xFFF8 .store 0xFFF8 ∧
    finds (paged user 0x40000 0x3F) 0xFFF8 .fetch 0xFFF8 ∧ fails (paged user 0x40000 0x1003F) 0xFFF8 .load (3, 0xFFF8) ∧
    fails (paged user 0x40000 0x1F) 0xFFF8 .store (4, 0xFFF8) ∧ fails (paged user 0x50000 0x60001) 0xFFF8 .fetch (5, 0xFFF8) ∧
    fails (paged user 0x50000 0x900000003F) 0xFFF8 .load (6, 0xFFF8) ∧ fails (paged user 0x50000 0xF01010000003F) 0xFFF8 .load (6, 0xFFF8) ∧
    finds { paged user 0x50000 0xF01010000003F with links := (paged user).links.set 2 ⟨true, 1, 0⟩ } 0xFFF8 .load 0xF01010000FFF8 ∧
    regionOf 0xF01010000FFF8 = .link ∧ regionOf 0x900000FFF8 = .unbacked := by decide +kernel

/-- A four-level walk to a page of level 0, one to a leaf of level 1, a page that user code may not touch, an entry that is
not valid, a table outside device memory and a poisoned one. -/
theorem witness_PageWalk :
    ((paged user).h.level ≠ .firmware ∧ (paged user).tlb = [] ∧ (0xFFF8 : Word).toNat < localBase) ∧
    finds (paged user) 0xFFF8 .load 0xFFF8 ∧ finds (paged user 0x40000 0x200003F) 0xFFF8 .fetch 0x200FFF8 ∧
    fails (paged user 0x50000 0x1F) 0xFFF8 .store (4, 0xFFF8) ∧ fails (paged user 0x40000 0x50000) 0 .load (3, 0) ∧
    fails (paged user) 0x10000 .fetch (5, 0x10000) ∧
    fails (paged user 0x20000 0x30000) 0xFFF8 .fetch (5, 0xFFF8) ∧
    fails (at_ { user with ptbase := 0x8000000000 }) 0 .load (6, 0) ∧
    fails { paged user with poison := [0x4000] } 0 .load (13, 0) := by decide +kernel

theorem witness_CoreLocalWindow :
    (2 ^ 52 ≤ (0x10000000000000 : Word).toNat) ∧ (0xFFFFFFF000000 ≤ (0xFFFFFFF2FFFFF : Word).toNat ∧ (0xFFFFFFF2FFFFF : Word).toNat < 2 ^ 52) ∧
    ({ user with slot := 8 } : Hart).slot = 8 ∧ (at_ user).h.vpart.toNat / 2 ^ 56 % 256 = 0 ∧ (at_ boss).h.level ≠ .user := by decide +kernel

theorem witness_ScalarFloatResults :
    (at_ user).tanFor true = 0 ∧ enabled (at_ user).h.fcsr (NV ||| DZ ||| OF ||| UF ||| NX) = 0 := by decide +kernel

theorem witness_ScalarFloatTrap :
    let s := at_ { user with fcsr := 0x1F }
    let x := (scalarFmt 1).value ((s.h.get 6).toNat % 2 ^ 32)
    (sumOf false [x, (scalarFmt 1).value 0x7F800001]).2 &&& s.h.fcsr.setWidth 5 ≠ 0 ∧
    (divOf ((scalarFmt 1).value 0x3F800000) ((scalarFmt 1).value 0)).2 &&& s.h.fcsr.setWidth 5 ≠ 0 ∧
    (sqrtOp ((scalarFmt 1).value 0xBF800000)).2 &&& s.h.fcsr.setWidth 5 ≠ 0 ∧
    (minOf x ((scalarFmt 1).value 0x7F800001)).2.1 &&& s.h.fcsr.setWidth 5 ≠ 0 ∧ nvIf true &&& s.h.fcsr.setWidth 5 ≠ 0 ∧
    ((Fmt.float (scalarFmt 1) false).fitVal .rne false 0 false (.num (.ofInt 0x1000001))).flags &&& s.h.fcsr.setWidth 5 ≠ 0 ∧
    (roundInt true 64 .rne 0 ((scalarFmt 1).value 0x7F800000)).flags &&& s.h.fcsr.setWidth 5 ≠ 0 := by decide +kernel

/-! ### Vector states -/

/-- A format word: DF, AF, BF, no scale register (04 R52). -/
def fw (d a b : Nat) : Nat := d + a * 64 + b * 4096 + 31 * 2 ^ 23

/-- A hart with one cluster, windows of 8 bytes a lane, SEW 32 and VL 3; s24 is the format word, s9 an address, m0 all ones
for its elements. -/
def vec (f : Nat) (level : Level := .firmware) : State :=
  let h : Hart := { user with
    level := level
    s := (user.s.set 24 (BitVec.ofNat 64 f)).set 9 0x2000
    vpart := BitVec.ofNat 64 (2048 * 65536 + 8 * 2 ^ 56), vshape := 8, vtype := 0x12, vl := 3
    vw := Vector.ofFn fun i : Fin 28 => BitVec.ofNat 64 (4 * 65536 + 8 * i.val)
    mw := Vector.ofFn fun i : Fin 8 => BitVec.ofNat 64 (65536 + 224 + i.val)
    gw := Vector.ofFn fun i : Fin 16 => BitVec.ofNat 64 (64 * 65536 + 300 + 64 * i.val + 0x15 * 2 ^ 32)
    iw := Vector.ofFn fun i : Fin 16 => BitVec.ofNat 64 (8 * 65536 + 1400 + 16 * i.val) }
  let s := at_ h
  [0, 1, 2].foldl (fun s i => s.mwrite h 0 i 1) s

/-- Writes elements of a register from 0 up. -/
def withV (s : State) (v : Nat) (xs : List Nat) : State :=
  ((List.range 16).zip xs).foldl (fun s p => s.vwrite s.h v 32 false p.1 0 p.2) s
def elems (s : State) (v : Nat) : List Nat := (List.range 4).map fun i => (s.vread s.h v 32 false i 0).val

/-- What stands in the way of an element loop is checked, and so is its end. -/
def loopOk (m : M VBody) (s : State) : Bool :=
  gives m s fun b t => b.block.isNone && !t.h.tailOnes && performs (b.at t.h.maskOnes)
    (fun u => gives b.finish (u.onHart fun h => { h with vstart := 0 })) t.h.start (t.h.length - t.h.start) t

theorem loopOk_sound {m : M VBody} {s : State} (h : loopOk m s = true) :
    ∃ b t u w, Gives m s b t ∧ b.block = none ∧ t.h.tailOnes = false ∧
      Performs (b.at t.h.maskOnes) t.h.start (t.h.length - t.h.start) t u ∧
      Gives b.finish (u.onHart fun h => { h with vstart := 0 }) () w := by
  obtain ⟨b, t, hb, h⟩ := gives_sound h
  simp only [Bool.and_eq_true, Option.isNone_iff_eq_none, Bool.not_eq_true'] at h
  obtain ⟨u, hu, h⟩ := performs_sound _ _ _ h.2
  obtain ⟨_, w, hw, _⟩ := gives_sound h
  exact ⟨b, t, u, w, hb, by simp_all, by simp_all, hu, hw⟩

theorem vec_calm (f : Nat) (l : Level) : (vec f l).Calm :=
  ⟨by simp [vec, at_, State.mwrite, State.laneSetBit, State.laneWrite, State.reset],
    by simp [vec, at_, State.mwrite, State.laneSetBit, State.laneWrite, remark, State.reset], by simp [vec, at_, user, State.mwrite, State.laneSetBit, State.laneWrite],
    fun q hq => by
      have : ∀ q < 4, (vec f l).h.queues[4 * (vec f l).h.queueSet + q]? = some none := by
        intro q hq
        cases l <;> simp [vec, at_, user, State.mwrite, State.laneSetBit, State.laneWrite, Hart.queueSet, Hart.inLamp,
          Vector.getElem?_replicate] <;> omega
      simp [Hart.queue, this q hq]⟩

theorem vec_fits (f : Nat) (l : Level) : (vec f l).h.fits := by
  simp [vec, at_, user, State.mwrite, State.laneSetBit, State.laneWrite, Hart.fits, Hart.partBase, Hart.partLen]

/-- At firmware level an address of device memory is its location, whatever the machine has stored meanwhile. -/
theorem bare_locate (s : State) (h : s.h.level = .firmware) (acc : Access) (va : Word) (hv : va.toNat < 0x8000000000) (u : State) :
    u.locate s.h.space va acc = (.ok va.toNat, u) := by
  have h2 : ¬ localBase ≤ va.toNat := by unfold localBase; omega
  have h3 : regionOf va.toNat = .device := by unfold regionOf; simp [hv]
  simp [State.locate, h2, h3, Hart.space, h, State.checkLink] <;> omega
theorem bare_lies (s : State) (h : s.h.level = .firmware) (acc : Access) (va : Word) (hv : va.toNat < 0x8000000000) :
    s.Lies acc va va.toNat := by
  have h3 : regionOf va.toNat = .device := by unfold regionOf; simp [hv]
  exact ⟨bare_locate s h acc va hv s, by simp [h3], by simp [h3]⟩
theorem bare_liesWhile (s : State) (h : s.h.level = .firmware) (touched : Nat → Prop) (acc : Access) (va : Word)
    (hv : va.toNat < 0x8000000000) : s.LiesWhile touched acc va va.toNat := by
  have h3 : regionOf va.toNat = .device := by unfold regionOf; simp [hv]
  exact ⟨fun u _ _ _ _ => bare_locate s h acc va hv u, by simp [h3], by simp [h3]⟩
theorem vec_plain (f : Nat) (l : Level) : (vec f l).Plain := by
  constructor <;> simp [vec, at_, user, State.mwrite, State.laneSetBit, State.laneWrite, State.reset]

/-! ### Every instruction with an element loop completes -/

def o3 : VOps := ⟨1, 2, 3, false, false, 0, true, 0⟩
def o2 : VOps := ⟨1, 2, 0, false, false, 0, true, 0⟩
def fp : Nat := fw 2 2 2
def int : Nat := fw 13 13 13

/-- Operands and a format word for each row of `laneRows` and `shapeRows`, in order. -/
def laneCases : List (VOps × Nat) :=
  [(o3, fp), (o3, fp), (o3, int), (o3, fp), (o3, int), (o3, fp), (o3, int), (o3, fp), (o3, fp), (o3, fp), (o3, int), (o3, fp),
   (o2, fw 2 2 0), (o2, fw 2 2 0), (o2, fw 2 2 0), (o2, fw 2 2 0), (o2, fw 2 2 0), (o2, fw 2 2 0), (o2, fw 2 2 0), (o2, fw 13 2 0)]
  ++ [(o3, int), (o3, int), (o3, int), (o2, fw 13 13 0), (o3, int), (o3, int), (o3, int), (o2, fw 13 13 0), (o2, fw 13 13 0),
   ({ o3 with vm := false }, fp), (o2, fw 2 2 0), ({ o2 with b := 0 }, fw 13 0 0), (o3, fw 2 13 2), (o2, fw 2 2 0),
   (o3, fw 13 11 11), (o2, fw 13 2 0)]
def shapeCases : List (VOps × Nat) :=
  List.replicate 8 (o3, fw 0 2 2) ++ [({ o3 with form := 1 }, fw 2 13 2), ({ o3 with form := 1 }, fw 2 13 2), (o3, fw 2 13 2),
   ({ o3 with b := 0, vm := false }, fw 2 0 2), (o3, fp)]

theorem witness_lanes : laneCases.length = laneRows.length ∧ shapeCases.length = shapeRows.length ∧
    ((laneRows ++ shapeRows).zip (laneCases ++ shapeCases)).all
      (fun p => (p.1.instr p.2.1).wellFormed && loopOk (p.1.body p.2.1) (vec p.2.2)) = true := by decide +kernel

theorem witness_reductions : reduceRows.all (fun r => gives (dispatch r.2 o3) (vec int)) = true := by decide +kernel

def og : GOps := ⟨1, 2, 3, false, false, 0, false⟩
def geoCases : List (GOps × Nat) :=
  List.replicate 4 (og, 0x15) ++ [(og, 0x15), ({ og with c := 0 }, 0x15), ({ og with c := 0 }, 0x15), ({ og with c := 4 }, 0x15),
   ({ og with c := 0 }, 0x15), (og, 0x15), (og, 0x15), (og, 0x15), ({ og with c := 0 }, 4), (og, 4), (og, 0x15),
   ({ og with c := 0, d := 2 }, 2), ({ og with c := 0 }, 2), ({ og with b := 9, c := 0, d := 2 }, 2), ({ og with b := 9, c := 0 }, 2)]
/-- The vector state with every geometry window of a mask. -/
def geo (mask : Nat) : State := (vec fp).onHart fun h => { h with gw := h.gw.map fun d => (d &&& 0xFFFFFFFF) ||| BitVec.ofNat 64 (mask * 2 ^ 32) }

theorem witness_geometry : geoCases.length = geoRows.length + 2 ∧
    ((geoRows ++ ([⟨.gld, gldBody⟩, ⟨.gst, gstBody⟩] : List (LoopRow GOps))).zip geoCases).all (fun p => loopOk (p.1.body p.2.1) (geo p.2.2)) = true := by
  decide +kernel

def oi : IvOps := ⟨1, 2, 3, false, false, true, false⟩
theorem witness_intervals :
    (intervalRows ++ contractRows ++ boundRows ++ testRows).all (fun r => loopOk (r.body oi) (vec fp)) = true := by decide +kernel

def om : VmOps := ⟨1, 9, 0, false, 0, true, 2⟩
def ox : VmOps := ⟨1, 9, 3, false, 2, true, 2⟩
theorem witness_memory :
    (loadRows.zip [om, { om with eew := 5 }, om]).all (fun p => loopOk (p.1.body p.2) (vec fp)) = true ∧
    (storeRows.zip ([om, om, { om with eew := 5 }, om] ++ List.replicate 15 ox)).all (fun p => loopOk (p.1.body p.2) (vec fp)) = true ∧
    loopOk (scatterBody false 1 ox) ((vec fp).onHart fun h => { h with hctl := 1 }) = true ∧
    ((vec fp).onHart fun h => { h with hctl := 1 }).h.det = true ∧ om.a.toNat < 28 := by decide +kernel
/-- A hash table of two places whose probe limit is 1 (09 R192). -/
theorem witness_vbin : loopOk (vbinBody 1 9 3) { vec fp with mem := ((Memory.mk []).writeNat 0x2000 8 0x3000).writeNat 0x2008 8 0x101 |>.writeNat 0x2010 4 2 } = true := by
  decide +kernel

/-- The hypotheses of ElementLoopsComplete, met by each of its instructions. -/
theorem witness_ElementLoopsComplete :
    ∀ p ∈ (laneRows ++ shapeRows).zip (laneCases ++ shapeCases), ∃ b t u w, Gives (p.1.body p.2.1) (vec p.2.2) b t ∧
      b.block = none ∧ t.h.tailOnes = false ∧ Performs (b.at t.h.maskOnes) t.h.start (t.h.length - t.h.start) t u ∧
      Gives b.finish (u.onHart fun h => { h with vstart := 0 }) () w := fun p hp =>
  loopOk_sound (by have := List.all_eq_true.mp witness_lanes.2.2 p hp; simp_all)

/-! ### Further hypotheses, vector and matrix part -/

theorem witness_LengthShapeWindows :
    let h := (vec fp).h
    (illFormed h 0x12 = false ∧ illFormed h 0x1FF = true ∧ illFormed h 0x15 = true ∧ illFormed h 0x200 = true) ∧
    (27 : BitVec 5).toNat < 28 := by decide +kernel

theorem witness_VectorDispatchTraps :
    ((vec fp).onHart fun h => { h with vtype := 0x8000000000000012 }).h.vtype.getLsbD 63 = true ∧
    ((vec fp).onHart fun h => { h with vl := 17 }).h.vlmax < 17 ∧ ((vec fp).onHart fun h => { h with vstart := 4 }).h.vl.toNat < 4 ∧
    ((vec fp).h.vtype.getLsbD 63 = false ∧ (vec fp).h.vl.toNat ≤ (vec fp).h.vlmax ∧ (vec fp).h.vstart.toNat = 0) ∧
    (∀ r ∈ (laneRows ++ shapeRows).map (fun r => (r.instr, r.spec)) ++ reduceRows, r.2.sewOk 0x12 = true) ∧
    badFormat (formatWord 0x70000000) {} false = true ∧ arith.accept (formatWord (BitVec.ofNat 64 (fw 2 13 2))) = false := by decide +kernel

theorem witness_VectorMouldFrame :
    (vec fp).Calm ∧ (vec fp).h.fits ∧ (vec fp).canonical = true ∧ (∃ b t, Gives (vaddBody o3) (vec fp) b t) ∧
    ((vec int).Calm ∧ (vec int).h.fits ∧ (vec int).canonical = true ∧ ∃ b t, Gives (vandBody o3) (vec int) b t) ∧
    ((vec (fw 0 2 2)).Calm ∧ (vec (fw 0 2 2)).canonical = true ∧ ∃ b t, Gives (vcmpLtBody o3) (vec (fw 0 2 2)) b t) := by
  have run {m : M VBody} {s : State} (h : gives m s = true) : ∃ b t, Gives m s b t :=
    let ⟨b, t, h, _⟩ := gives_sound h; ⟨b, t, h⟩
  exact ⟨vec_calm _ _, vec_fits _ _, by decide +kernel, run (by decide +kernel),
    ⟨vec_calm _ _, vec_fits _ _, by decide +kernel, run (by decide +kernel)⟩, vec_calm _ _, by decide +kernel, run (by decide +kernel)⟩

theorem witness_VectorArithmeticResults :
    (vec int).Calm ∧ (vec int).h.fits ∧ (vec int).canonical = true ∧ (∃ cx t, Gives (dispatch arithStoch o3) (vec int) cx t ∧ true = true) ∧
    (∃ cx t, Gives (dispatch arith o3) (vec int) cx t ∧ true = true) ∧ o3.form = 0 ∧ (vec int).tanFor true = 0 ∧ (vec int).h.group = 1 ∧
    (let f := formatWord ((vec int).h.formatReg o3.n)
     fmtOf f.df = .int true 32 false ∧ fmtOf f.af = .int true 32 false ∧ fmtOf f.bf = .int true 32 false ∧ f.sat = false) :=
  ⟨vec_calm _ _, vec_fits _ _, by decide +kernel, gives_sound (by decide +kernel), gives_sound (by decide +kernel), by decide +kernel⟩
/-- The same of the floating-point ones: FP32 in all three places, or FP16 sources in windows that the destination does not meet. -/
theorem witness_VectorArithmeticResults_float :
    (∀ f ∈ [fp, fw 2 3 3], (vec f).Calm ∧ (vec f).h.fits) ∧
    (∀ f ∈ [fp, fw 2 3 3], (vec f).canonical = true ∧ (vec f).tanFor true = 0 ∧ (vec f).h.group = 1 ∧
      (∀ p ∈ [arithStoch, arith, accumulating], gives (dispatch p o3) (vec f) = true) ∧
      (∃ fd, fmtOf (formatWord ((vec f).h.formatReg o3.n)).df = .float fd false) ∧
      (∃ fa, fmtOf (formatWord ((vec f).h.formatReg o3.n)).af = .float fa false)) ∧
    (∀ v ∈ [2, 3], ((vec fp).h.vwin 1).overlaps ((vec fp).h.vwin v) = false) ∧ ((vec fp).h.vwin 1).overlaps ((vec fp).h.vwin 1) = true :=
  ⟨fun f _ => ⟨vec_calm _ _, vec_fits _ _⟩, by
    intro f hf
    rcases List.mem_cons.mp hf with rfl | hf
    · exact ⟨by decide +kernel, by decide +kernel, by decide +kernel, by decide +kernel, ⟨_, rfl⟩, ⟨_, rfl⟩⟩
    · rcases List.mem_singleton.mp hf with rfl
      exact ⟨by decide +kernel, by decide +kernel, by decide +kernel, by decide +kernel, ⟨_, rfl⟩, ⟨_, rfl⟩⟩, by decide +kernel, by decide +kernel⟩

theorem witness_MaskResults :
    (vec fp).regPoison = [] ∧ (vec fp).h.fits ∧ (vec fp).canonical = true ∧
    Gives (maskDispatch (some 3) [1, 2]) (vec fp) (vec fp).h (vec fp) ∧ Gives (maskDispatch (some 7) []) (vec fp) (vec fp).h (vec fp) ∧
    Gives (maskDispatch (some 1) [1]) (vec fp) (vec fp).h (vec fp) ∧ Gives (maskDispatch none [0]) (vec fp) (vec fp).h (vec fp) :=
  ⟨by decide +kernel, vec_fits _ _, by decide +kernel, rfl, rfl, rfl, rfl⟩

theorem witness_ElementMoves :
    (vec (fw 0 13 2)).Calm ∧ (vec (fw 0 13 2)).h.fits ∧
    (∃ p t, Gives (vextrReady ⟨1, 5, 3, false, false, 1, true, 0⟩) (vec (fw 0 13 2)) p t ∧ true = true) ∧
    (∃ cx t, Gives (vinsReady ⟨1, 5, 6, false, false, 1, true, 0⟩) (vec (fw 2 2 13)) cx t ∧ true = true) ∧
    (∃ p t, Gives (tangentReady ⟨1, 1, 3, false, false, 2, true, 0⟩ true) (vec (fw 2 13 2)) p t ∧ true = true) ∧
    (∃ p t, Gives (tangentReady ⟨1, 1, 3, false, false, 2, true, 0⟩ false) (vec (fw 2 13 2)) p t ∧ true = true) ∧
    (∃ cx t, Gives (vtzeroReady ⟨1, 0, 0, false, false, 0, true, 0⟩) (vec (fw 2 0 0)) cx t ∧ true = true) ∧
    (vec (fw 2 13 2)).tanPrefix = none ∧ (vec (fw 2 2 13)).tanFor true = 0 ∧
    (∀ f ∈ [fw 0 13 2, fw 2 2 13, fw 2 13 2, fw 2 0 0], (vec f).canonical = true) :=
  ⟨vec_calm _ _, vec_fits _ _, gives_sound (by decide +kernel), gives_sound (by decide +kernel), gives_sound (by decide +kernel),
    gives_sound (by decide +kernel), gives_sound (by decide +kernel), by decide +kernel⟩

/-- Windows v1 and v3 of the vector hart hold different bytes, and m0's are others. -/
theorem witness_ElementMoves_apart : ∀ loc, (vec (fw 2 13 2)).h.inTangents [(vec (fw 2 13 2)).h.vwin 1] 0 1 loc →
    ¬ (vec (fw 2 13 2)).h.inTangents [(vec (fw 2 13 2)).h.vwin 3] 0 1 loc ∧ ¬ (vec (fw 2 13 2)).h.inTangents [(vec (fw 2 13 2)).h.mwin 0] 0 1 loc := by
  have h1 : ((vec (fw 2 13 2)).h.firstByte ((vec (fw 2 13 2)).h.vwin 1), ((vec (fw 2 13 2)).h.vwin 1).bytes) = (16, 8) := by decide +kernel
  have h3 : ((vec (fw 2 13 2)).h.firstByte ((vec (fw 2 13 2)).h.vwin 3), ((vec (fw 2 13 2)).h.vwin 3).bytes) = (48, 8) := by decide +kernel
  have h0 : ((vec (fw 2 13 2)).h.firstByte ((vec (fw 2 13 2)).h.mwin 0), ((vec (fw 2 13 2)).h.mwin 0).bytes) = (448, 2) := by decide +kernel
  intro loc h
  simp only [Prod.mk.injEq] at h1 h3 h0
  simp only [Hart.inTangents, List.mem_singleton, exists_eq_left, h1, h3, h0, regLoc] at h ⊢
  refine ⟨?_, ?_⟩ <;> rintro ⟨lane', off', h'⟩ <;> obtain ⟨lane, off, h⟩ := h <;> omega

theorem witness_ReductionsComplete :
    (vec int).Calm ∧ (vec int).h.fits ∧ (∃ cx t, Gives (dispatch reduceSpec o3) (vec int) cx t ∧ true = true) ∧
    (∃ cx t, Gives (dispatch pickSpec o3) (vec int) cx t ∧ true = true) ∧ (vec int).canonical = true ∧
    ((vec int).onHart fun h => { h with vl := 0 }).h.length = 0 ∧ (vec int).tanFor true = 0 :=
  ⟨vec_calm _ _, vec_fits _ _, gives_sound (by decide +kernel), gives_sound (by decide +kernel), by decide +kernel, by decide +kernel⟩

theorem witness_IntegerSums :
    (vec int).Calm ∧ (vec int).h.fits ∧ (∃ cx t, Gives (dispatch reduceSpec o3) (vec int) cx t ∧ true = true) ∧
    (vec int).tanFor true = 0 ∧ 0 < (vec int).h.length ∧ (vec int).canonical = true ∧
    (let f := formatWord ((vec int).h.formatReg o3.n)
     fmtOf f.df = .int true 32 false ∧ fmtOf f.af = .int true 32 false ∧ fmtOf f.bf = .int true 32 false ∧ f.sat = false) :=
  ⟨vec_calm _ _, vec_fits _ _, gives_sound (by decide +kernel), by decide +kernel⟩

/-- The tail rule applies: TP is 1. -/
theorem witness_tail :
    gives (vaddBody o3) ((vec fp).onHart fun h => { h with vtype := 0x92 }) (fun b t => b.block.isNone && t.h.tailOnes &&
      gives (b.tailFrom t.h.length) t fun n u => performs b.fill (fun _ => true) n (t.h.vlmax - n) u) = true := by decide +kernel

/-- An instruction that stops behind its first element. -/
theorem witness_part : gives (vaddBody o3) { vec fp with part := some 0 } (fun b t => b.block.isNone && t.part == some 0 &&
    decide (0 + 1 < t.h.length - t.h.start) && performs (b.at t.h.maskOnes) (fun _ => true) t.h.start (t.h.length - t.h.start) t) = true := by
  decide +kernel

/-- VLD in the three modes, VLDM, ILD, GLD and VFILL are dispatched; every address lies below 2^39 at firmware level, so the hart
reaches it without a walk (`bare_lies`). -/
theorem witness_VectorLoadResults :
    let s := vec fp
    s.Calm ∧ s.h.fits ∧ s.Plain ∧ s.h.level = .firmware ∧ s.canonical = true ∧ om.a.toNat < 28 ∧ s.h.group = 1 ∧ s.tanFor true = 0 ∧
    (∃ p t, Gives (memDispatch om .dest plainEew) s p t ∧ (!p.bits) = true) ∧
    (∃ p t, Gives (memDispatch { om with mode := 1, c := 5 } .dest plainEew) s p t ∧ (!p.bits) = true) ∧
    (∃ p t, Gives (memDispatch ox .dest plainEew) s p t ∧ (!p.bits) = true) ∧
    (∃ b t, Gives (vldmBody { om with eew := 5 }) s b t ∧ true = true) ∧ (∃ b t, Gives (ildBody om) s b t ∧ true = true) ∧
    (∃ b t, Gives (gldBody { og with b := 9, c := 0, d := 2 }) s b t ∧ true = true) ∧
    (∃ p t, Gives (spillDispatch { om with eew := 0 } true) s p t ∧ true = true) ∧
    ((s.h.get 9 + BitVec.ofNat 64 8 : Word) = 0x2008 ∧ (0x2008 : Word).toNat % 8 = 0 ∧ (0x2008 : Word).toNat < 0x8000000000) :=
  ⟨vec_calm _ _, vec_fits _ _, vec_plain _ _, by decide +kernel, by decide +kernel, by decide +kernel, by decide +kernel, by decide +kernel,
    gives_sound (by decide +kernel), gives_sound (by decide +kernel), gives_sound (by decide +kernel), gives_sound (by decide +kernel),
    gives_sound (by decide +kernel), gives_sound (by decide +kernel), gives_sound (by decide +kernel), by decide +kernel⟩

/-- The same of the stores, and of a VSRED and a VSREDO; their addresses are 0x2000 and those behind it (`bare_liesWhile`). -/
theorem witness_VectorStoreResults :
    let s := vec fp
    s.Calm ∧ s.Plain ∧ s.h.level = .firmware ∧ s.canonical = true ∧
    (∃ p t, Gives (memDispatch om .source plainEew) s p t ∧ (!p.bits) = true) ∧
    (∃ p t, Gives (memDispatch ox .source plainEew) s p t ∧ (!p.bits) = true) ∧
    (∃ b t, Gives (vstmBody { om with eew := 5 }) s b t ∧ true = true) ∧ (∃ b t, Gives (istBody om) s b t ∧ true = true) ∧
    (∃ b t, Gives (gstBody { og with b := 9, c := 0 }) s b t ∧ true = true) ∧
    (∃ p t, Gives (spillDispatch { om with eew := 0 } false) s p t ∧ true = true) ∧
    (∃ p t, Gives (memDispatch ox .source (reduceEew 0) false) s p t ∧ true = true) ∧
    (∃ p t, Gives (memDispatch ox .source (reduceEew 1) false) s p t ∧ true = true) ∧ s.h.det = false ∧
    (∀ k < 3, ∀ j < 3, j ≠ k → 0x2000 + 4 * j + 4 ≤ 0x2000 + 4 * k ∨ 0x2000 + 4 * k + 4 ≤ 0x2000 + 4 * j) :=
  ⟨vec_calm _ _, vec_plain _ _, by decide +kernel, by decide +kernel, gives_sound (by decide +kernel), gives_sound (by decide +kernel),
    gives_sound (by decide +kernel), gives_sound (by decide +kernel), gives_sound (by decide +kernel), gives_sound (by decide +kernel),
    gives_sound (by decide +kernel), gives_sound (by decide +kernel), by decide +kernel, by omega⟩

/-- A VBIN of one element at firmware level, whose table of two places stands behind its record: the key 5 finds a free, a stale, an
equal or another cell, by the mark and the key of both cells. -/
def binning (key mark live : Nat) : State :=
  let m := ((Memory.mk []).writeNat 0x2000 8 0x3000).writeNat 0x2008 8 (0x1010201 + 3 * 2 ^ 32) |>.writeNat 0x2010 8 (2 + live * 2 ^ 32)
  let m := [0x3000, 0x3010].foldl (fun m a => (m.writeNat a 4 key).writeNat (a + 8) 8 mark) m
  withV ((({ vec fp with mem := m } : State)).onHart fun h => { h with vl := 1 }) 3 [5]
theorem witness_VBIN_one :
    (∀ p ∈ [(0, 0, 0), (0, 0, 2), (6, 130, 0), (5, 131, 0), (6, 131, 0)], let s := binning p.1 p.2.1 p.2.2
      gives (vbinBody 1 9 3) s = true ∧ s.canonical = true ∧ s.h.length = s.h.start + 1 ∧ s.h.level = .firmware ∧ (s.h.get 9).toNat + 64 ≤ 2 ^ 39 ∧
      s.mem.readNat 0x2000 8 = 0x3000 ∧ s.mem.readNat 0x2008 1 = 1 ∧ s.mem.readNat 0x2009 1 = 2 ∧ s.mem.readNat 0x200B 1 = 1 ∧
      s.mem.readNat 0x200C 1 = 3 ∧ (s.vread s.h 3 32 false 0 0).val = 5 ∧ s.mem.readNat 0x3008 1 = p.2.1) ∧
    (0 < 128 ∧ (3 + 16 - 130 % 16) % 16 = 1 ∧ (3 + 16 - 131 % 16) % 16 = 0) := by decide +kernel

/-- VLDFF whose elements all succeed, and one whose second element meets the end of device memory. -/
theorem witness_vldff :
    (om.a.toNat < 28 ∧ om.vm = true ∧ (vec fp).h.start < (vec fp).h.length ∧ (vec fp).h.tailOnes = false) ∧
    loopOk (loadBody om fffEew) (vec fp) = true ∧
    gives (loadBody om fffEew) ((vec fp).onHart fun h => { h with s := h.s.set 9 0x7FFFFFFFFC }) (fun b t =>
      performs (b.at t.h.maskOnes) (fun u =>
        match (b.elem 1).run.run (u.onHart fun h => { h with vstart := 1 }) with
        | (.error (.trap c _), w) => c != 2 && gives b.finish (w.onHart fun h => { h with vl := 1, vstart := 0 })
        | _ => false) 0 1 t) = true := by decide +kernel

/-- A load that names q1; a spill and a fill of one register; a VSRED of FADD without DET. -/
theorem witness_OtherVectorMemory :
    28 ≤ ({ om with a := 29 } : VmOps).a.toNat ∧
    gives (memDispatch { om with a := 29 } .none plainEew) (vec fp) (fun p t =>
      gives (p.queueElems p.h.start (p.h.length - p.h.start)) (t.onHart fun h => { h with vstart := 0 }) fun es u =>
        es.length == 3 && gives (p.finish false) u) = true ∧
    (vec fp).part = none ∧
    gives (spillDispatch { om with eew := 0 } false) (vec fp) (fun p t =>
      performs (fun q => do setStart q; spillByte p q) (fun _ => true) p.h.start (p.total - p.h.start) t) = true ∧
    gives (spillDispatch { om with eew := 0 } true) (vec fp) (fun p t =>
      performs (fun q => do setStart q; fillByte p q) (fun _ => true) p.h.start (p.total - p.h.start) t) = true ∧
    (vec fp).h.det = false ∧ (vec fp).canonical = true := by decide +kernel
theorem witness_vsred_fadd :
    gives (memDispatch ox .source (reduceEew 1) false) ((vec fp).onHart fun h => { h with vl := 1 }) (fun p t =>
      gives (p.gather [] p.h.start (p.h.length - p.h.start)) t fun xs u => xs.2.isNone &&
        gives (p.applyAny 1 xs.1 (xs.1.map (·.loc)).eraseDups) u fun _ v => gives (p.finish true) (v.onHart fun h => { h with vstart := 0 })) = true := by decide +kernel

theorem witness_GeometryAndIntervalComplete :
    (vec fp).Calm ∧ (vec fp).h.fits ∧ (vec fp).canonical = true ∧ (∃ b t, Gives (iaddBody oi) (vec fp) b t ∧ true = true) ∧
    (∃ b t, Gives (imidBody oi) (vec fp) b t ∧ true = true) ∧ (∃ b t, Gives (bilinear .geometric og) (vec fp) b t ∧ true = true) ∧
    ((vec fp).h.vwin 1).base + (0 + 1) * ((vec fp).h.vwin 1).len ≤ (vec fp).h.partLen :=
  ⟨vec_calm _ _, vec_fits _ _, by decide +kernel, gives_sound (by decide +kernel), gives_sound (by decide +kernel), gives_sound (by decide +kernel),
    by decide +kernel⟩

theorem witness_IntervalInclusion : ∃ a b c d m n : Int, a ≤ m ∧ m ≤ b ∧ c ≤ n ∧ n ≤ d ∧ m = n ∧ a < 0 ∧ 0 < b :=
  ⟨-2, 3, 3, 3, 3, 3, by decide⟩

/-! ### The matrix engine -/

/-- The vector hart holds its core's matrix state; its format word. -/
def mx (f : Nat) : State := { vec f with matrices := [⟨0, some ⟨7, 1⟩, 3, 2⟩] }
/-- Another hart of the same core holds it. -/
def held (frozen : Bool) (h : Hart := user) : State :=
  { at_ h with matrices := [⟨0, some ⟨9, 0⟩, 64, 64⟩], others := [{ user with key := ⟨9, 0⟩, frozen := frozen }] }

theorem witness_MatrixOwnership :
    (at_ user).h.live = true ∧ ((at_ user).h.get 0).getLsbD 0 = false ∧ ((at_ user).matrix 0).holder = none ∧
    (∀ h ∈ (at_ user).others, h.stop = 0 → h.claimAt = none) ∧ ((mx 0).matrix 0).holder = some (mx 0).h.key ∧
    ((held false).matrix 0).holder = some ⟨9, 0⟩ ∧ (⟨9, 0⟩ : HKey) ≠ (held false).h.key ∧
    ((held true boss).h.level ≠ .user ∧ ((held true boss).h.get 5).getLsbD 0 = true) ∧ (held true { user with slot := 8 }).h.slot = 8 ∧
    (∀ p ∈ (mx 0).pillars, p.owner ≠ (mx 0).h.key) ∧ (at_ user).canonical = true ∧ user.claimAt = none ∧
    (∀ n ∈ [0, 1], ({ user with claimAt := some n } : Hart).claimAt = some n) := by decide +kernel
theorem witness_MatrixOwnership_harts :
    (held false).hartOf? ⟨9, 0⟩ = some { user with key := ⟨9, 0⟩ } ∧ (held true).hartOf? ⟨9, 0⟩ = some { user with key := ⟨9, 0⟩, frozen := true } ∧
    (at_ { user with claimAt := some 0 }).firstClaimant 0 = some { user with claimAt := some 0 } := ⟨rfl, rfl, rfl⟩

def os : SliceOps := ⟨2, 6, 3, false, true, 0⟩
theorem witness_slices :
    (∀ f ∈ [fw 2 2 0, fw 2 0 2, fw 3 2 0], (mx f).canonical = true) ∧ (mx (fw 2 2 0)).extentsOk = true ∧ gives (sliceReadReady os) (mx (fw 2 2 0)) = true ∧ gives (sliceWriteReady os) (mx (fw 2 0 2)) = true ∧
    gives (mcvtReady ⟨2, 6, 0, 3, true⟩) (mx (fw 3 2 0)) = true ∧
    (∀ w ∈ ((mx (fw 2 2 0)).h.groupRegs 3).map (mx (fw 2 2 0)).h.vwin, w.base + (0 + 1) * w.len ≤ (mx (fw 2 2 0)).h.partLen) := by
  decide +kernel
theorem calm_matrices (s : State) (ms : List Matrix) (h : s.Calm) : ({ s with matrices := ms } : State).Calm := ⟨h.whole, h.clean, h.masked, h.loose⟩
theorem mx_calm (f : Nat) : (mx f).Calm := calm_matrices _ _ (vec_calm f .firmware)

def oo : OpOps := ⟨5, 0, 0, 2, 3, false, false, true, 0⟩
theorem witness_OuterProductResults :
    gives (outerReady false oo) (mx fp) = true ∧ gives (outerReady false oo) (mx (fw 13 11 11)) = true ∧
    gives (outerReady true { oo with pb := 4, pc := 5 }) (mx (fw 2 5 5)) = true ∧
    (formatWord (BitVec.ofNat 64 (fw 13 11 11))).df = 13 ∧ (mx fp).extentsOk = true ∧
    (∀ f ∈ [fp, fw 13 11 11, fw 2 5 5], (mx f).canonical = true) := by decide +kernel

def ot : TileOps := ⟨4, 0, 9, 0, false, true⟩
/-- A transfer without an element; one that goes on with its entry; a conflict with its entry; a full table; a stop after a row. -/
theorem witness_TileTransfers_entries :
    let s := mx (fw 2 2 0)
    let empty := s.onHart fun h => { h with vstart := 64 }
    gives (transferReady true false ot) empty (fun p _ => p.hull.isNone && decide (p.rows ≤ 64)) = true ∧ empty.h.doing = none ∧
    gives (transferReady true false ot) (s.onHart (·.begin (.entry 5))) (fun p t => p.hull.isSome && t.h.doing == some (.entry 5)) = true ∧
    gives (transferReady true false ot) { s with pillars := [⟨9, 0, s.h.key, true, .virt, 0x2000, 0x2004, [], false⟩] } (fun p t =>
      match p.hull with | some (lo, hi) => t.conflict t.h.key false .virt lo hi | none => false) = true ∧
    64 ≤ ({ s with pillars := List.replicate 64 ⟨9, 0, s.h.key, false, .virt, 0, 0, [], false⟩ } : State).pillarsOf 0 ∧
    (let t : State := { s with part := some 0 }
     gives (transferReady true false ot) t (fun p u => decide (0 + 1 < p.rows - u.h.start) &&
       performs (fun i => do setStart i; transferRow true false ot p i) (fun _ => true) u.h.start 1 u) = true) ∧
    gives (transferReady true false ot) s (fun p u => p.hull.isSome && u.nextId == s.nextId && u.pillars.isEmpty) = true := by
  decide +kernel
theorem witness_TileTransfers :
    let whole (load across : Bool) (o : TileOps) (s : State) : Bool := gives (transferReady load across o) s fun p t =>
      performs (fun i => do setStart i; transferRow load across o p i) (fun _ => true) p.h.start (p.rows - p.h.start) t
    (mx (fw 2 2 0)).part = none ∧ (mx (fw 2 2 0)).others = [] ∧ whole true false ot (mx (fw 2 2 0)) = true ∧ whole true true ot (mx (fw 2 2 0)) = true ∧
    whole false false ot (mx (fw 2 2 0)) = true ∧ whole false true ot (mx (fw 2 2 0)) = true ∧ (mx (fw 2 2 0)).pillarsOf 0 ≤ 63 ∧
    (mx (fw 2 2 0)).canonical = true ∧ (mx (fw 2 2 0)).h.strip = [] ∧ (mx (fw 2 2 0)).poison = [] ∧ (mx (fw 2 2 0)).regPoison = [] ∧
    finds (mx (fw 2 2 0)) (0x2000 + 2 * 256 + 4) .load 0x2204 ∧ finds (mx (fw 2 2 0)) (0x2000 + 2 * 256 + 4) .store 0x2204 := by
  decide +kernel

/-! ### Vector instructions, one step -/

-- 10 R202, R203: wrap, and under SAT clamping; the exact numbers are those of the operands.
def two : State := withV (withV (vec int) 2 [0x7FFFFFFF, 5, 0xFFFFFFFF]) 3 [1, 3, 2]
theorem test_vadd_wraps : next (exec (.vadd o3) two) (fun t => elems t 1 == [0x80000000, 8, 1, 0]) = true := by decide +kernel
theorem test_vadd_sat : next (exec (.vadd o3) (two.onHart fun h => { h with s := h.s.set 24 (BitVec.ofNat 64 (int + 2 ^ 21)) }))
    (fun t => elems t 1 == [0x7FFFFFFF, 8, 1, 0]) = true := by decide +kernel
theorem test_vsub_order : next (exec (.vsub o3) two) (fun t => elems t 1 == [0x7FFFFFFE, 2, 0xFFFFFFFD, 0]) = true := by decide +kernel
theorem test_vrsub_order : next (exec (.vrsub o3) two) (fun t => elems t 1 == [0x80000002, 0xFFFFFFFE, 3, 0]) = true := by decide +kernel
-- 10 R205: c is shifted by b.
theorem test_vshl : next (exec (.vshl o3) two) (fun t => elems t 1 == [0x80000000, 0x60, 0, 0]) = true := by decide +kernel
theorem test_vcmp : next (exec (.vcmpLt o3) (two.onHart fun h => { h with s := h.s.set 24 (BitVec.ofNat 64 (fw 0 13 13)) }))
    (fun t => (List.range 3).map (fun i => (t.mread t.h 1 i).val) == [0, 0, 1]) = true := by decide +kernel
theorem test_mpopc : next (exec (.mpopc 1 0) two) (fun t => t.h.get 1 == 3) = true := by decide +kernel
theorem test_mfirst_none : next (exec (.mfirst 1 1) two) (fun t => t.h.get 1 == 0xFFFFFFFFFFFFFFFF) = true := by decide +kernel
theorem test_vrsum : next (exec (.vrsum o3) two) (fun t => elems t 1 == [0x80000005, 0, 0, 0]) = true := by decide +kernel
theorem test_vidx : next (exec (.vidx ⟨1, 0, 0, false, false, 0, true, 0⟩) (vec (fw 13 0 0))) (fun t => elems t 1 == [0, 1, 2, 0]) = true := by
  decide +kernel
theorem test_vslup : next (exec (.vslup ⟨1, 1, 3, false, false, 2, true, 0⟩) (two.onHart fun h => { h with s := h.s.set 24 (BitVec.ofNat 64 int) }))
    (fun t => elems t 1 == [0, 1, 3, 0]) = true := by decide +kernel
theorem test_vsetvl : next (exec (.vsetvli 1 7 0x12) (vec fp)) (fun t => t.h.vl == 16 && t.h.get 1 == 16 && t.h.vtype == 0x12) = true := by
  decide +kernel
theorem test_vst : next (exec (.vst om) (withV (vec fp) 1 [0x11223344, 5]))
    (fun t => t.mem.readNat 0x2000 8 == 0x511223344 && t.h.vstart == 0) = true := by decide +kernel
theorem test_vld_index : next (exec (.vld { ox with eew := 2 }) (withV { vec fp with mem := (Memory.mk []).writeNat 0x2008 4 77 } 3 [8, 0, 8]))
    (fun t => elems t 1 == [77, 0, 77, 0]) = true := by decide +kernel
-- 03 R34, 09 R183: q1 in a load of a mask register names no queue.
theorem test_vldm_queue : next (exec (.vldm { om with a := 29, eew := 5 }) (vec fp)) (fun t => t.h.trapcause.toNat % 512 == 9) = true := by decide +kernel
-- 15 R260: e1 e2 = e12, of index 8 (15 R259).
theorem test_blades : bladeMul 2 3 = some (false, 8) ∧ bladeMul 3 2 = some (true, 8) ∧ bladeMul 1 1 = none := by decide
-- 13 R243: one element of an outer product of integers.
theorem test_opadd : next (exec (.opadd oo) (withV (withV (mx (fw 13 11 11)) 2 [3]) 3 [0xFE]))
    (fun t => t.tileRead 0 5 0 0 == 0xFFFFFFFA && t.h.pc == 0x10008) = true := by decide +kernel

/-! ### Pushes, lane blocks, TAN -/

/-- A hart of the next core, whose v10 is empty. -/
def target (empty : Bool) : Hart :=
  { (vec fp).h with key := ⟨9, 0⟩, stop := 1, slot := 3, full := if empty then ~~~0x400 else BitVec.allOnes 28 }
/-- The vector hart, with a descriptor of v10 of that hart in s13. -/
def pushing (empty : Bool) (node : Nat) : State :=
  let s := vec fp
  { s with
    h := { s.h with s := s.h.s.set 13 (BitVec.ofNat 64 (node * 2 ^ 32 + 1 * 2 ^ 24 + 3 * 2 ^ 16 + 10 * 2 ^ 8 + 1)) }
    others := [target empty], links := s.links.set 2 ⟨true, 5, 0⟩ }
def sent : Push := ⟨4, 0, ⟨7, 1⟩, 0, 1, [(16, 8)], 0, some ⟨9, 0⟩, 10, 1⟩

theorem witness_PushesBetweenHarts_issue :
    let s := pushing true 0
    ((s.h.get 13).toNat = 0 * 2 ^ 32 + 0 * 2 ^ 30 + 1 * 2 ^ 24 + 3 * 2 ^ 16 + 10 * 2 ^ 8 + 1 ∧ 6 + s.h.group ≤ 28) ∧
    (∀ k, k < s.h.group → (s.h.vwin (6 + k)).base + (s.h.vwin (6 + k)).len ≤ s.h.partLen ∧ s.h.full.getLsbD (6 + k) = true) ∧
    s.inSlot (0 * 40 + 1) 3 = some (target true) ∧ (∀ k, k < 1 → (target true).full.getLsbD (10 + k) = false) ∧
    s.reserved (target true).key 10 1 = false ∧ s.pillarsOf s.h.stop ≤ 63 ∧ (target false).full.getLsbD 10 = true ∧
    (pushing false 0).inSlot 1 3 = some (target false) ∧ (pushing true 5).reaches 5 = true ∧
    ((pushing true 5).h.get 13).toNat = 5 * 2 ^ 32 + 1 * 2 ^ 24 + 3 * 2 ^ 16 + 10 * 2 ^ 8 + 1 ∧
    ((s.onHart (·.begin (.entry 4))).h.doing = some (.entry 4) ∧ s.h.doing = none) ∧ (∀ h ∈ s.others, h.stop = s.h.stop → h.pillarAt = none) ∧
    64 ≤ ({ s with pillars := List.replicate 64 ⟨0, 0, ⟨7, 1⟩, false, .virt, 0, 0, [], false⟩ } : State).pillarsOf 0 ∧
    (s.inboundDest ⟨5, s.h.get 13, [(1, false)]⟩).isSome = true ∧ s.outside = none ∧
    ({ s with outside := some (.push ⟨5, s.h.get 13, [(1, false)]⟩) } : State).outside = some (.push ⟨5, s.h.get 13, [(1, false)]⟩) ∧
    (({ s with outside := some (.push ⟨5, s.h.get 13, [(1, false)]⟩) } : State).inboundDest ⟨5, s.h.get 13, [(1, false)]⟩).isSome = true ∧ s.hartOf? (target true).key = some (target true) := by decide +kernel
theorem witness_PushesBetweenHarts_delivery :
    let s := { pushing true 0 with pushes := [sent] }
    let d := target true
    let n := min (streamBytes sent.laneCount sent.srcs) (streamBytes d.lanes (spillRegs d sent.first sent.count))
    let src (q : Nat) : Nat := let x := streamPlace sent.lanes sent.laneCount sent.srcs q; regLoc sent.stop x.1 x.2
    let dst (q : Nat) : Nat := let x := streamPlace d.lane0 d.lanes (spillRegs d sent.first sent.count) q; regLoc d.stop x.1 x.2
    s.canonical = true ∧ s.pushes.find? (fun q => q.id == 4) = some sent ∧ s.hartOf? ⟨9, 0⟩ = some d ∧ n = 8 ∧
    ((List.range n).all fun q => (List.range n).all fun r => (dst q != dst r || q == r) && src q != dst r) = true := by
  decide +kernel
theorem witness_vfe : (vec fp).reserved (vec fp).h.key 27 1 = false ∧
    ({ vec fp with pushes := [{ sent with dest := some ⟨7, 1⟩ }] } : State).reserved ⟨7, 1⟩ 10 1 = true := by decide +kernel

/-- The vector hart at a VFETCH whose block is VADD v0, v9, v8 and LEND. -/
def laned (offs : List Nat) (lane : Option LaneBlock) : State :=
  let s := withV (vec fp) 4 offs
  { s with h := { s.h with lane := lane }, mem := (s.mem.writeNat 0x10004 4 0x0251C000).writeNat 0x10008 4 0xDA02 }
def block : LaneBlock := { parts := [0, 1, 2], stop := 2 }
/-- The rest of a step of it, VADD for element 2. -/
def halfway : LaneBlock := { block with step := some ⟨0, 2, 0x0251C000, [2]⟩ }

theorem witness_LaneBlocks :
    gives (laneDispatch 4 true) (laned [0, 0, 0] none) (fun l _ => l == block) = true ∧
    elems (laned [2, 3, 2] (some block)) 4 = [2, 3, 2, 0] ∧ elems (laned [2, 0, 0] (some block)) 4 = [2, 0, 0, 0] ∧
    (block.parts.filter fun i => [2, 0, 0][i]! < block.stop).head? = some 1 ∧
    (block.step = none ∧ [1, 2] = block.parts.filter (fun i => [2, 0, 0][i]! = 0) ∧ ∀ i ∈ block.parts, 0 ≤ [2, 0, 0][i]!) ∧
    gives (fetchCode 0x10004) ((laned [2, 0, 0] (some block)).onHart fun h => { h with vstart := 1, lane := some block })
      (fun c t => c.len == 2 && gives (laneStep 4 0 c [1, 2]) t fun r _ => r.1 == [(1, 2), (2, 2)] && r.2.isNone) = true ∧
    gives (laneStep 4 0 ⟨2, 0x0251C000⟩ [2]) ((laned [2, 0, 0] (some halfway)).onHart fun h => { h with vstart := 1, lane := some halfway })
      (fun r _ => r.1 == [(2, 2)] && r.2.isNone) = true ∧
    (block.parts.all fun i => ((laned [2, 0, 0] (some block)).vread (laned [2, 0, 0] (some block)).h 4 32 false i 0).bad.isNone) = true := by
  decide +kernel
-- 10 R222: the elements of a step all run before the lowest offset is sought again, here with a stop behind the first of them.
theorem test_lane_rest : next (exec (.vfetch 4 true) { laned [0, 0, 0] none with part := some 0 }) (fun t =>
    elems t 4 == [2, 0, 0, 0] && (t.h.lane.bind (·.step)).map (·.left) == some [1, 2] && t.h.pc == 0x10000) = true := by decide +kernel
theorem witness_TAN : (tanBody (.vadd o3)).isSome = true ∧ (tanBody (.add 1 2 3)).isSome = false ∧
    (at_ user).tanPrefix = none ∧ enabled (at_ user).h.fcsr 0x1F = 0 := by decide +kernel

/-! ### Launches -/

/-- An entry of die 0's table. -/
def anEntry (idx : Nat) (st : LaunchState) (w7 : Nat := 1 + 2 ^ 16 + 32 * 2 ^ 32) (pa : Option (Nat × Bool) := none) : Launch :=
  { die := 0, stop := 0, idx := idx, gen := 0, st := st, record := launchRec [0, 0, 0, 0, 0, 0, 0, BitVec.ofNat 64 w7], countPa := pa, asid := 0, ptbase := 0
    seq := idx, crew := w7 % 65536, placed := 0, gone := 0, lost := false, status := 0, barsDone := 0, convoysDone := 0 }
/-- A hart whose s9 addresses a launch record at 0x4000. -/
def launching (w4 w7 : Nat) (ls : List Launch := []) : State :=
  { at_ { bare with s := bare.s.set 9 0x4000 } with
    mem := ((Memory.mk []).writeNat 0x4020 8 w4).writeNat 0x4038 8 w7, launches := ls }
/-- Entries of die 0 in use, from the last down. -/
def usedUp : Nat → List Launch
  | 0 => []
  | n + 1 => anEntry n .ready :: usedUp n
theorem usedUp_length (n : Nat) (acc : List Nat) (h : ∀ x ∈ acc, n ≤ x) :
    (((usedUp n).filter fun l => l.die == 0 && l.st != .free).foldl (fun is l => insertSorted is l.idx) acc).length = n + acc.length := by
  induction n generalizing acc with
  | zero => simp [usedUp]
  | succ n ih =>
    have hi : insertSorted acc n = n :: acc := by
      cases acc with
      | nil => rfl
      | cons c cs =>
        have := h c (by simp)
        simp [insertSorted, show c ≠ n by omega, show n < c by omega]
    have hf : ((usedUp (n + 1)).filter fun l => l.die == 0 && l.st != .free)
        = anEntry n .ready :: (usedUp n).filter fun l => l.die == 0 && l.st != .free := by simp [usedUp, anEntry]
    have hn : ∀ x ∈ n :: acc, n ≤ x := by
      intro x hx
      rcases List.mem_cons.mp hx with rfl | hx
      · exact Nat.le_refl _
      · have := h x hx; omega
    rw [hf, List.foldl_cons, show (anEntry n .ready).idx = n from rfl, hi, ih _ hn, List.length_cons]
    omega
def w7 : Nat := 1 + 2 ^ 16 + 32 * 2 ^ 32

theorem witness_Launches_record :
    gives (recordWords 0x4000 8) (launching 0x5000 w7) (fun ws t =>
      ws == [0, 0, 0, 0, 0x5000, 0, 0, BitVec.ofNat 64 w7] && t.usedEntries t.h.die == [] &&
        gives (locate 0x5000 .load) t fun loc _ => loc == 0x5000 && regionOf loc == .device) = true ∧
    (let r := launchRec [0, 0, 0, 0, 0x5000, 0, 0, BitVec.ofNat 64 w7]
     r.crew ≠ 0 ∧ r.shape = 1 ∧ r.regs ≤ 224 ∧ r.banks ≤ 192 ∧ r.flags.toNat < 16 ∧ r.reserved = 0 ∧ r.neverFits r.crew = false) ∧
    gives (recordWords 0x4000 8) (launching 0x5001 0) (fun ws _ => ws == [0, 0, 0, 0, 0x5001, 0, 0, 0]) = true ∧
    (launchRec [0, 0, 0, 0, 0, 0, 0, BitVec.ofNat 64 (w7 + 2 ^ 51)]).flags.getLsbD 3 = true ∧
    (launchRec [0, 0, 0, 0, 0, 0, 0, BitVec.ofNat 64 (w7 + 2 ^ 51)]).flags.toNat < 16 := by decide +kernel
theorem witness_Launches_release :
    (hasty user).pushing (hasty user).h.key = true ∧ (launching 0x5000 w7).pushing (launching 0x5000 w7).h.key = false ∧
    gives (recordWords 0x4000 8) ((launching 0x5000 w7).onHart Hart.settle) (fun ws _ =>
      ws == [0, 0, 0, 0, 0x5000, 0, 0, BitVec.ofNat 64 w7]) = true := by decide +kernel
theorem witness_Launches_full : 4096 ≤ ((launching 0 w7 (usedUp 4096)).usedEntries 0).length :=
  Nat.le_of_eq (usedUp_length 4096 [] (by simp)).symm
theorem witness_Launches_entries :
    let s := launching 0 0 [anEntry 5 .waiting, anEntry 6 .waiting w7 (some (0x5000, false)), anEntry 7 .free]
    s.launchOf 5 = some (anEntry 5 .waiting) ∧ (anEntry 5 .waiting).countPa = none ∧
    s.launchOf 6 = some (anEntry 6 .waiting w7 (some (0x5000, false))) ∧ regionOf 0x5000 ≠ .link ∧
    s.launchOf 7 = some (anEntry 7 .free) ∧ (anEntry 7 .free).st = .free ∧ (anEntry 5 .waiting).st ≠ .free ∧
    s.launchOf 0x1005 = none ∧ (∃ l ∈ s.launches, l.die = 0x1005 / 2 ^ 30 ∧ l.idx = 0x1005 % 4096) ∧ 0x1005 / 4096 % 2 ^ 18 ≠ 0 ∧
    2 ^ 32 ≤ ((at_ user).h.get 6).toNat ∧ ((at_ user).h.get 5).toNat < 2 ^ 32 ∧
    (at_ (user.begin (.launch (launchRec []) none))).h.doing = some (.launch (launchRec []) none) ∧ (at_ user).h.doing = none := by
  decide +kernel

theorem witness_PlacementBindsMember :
    (launching 0 0 [anEntry 0 .ready]).launchOf 0 = some (anEntry 0 .ready) ∧ (anEntry 0 .ready).record.isGang = false ∧
    (launching 0 0 [anEntry 0 .ready]).canonical = true ∧
    (launching 0 0 [anEntry 0 .ready]).findRoom 0 (anEntry 0 .ready).record = some (0, 1, 0) ∧
    (let l := anEntry 0 .ready (w7 + 2 ^ 48 + 2)
     (launching 0 0 [l]).launchOf 0 = some l ∧ l.record.isGang = true ∧ l.placed ≤ l.crew) := by decide +kernel

/-- One core of die 0 works, and a hart of low priority has all of its clusters. -/
def crowded : State :=
  { at_ { user with vpart := 3 <<< 40, prio := 1 } with
    launches := [anEntry 0 .ready (w7 + 255 * 2 ^ 24)], failed := (List.range 39).map (· + 1) }
theorem witness_PreemptionRules :
    let l := anEntry 0 .ready (w7 + 255 * 2 ^ 24)
    crowded.launchOf 0 = some l ∧ l.record.isGang = false ∧ crowded.findRoom l.die l.record = none ∧ crowded.mayPreempt l = true ∧
    crowded.bestCandidate l false = some ⟨0, 0, 1, 1⟩ ∧ crowded.candidate l false 0 (0 * l.record.shape) = some ⟨0, 0, 1, 1⟩ ∧
    user.haltReq = false ∧ user.gangLost = [] ∧
    ({ boss with asked := some 0 } : Hart).asked.isSome = true ∧ boss.level ≠ .user := by decide +kernel
/-- The same with a hart on the core that surrendered slot 8 to that launch. -/
def asked : State :=
  { crowded with others := [{ boss with key := ⟨9, 0⟩, slot := 8, saved := true, asked := some (anEntry 0 .ready (w7 + 255 * 2 ^ 24)).lid }] }
theorem witness_PreemptionRules_asked :
    let l := anEntry 0 .ready (w7 + 255 * 2 ^ 24)
    asked.askedCandidate l = some ⟨0, 0, 1, 1⟩ ∧ crowded.askedCandidate l = none ∧ asked.launchOf 0 = some l := by decide +kernel
theorem witness_PreemptionRules_hart : (at_ { user with saved := true }).hartOf? ⟨7, 1⟩ = some { user with saved := true } := rfl

-- 05 R77: the bank of a scratchpad word goes by its offset in the core's scratchpad, also at core 1.
theorem test_seat_banks : (List.range 3).map (fun i => (⟨1, 0, 0, 0, 0, 1, 1⟩ : Seat).ownsScratch (scratchLoc 1 + 8 * i)) = [false, true, false] := by
  decide +kernel

/-! ### Retirement, barriers, convoys -/

/-- A hart of the launch in entry 7 of generation 0. -/
def member (h : Hart := user) (l : Launch := anEntry 7 .running) : State := { at_ h with launches := [l] }
/-- A launch with a completion word at 0x3000. -/
def done (a : Word) : Launch := { anEntry 7 .draining with record := { (anEntry 7 .draining).record with done := a, value := 5 }, ptbase := 0x20000 }

theorem witness_Retirement_harts :
    (member { user with retiring := true }).hartOf? ⟨7, 1⟩ = some { user with retiring := true } ∧
    (member user).hartOf? ⟨7, 1⟩ = some user := ⟨rfl, rfl⟩
theorem witness_RetirementAndBarriers :
    user.retiring = false ∧ (member { user with retiring := true }).drained ⟨7, 1⟩ = true ∧
    ({ member with pushes := [sent] } : State).drained ⟨7, 1⟩ = false ∧ member.launchOf 7 = some (anEntry 7 .running) ∧
    (∀ c ∈ member.contribs, c.lid ≠ 7) ∧ (anEntry 7 .running).record.done = 0 ∧ (at_ user).launchOf user.key.lid = none ∧
    (user.doing = none ∧ (user.begin (.bar 1)).doing = some (.bar 1) ∧ (user.begin (.convoy 1)).doing = some (.convoy 1)) ∧
    ({ member with ring := [⟨.arrival 7 1, 0, 160⟩] } : State).ring.all (fun x => x.passed 0) = false ∧
    ((anEntry 7 .running).barsDone < ({ user with bar := 1 } : Hart).bar ∧ user.bar ≤ (anEntry 7 .running).barsDone) ∧
    ((anEntry 7 .running).record.flags.getLsbD 1 = false ∧ (anEntry 7 .running (w7 + 2 ^ 49)).record.flags.getLsbD 1 = true) ∧
    ((anEntry 7 .running).convoysDone < ({ user with convoy := 1 } : Hart).convoy ∧ user.convoy ≤ (anEntry 7 .running).convoysDone) ∧
    (Contribution.mk 7 1 0 0 0 0 8 0).bytes ≤ 8 ∧ member.canonical = true := by decide +kernel
theorem witness_barrier_waits :
    let s := { member with pushes := (hasty user).pushes }
    s.pushing s.h.key = true ∧ s.launchOf 7 = some (anEntry 7 .running) ∧ member.pushing member.h.key = false ∧ s.h.doing = none ∧
    (member { user with bar := 1 }).launchOf 7 = some (anEntry 7 .running) := by decide +kernel
theorem witness_completion :
    (match ({ paged user with launches := [done 0xFFF8] } : State).locate ⟨.supervisor, 0, 0x20000, 0, 0, false⟩ 0xFFF8 .store with
      | (.ok loc, _) => loc == 0xFFF8 | _ => false) = true ∧
    (match ({ paged user with launches := [done 0x10000] } : State).locate ⟨.supervisor, 0, 0x20000, 0, 0, false⟩ 0x10000 .store with
      | (.error f, _) => f == (4, 0x10000) | _ => false) = true ∧
    (done 0xFFF8).record.done ≠ 0 ∧ (done 0xFFF8).record.done.toNat < localBase ∧
    regionOf 0xFFF8 ≠ .control ∧ regionOf 0xFFF8 ≠ .link := by
  decide +kernel

/-! ### Farms -/

def aFarm (entry front : Nat) (window : BitVec 64 := 2) : Farm := ⟨0, entry, ⟨7, 1⟩, 0x5000, 0, 0, 0, 100, 10, front, window⟩
/-- A hart with the address of a farm record in s9 and the number of an iteration in s10. -/
def farming (state k : Nat) (fs : List Farm := [aFarm 0 5]) (h : Hart := bare) : State :=
  { at_ { h with s := (h.s.set 9 0x5000).set 10 (BitVec.ofNat 64 k) } with
    mem := (((Memory.mk []).writeNat 0x5000 8 100).writeNat 0x5008 8 10).writeNat 0x5010 8 state, farms := fs }
def stateWord (home entry : Nat) : Nat := 2 ^ 63 + entry * 65536 + home

/-- Where the state bytes of a farm record at `va` lie for a hart that may store to them. -/
def farmPlaces (s : State) (va : Word) (p : Nat → Nat → State → Bool) : Bool :=
  match s.locate s.h.space va .store with
  | (.ok loc, t) => match t.locate t.h.space (va + 8) .store with
    | (.ok loc2, u) => p loc loc2 u
    | _ => false
  | _ => false
theorem witness_FARM :
    gives (recordWords 0x5000 4) (farming 0 0 ((List.range 63).map fun i => aFarm i 0)) (fun ws t =>
      ws == [100, 10, 0, 0] && (t.usedFarms 0).length == 63 &&
      (let (i, u) := t.choose (64 - (t.usedFarms 0).length)
       i == 0 && farmPlaces u 0x5010 fun loc loc2 v =>
         loc == 0x5010 && loc2 == 0x5018 && !v.conflict v.h.key true .virt 0x5010 0x5020 && v.h.strip.isEmpty)) = true ∧
    regionOf 0x5010 ≠ .link ∧ regionOf 0x5018 ≠ .link := by
  decide +kernel
/-- Its state bytes may not be stored to: both, the second pair alone (at the end of a page), or both while a stream of the hart
is still to read them. -/
theorem witness_FARM_stops :
    fails (paged user 0x50000 0x37) 0x5010 .store (4, 0x5010) = true ∧
    farmPlaces { farming 0 0 with pillars := [⟨9, 0, ⟨7, 1⟩, false, .virt, 0x5018, 0x5020, [], false⟩] } 0x5010
      (fun _ _ v => v.conflict v.h.key true .virt 0x5010 0x5020) = true ∧
    finds (paged user) 0xFF8 .store 0xFF8 = true ∧ fails (paged user) 0x10000 .store (4, 0x10000) = true := by decide +kernel
theorem witness_endFarm :
    (match (paged user).locate ⟨.supervisor, 0, 0x20000, 0, 0, false⟩ 0x5010 .store with
      | (.ok loc, _) => loc == 0x5010 && regionOf loc == .device | _ => false) = true := by decide +kernel
theorem witness_FSTRIP :
    gives (farmWord 0x5010) (farming 0 0) (fun w _ => w == 0) = true ∧
    gives (farmWord 0x5010) (farming (stateWord 3 0) 0) (fun w t => w.toNat % 65536 == 3 && t.h.stop == 0) = true ∧
    gives (farmWord 0x5010) (farming (stateWord 0 9) 0) (fun w t => w.toNat / 65536 % 64 == 9 && (t.farm? 0 9).isNone) = true ∧
    gives (farmWord 0x5010) (farming (stateWord 0 0) 0) (fun w t => w != 0 && t.farm? 0 0 == some (aFarm 0 5)) = true ∧
    (0 < (aFarm 0 5).len ∧ (aFarm 0 5).counter * 10 < (aFarm 0 5).trip ∧ (100 : Nat) ≤ { aFarm 0 5 with counter := 10 }.counter * 10) ∧
    bare.doing = none ∧ (∀ id v, bare.doing ≠ some (.strip id v)) ∧
    (∃ m ∈ ({ farming (stateWord 0 0) 0 with ring := [⟨.post 0 0 5, 0, 160⟩] } : State).ring, m.next = 0 ∧ m.left = 160) := by
  refine ⟨by decide +kernel, by decide +kernel, by decide +kernel, by decide +kernel, by decide +kernel, by decide +kernel, ?_, ?_⟩
  · intro id v h
    rw [show bare.doing = none by decide +kernel] at h
    cases h
  · exact ⟨_, List.mem_singleton.mpr rfl, rfl, rfl⟩
/-- Of two requests of a hart the second heads its link: the first is in transit there already. -/
theorem witness_stripRequest_heads :
    let ring : List RingMsg := [⟨.arrival 7 1, 3, 5⟩, ⟨.strip ⟨7, 1⟩ 4 0 0, 3, 4⟩, ⟨.strip ⟨7, 1⟩ 5 0 0, 3, 160⟩]
    ring[2]? = some ⟨.strip ⟨7, 1⟩ 5 0 0, 3, 160⟩ ∧
    (∀ j ∈ List.range 2, (ring[j]?).map (fun x => (x.next, x.left == 160)) ≠ some (3, true)) ∧ (at_ user).ring = [] := by decide +kernel
/-- A request of a hart at core 3 passes its home or another stop; an answer on its way, and one that arrives. -/
theorem witness_stripRequest :
    let s := farming (stateWord 0 0) 0
    (∀ m ∈ [RingMsg.mk (.strip ⟨7, 1⟩ 4 0 0) 0 157, ⟨.strip ⟨7, 1⟩ 4 9 0, 0, 1⟩, ⟨.answer ⟨7, 1⟩ 4 2, 0, 9⟩, ⟨.answer ⟨7, 1⟩ 4 2, 0, 1⟩,
      ⟨.arrival 7 1, 0, 160⟩], ({ s with ring := [m] } : State).ring[0]? = some m) ∧
    [RingMsg.mk (.strip ⟨7, 1⟩ 4 0 0) 0 157].findIdx? (·.asks ⟨7, 1⟩) = some 0 ∧
    s.farm? 0 0 = some (aFarm 0 5) ∧ s.farm? 0 9 = none ∧ 0 < (aFarm 0 5).len ∧
    (user.begin (.strip 4 none)).doing = some (.strip 4 none) ∧ (user.begin (.strip 4 (some 9))).doing = some (.strip 4 (some 9)) := by decide +kernel
/-- Iterations 4, 5, 6, 68, 69, 99 and 100 of a farm whose frontier is 5 and that has recorded 6: every window of R134. -/
theorem witness_POST :
    (hasty user).pushing (hasty user).h.key = true ∧ (farming 0 0).pushing (farming 0 0).h.key = false ∧
    (∀ k ∈ [4, 5, 6, 68, 69, 99, 100], gives (farmWord 0x5010) (((farming (stateWord 0 0) k).onHart Hart.endStrip).onHart Hart.settle)
      (fun w t => decide (w ≠ 0) && t.farm? (w.toNat % 65536) (w.toNat / 65536 % 64) == some (aFarm 0 5) && (t.h.get 10).toNat == k
        && t.farmAhead 0 0 t.h.stop (aFarm 0 5) == aFarm 0 5 && t.ring.isEmpty && t.h.waitReg.isNone) = true) ∧
    (4 < (aFarm 0 5).front ∧ (aFarm 0 5).front ≤ 68 ∧ 68 < 5 + 64 ∧ 5 + 64 ≤ 69 ∧ 99 < (aFarm 0 5).trip ∧ (aFarm 0 5).trip ≤ 100) ∧
    (aFarm 0 5).window.getLsbD (6 - 5) = true ∧ (aFarm 0 5).window.getLsbD (5 - 5) = false ∧
    (∀ k ∈ [4, 5, 6, 69, 100], gives (farmWord 0x5010) ((farming (stateWord 0 0) k).onHart Hart.endStrip) (fun w t =>
      decide (w ≠ 0) && t.farm? (w.toNat % 65536) (w.toNat / 65536 % 64) == some (aFarm 0 5) && t.ring.isEmpty && t.h.waitReg.isNone) = true) ∧
    ({ farming 0 0 with ring := [⟨.post 0 0 5, 159, 2⟩] } : State).ring[0]? = some ⟨.post 0 0 5, 159, 2⟩ ∧
    ({ user with waitReg := some ⟨0, 0, 5, false⟩ } : Hart).waitReg = some ⟨0, 0, 5, false⟩ := by decide +kernel

/-! ### Streams -/

/-- A control block's words: kind, status, element size; length; source; destination; strides of one element. -/
def words (kind status z len src dst cond complete : Nat) : List Nat :=
  [kind + status * 256 + z * 2 ^ 16, 0, len, src, 2 ^ z, 0, dst, 2 ^ z, 0, 0x100, 0, 0, cond, complete, 7, 0]
/-- A hart with the address of a control block in s9. -/
def streaming (ws : List Nat) (h : Hart := bare) : State :=
  { at_ { h with s := h.s.set 9 0x6000 } with
    mem := (((List.range 16).zip ws).foldl (fun m p => m.writeNat (0x6000 + 8 * p.1) 8 p.2) (Memory.mk [])).writeNat 0x7100 8 1 }
/-- A stream in a slot for that block. -/
def stream (ws : List Nat) (id : Nat := 1) : Stream :=
  { id := id, stop := 0, owner := ⟨7, 1⟩, block := 0x6000, place := 0x6000, level := .firmware, asid := 0, ptbase := 0, vpart := 0, pre := false
    blk := streamBlock (ws.map (BitVec.ofNat 64)), ptr := 0, count := 0, preds := [], started := true, faulted := false, error := none
    ending := none, skipped := false, lag := 0, wrote := [], lastA := none, lastB := none }
def fill : List Nat := words 4 0 2 4 0x55 0x7000 0 0
/-- A faulted stream of that block which holds no slot. -/
def lost : Stream := { stream fill 40 with faulted := true }
def slotted (ws : List Nat) (st : Stream := stream ws) : State := { streaming ws with streams := [st] }

theorem witness_StreamInstructions :
    ((at_ user).h.get 5).toNat % 128 ≠ 0 ∧ bare.doing = none ∧
    (∀ status ∈ [0, 1], gives (locate 0x6000 .store) (streaming (words 4 status 2 4 0 0x7000 0 0)) (fun place t =>
      place == 0x6000 && regionOf place != .control && gives (startStatus 0x6000 0x6000) t fun old _ => old == status) = true) ∧
    (let s := streaming fill
     s.conflict s.h.key true .virt 0x6001 0x6002 = false ∧ marked s.poison 0x6001 1 = false ∧ s.mem.readNat 0x6001 1 ≠ 1 ∧
       marked s.poison 0x6000 128 = false ∧ regionOf 0x6001 ≠ .link ∧ s.h.strip = [] ∧ (streaming (words 4 1 2 4 0 0x7000 0 0)).mem.readNat 0x6001 1 = 1) ∧
    (let v (r : Bool) : State := ((streaming fill).rawWrite (some ⟨7, 1⟩) 0x6001 [1]).onHart (·.begin (.sstart 0 8 r))
     (v false).h.doing = some (.sstart 0 8 false) ∧ gives (acceptStream 0x6000 0x6000 8 false) (v false) = true ∧
     32 ≤ ({ v false with streams := (List.range 32).map fun i => stream fill i } : State).slotsOf 0 ∧ (v true).unended = [] ∧
     gives (acceptStream 0x6000 0x6000 8 true) (v true) = true) ∧
    (let full : State := { streaming fill with streams := (List.range 32).map fun i => stream fill i, orphans := [lost] }
     32 ≤ full.slotsOf 0 ∧ full.unended.find? (fun x => x.id == 8) = some (stream fill 8) ∧
     ({ full with streams := [], orphans := [lost] } : State).unended.find? (fun x => x.id == 40) = some lost ∧ full.stream? 40 = none ∧
     full.unended.find? (fun x => x.place == 0x6000 && x.faulted) = some lost ∧
     (∀ x ∈ (slotted fill).unended, ¬ (x.place = 0x6000 ∧ x.faulted = true))) ∧
    (∀ s ∈ [streaming fill, slotted fill, { streaming fill with orphans := [lost] }],
      s.slotsOf 0 < 32 ∧ gives (do let w ← recordWord 0x6000; (w :: ·) <$> blockWords 0x6000 (w.toNat % 256) 1 15) s (fun ws t =>
        let st := { stream fill with blk := streamBlock ws }
        decide (t.pillarsOf 0 + st.entries.length ≤ 64) && s.others.isEmpty && t.streams == s.streams
          && t.orphans == s.orphans && t.streams.all (fun x => x.id != 8)) = true) ∧
    (∀ x ∈ (slotted fill).unended, ¬ (x.place = 0x6000 ∧ x.faulted = true)) ∧
    (slotted fill).stream? 1 = some (stream fill) ∧ (stream fill).stop = (slotted fill).h.stop ∧
    ({ streaming fill with orphans := [lost] } : State).stream? 40 = none ∧
    (∀ status ∈ [0, 1, 2, 3, 4, 5], gives (do let x ← blockAddress 9; blockStatus x) ((streaming (words 4 status 2 4 0 0x7000 0 0)).onHart Hart.endStrip)
      (fun v _ => v == status) = true) ∧
    gives (locate 0x6000 .load) (slotted fill) (fun loc t => t.streams.find? (fun x => x.place == loc) == some (stream fill)) = true ∧
    gives (locate 0x6000 .load) (streaming fill) (fun loc t => (t.streams.find? (fun x => x.place == loc)).isNone && gives (blockStatus 0x6000) t) = true := by
  decide +kernel

/-- Blocks of every kind, which are valid, with elements to come; a window of 16 bytes. -/
def blocks : List StreamBlock :=
  (List.range 8).map fun k => streamBlock ((words k 0 2 4 0x7100 0x7000 0 0).mapIdx fun i w =>
    BitVec.ofNat 64 (if i = 10 then if k = 6 then 4 else 4 * 2 ^ 58 + 0x7200 else w))
theorem witness_entries :
    (blocks.map (·.kind)) = List.range 8 ∧
    (∀ b ∈ blocks, let st := { stream fill with blk := b }
      b.invalid = false ∧ st.ending = none ∧ b.length ≠ untilCancelled ∧ st.ptr < b.length ∧ 0 ≤ b.srcStride ∧
        b.srcBase + (b.length - 1) * b.srcStride < 2 ^ 52 ∧ (b.kind = 6 → st.ptr % 2 ^ 32 < b.length ∧ st.ptr / 2 ^ 32 < b.window)) ∧
    (∀ d ∈ [4, 2 ^ 32 - 4], let b := streamBlock ((words 0 0 2 untilCancelled 0x7100 0x7000 0 0).mapIdx fun i w =>
        BitVec.ofNat 64 (if i = 7 then d else w))
      b.invalid = false ∧ b.length = untilCancelled ∧ b.kind = 0 ∧ (stream fill).ptr < b.length ∧ (0 ≤ b.dstStride ↔ d = 4) ∧
        0 ≤ (b.dstBase : Int) + (stream fill).ptr * b.dstStride ∧ (b.dstBase : Int) + (stream fill).ptr * b.dstStride < 2 ^ 52) ∧
    (∀ b ∈ blocks, b.kind = 6 → b.dstInner = 0 ∧ (stream fill).count < untilCancelled ∧ 0 ≤ (b.dstBase : Int) + 0 * b.dstStride ∧
      (b.dstBase : Int) + 0 * b.dstStride < 2 ^ 52) ∧
    (∃ x ∈ (slotted fill).streams, x.id = 1 ∧ x.owner = (slotted fill).h.key) := by
  refine ⟨by decide +kernel, by decide +kernel, by decide +kernel, by decide +kernel, ⟨_, List.mem_singleton.mpr rfl, by decide +kernel⟩⟩
theorem fill_plain : (streaming fill).Plain := ⟨rfl, by simp [streaming, at_, bare, user], rfl⟩
theorem witness_blockWords : ∀ i, i < 16 → (streaming fill).Lies .load (0x6000 + BitVec.ofNat 64 (8 * i)) (0x6000 + 8 * i) := by
  intro i hi
  have e : ((0x6000 : Word) + BitVec.ofNat 64 (8 * i)).toNat = 0x6000 + 8 * i := by
    simp [BitVec.toNat_add, BitVec.toNat_ofNat]; omega
  have := bare_lies (streaming fill) rfl .load ((0x6000 : Word) + BitVec.ofNat 64 (8 * i)) (by rw [e]; omega)
  rwa [e] at this

/-- Work of the engine succeeds. -/
def works {α : Type} (m : E α) (s : State) (p : α → State → Bool := fun _ _ => true) : Bool :=
  match m.run s with
  | (.ok a, t) => p a t
  | _ => false

theorem witness_StreamEngine_ends :
    (slotted fill).stream? 1 = some (stream fill) ∧ (stream fill).blk.cond = 0 ∧ (stream fill).blk.complete = 0 ∧ (stream fill).ending = none ∧
    (∀ c ∈ [0x7100, 0x7200], works (reach (stream fill).space c 8 .load) (slotted (words 4 0 2 4 0 0x7000 c 0)) (fun loc t =>
      works (engineUse (t.stripOf ⟨7, 1⟩) c loc 8) t fun v _ => v == if c = 0x7100 then 1 else 0) = true) ∧
    ((List.range 128).all fun off => regionOf (0x6000 + off) != .link) = true ∧ (∀ x ∈ (slotted fill).streams, 1 ∉ x.preds) ∧
    (∀ x ∈ (slotted fill).unended, x.id = 1 → x = stream fill) ∧ (∀ x ∈ (slotted fill).unended, 1 ∉ x.preds) ∧ (∀ h ∈ (slotted fill).harts, h.monitor = none ∧ h.strip = []) ∧
    (slotted fill).olderPillars 1 = [] ∧ (stream fill).skipped = false ∧ (stream fill).faulted = false ∧
    (∀ st ∈ [{ stream fill with faulted := true }, { stream fill with skipped := true }, { stream fill with ending := some 2 }],
      (slotted fill st).stream? 1 = some st ∧ st.id = 1 ∧ (slotted fill st).olderPillars 1 = [] ∧
        ∀ x ∈ (slotted fill st).unended, x.id = 1 → x = st) ∧
    (match (reach (stream fill).space 0x7101 8 .store).run (slotted (words 4 0 2 4 0 0x7000 0 0x7101)) with
      | (.error e, _) => e == (2, 0x7101) | _ => false) = true ∧
    (match ((slotted fill).locate (stream fill).space 0x6001 .store).1 with | .ok loc => loc == 0x6001 && regionOf loc == .device | _ => false) = true ∧
    (match ((paged user).locate ({ stream fill with level := .user, ptbase := 0x20000 } : Stream).space 0x10001 .store).1 with
      | .error f => f == (4, 0x10001) | _ => false) = true ∧
    (let f : Final := ⟨2, 0, ⟨7, 1⟩, 0x7100, 7, some ⟨false, 0x6000⟩⟩
     ({ slotted fill with finals := [f] } : State).stream? 2 = none ∧ [f].find? (fun x => x.id == 2) = some f ∧ regionOf f.loc ≠ .link) ∧
    works (reach (stream fill).space 0x7100 8 .store) (slotted (words 4 0 2 4 0 0x7000 0 0x7100)) (fun loc _ => regionOf loc == .device) = true := by
  decide +kernel
theorem witness_StreamEngine_elements :
    (∀ kind ∈ [0, 1], let ws := words kind 0 2 4 0x7100 0x7000 0 0
      (stream ws).blk.kind < 2 ∧ 2 ^ (stream ws).blk.z ≤ 8 ∧ (slotted ws).stripOf ⟨7, 1⟩ = [] ∧
      works (reach (stream ws).space ((stream ws).blk.src 0) 4 .load) (slotted ws) (fun sl t =>
        works (reach (stream ws).space ((stream ws).blk.dst 0) 4 .store) t fun dl _ =>
          sl == 0x7100 && dl == 0x7000 && !marked (slotted ws).poison sl 4) = true) ∧
    works (reach (stream fill).space ((stream fill).blk.dst 0) 4 .store) (slotted fill) (fun dl _ => dl == 0x7000) = true ∧
    (let ws := words 5 0 2 4 0x7100 0x7000 0 0
     (stream ws).blk.kind = 5 ∧ works (reach (stream ws).space (((stream ws).blk.bitmap + 0 / 8) % 2 ^ 64) 1 .load) (slotted ws)
       (fun loc _ => loc == 0x100 && !((slotted ws).mem.read loc).getLsbD 0 && regionOf loc != .link && !marked (slotted ws).poison loc 1) = true) ∧
    (match (Stream.element (stream (words 0 0 2 4 0x7101 0x7000 0 0))).run (slotted fill) with | (.error (c, _), _) => c == 2 | _ => false) = true ∧
    ({ stream fill with error := some (6, 0x7000) } : Stream).error = some (6, 0x7000) := by decide +kernel
/-- A stream of a kind whose indexes, bitmap or second input are at `bits`, with a window word and a bound. -/
def walking (kind src bits win bound : Nat) (ptr : Nat := 0) (a b : Option Nat := none) : Stream :=
  { stream fill with
    blk := streamBlock ((words kind 0 2 4 src 0x7000 0 0).mapIdx fun i w =>
      BitVec.ofNat 64 (if i = 9 then bits else if i = 10 then win else if i = 11 then bound else w))
    ptr := ptr, lastA := a, lastB := b }
/-- What a stream reads at an address, with no mark. -/
def reads (st : Stream) (s : State) (va n : Nat) (p : Nat → State → Bool) : Bool :=
  works (reach st.space va n .load) s fun loc t => regionOf loc == .device && !marked s.poison loc n && p (s.mem.readNat loc n) t
/-- It may store at an address. -/
def stores (st : Stream) (s : State) (va n : Nat) : Bool := works (reach st.space va n .store) s fun loc _ => regionOf loc == .device
/-- The word at 0x7100 is 1: an index in a window of 16 bytes and not in one of 4, a set bit, a value of either input of
INTERSECT that the other lacks, or that both have, above the bound or not, or that is not above its predecessor. -/
theorem witness_StreamEngine_walks :
    let at7200 (log : Nat) : Nat := log * 2 ^ 58 + 0x7200
    (∀ st ∈ [walking 2 0x7100 0 (at7200 4) 0, walking 3 0x7100 0x7100 (at7200 2) 0, walking 5 0x7100 0x7100 0 0, walking 6 0x7100 0 4 0],
      (slotted fill st).stream? 1 = some st ∧ st.wrote = [] ∧ 2 ^ st.blk.z ≤ 8 ∧ (slotted fill st).stripOf st.owner = []) ∧
    (let st := walking 2 0x7100 0 (at7200 4) 0
     reads st (slotted fill st) (st.blk.src 0) 4 fun j t => j == 1 && decide (j * 4 + 4 ≤ 2 ^ (st.blk.window / 2 ^ 58)) &&
       reads st t 0x7204 4 fun _ u => stores st u (st.blk.dst 0) 4) = true ∧
    (let st := walking 3 0x7000 0x7100 (at7200 4) 0
     reads st (slotted fill st) 0x7100 4 fun j t => j == 1 && reads st t (st.blk.src 0) 4 fun _ u => stores st u 0x7204 4) = true ∧
    (∀ st ∈ [walking 2 0x7100 0 (at7200 2) 0, walking 3 0x7000 0x7100 (at7200 2) 0],
      reads st (slotted fill st) 0x7100 4 (fun j _ => decide (2 ^ (st.blk.window / 2 ^ 58) < j * 4 + 4)) = true) ∧
    (let st := walking 5 0x7000 0x7100 0 0
     reads st (slotted fill st) 0x7100 1 fun v t => v.testBit 0 && reads st t (st.blk.src 0) 4 fun _ u => stores st u (st.blk.dst 0) 4) = true ∧
    (let both (src bits bound : Nat) (p : Nat → Nat → Bool) : Bool :=
       let st := walking 6 src bits 4 bound
       reads st (slotted fill st) (st.blk.src 0) 4 fun x t => reads st t bits 4 fun y u => p x y && stores st u (st.blk.dst 0) 4
     both 0x7000 0x7100 0 (fun x y => decide (x < y)) = true ∧ both 0x7100 0x7000 0 (fun x y => decide (y < x)) = true ∧
     both 0x7100 0x7100 1 (fun x y => x == y && decide (x ≤ 1)) = true ∧ both 0x7100 0x7100 0 (fun x y => x == y && decide (0 < x)) = true) ∧
    (let st := walking 6 0x7100 0x7100 4 0 1 (some 5) none
     reads st (slotted fill st) (st.blk.src 1) 4 fun x _ => decide (x ≤ 5)) = true ∧
    (let st := walking 6 0x7100 0x7100 4 0 (2 ^ 32) none (some 5)
     reads st (slotted fill st) (st.blk.src 0) 4 fun _ t => reads st t 0x7104 4 fun y _ => decide (y ≤ 5)) = true ∧
    (let st := walking 6 0x7100 0x7100 4 0 1 (some 0) none
     reads { st with lastA := some 0 } { slotted fill st with mem := (slotted fill st).mem.writeNat 0x7104 4 2 } (st.blk.src 1) 4 fun x _ =>
       decide (0 < x)) = true := by decide +kernel
theorem witness_StreamEngine_hart : ∃ h, (slotted fill).hartOf? (stream fill).owner = some h := ⟨_, rfl⟩
theorem witness_genAddr : 0 < 3 ∧ genAddr 100 8 3 1000 7 = 100 + 8 + 2000 := by decide

/-! ### Routes -/

/-- A hart with the address of an inbox record in s9. -/
def binding (rows bytes req : Nat) (gs : List Target := []) : State :=
  { at_ { bare with s := bare.s.set 9 0x3000 } with
    mem := ((Memory.mk []).writeNat 0x3000 8 localBase).writeNat 0x3008 8 (rows + bytes * 2 ^ 16 + req * 2 ^ 32), targets := gs }
def aTarget (id : Nat) (owner : HKey := ⟨9, 0⟩) (rows : List InboxRow := []) (cap : Nat := 2) (bytes : Nat := 16) : Target :=
  { die := 0, id := id, owner := owner, stop := 0, base := scratchLoc 0, cap := cap, rowBytes := bytes, rows := rows }
def aRow (delivered received : Bool) (q : Nat := 0) (gen : Nat := 5) : InboxRow := ⟨q, 0, 31, gen, 0, 0, 2, delivered, received⟩
/-- A tile of one row of two elements; its pages are those at 0. -/
def tile (slots : List SlotState) (policy : Nat := 0) (fallback : Nat := 255) : RouteTile :=
  { id := 8, stop := 0, entry := 31, gen := 5, owner := ⟨7, 1⟩, level := .user, asid := 0, ptbase := 0, vpart := 0, pre := false
    record := { src := 0x1000, srcPitch := 8, outPitch := 8, idsVa := 0, weightsVa := 0, out := 0x1100, ret := 0x1200, rows := 1, elems := 2
                timeout := 9, policy := policy, fallback := fallback, flags := 0, reserved := 0 }
    timer := 9, left := 9, kept := [(0, 0, false)], expired := false, ids := [3, 255, 255, 255], weights := [0x3F800000, 0, 0, 0], slots := slots, status := .running
    dropbits := 0, firstUnwritten := 0 }

theorem witness_RBIND :
    (∀ p ∈ [(2, 16, 0, []), (2, 16, 255, []), (2, 16, 255, [aTarget 0]), (0, 16, 0, []), (257, 16, 0, []), (2, 6, 0, []), (2, 16, 4, [aTarget 4]),
       (2, 16, 255, (List.range 255).map aTarget)],
      gives (recordWords 0x3000 2) (binding p.1 p.2.1 p.2.2.1 p.2.2.2) (fun ws t =>
        ws[0]? == some (BitVec.ofNat 64 localBase) && ((ws[1]?).getD 0).toNat == p.1 + p.2.1 * 2 ^ 16 + p.2.2.1 * 2 ^ 32
          && (t.targetOf t.h.key).isNone && t.h.holdsInbox 0 (p.1 * p.2.1)) = true) ∧
    localBase % 128 = 0 ∧ ((binding 2 16 255 [aTarget 0]).target? 0 0).isSome = true ∧ ((binding 2 16 255 [aTarget 0]).target? 0 1).isSome = false ∧
    ((List.range 255).all fun i => ((binding 2 16 255 ((List.range 255).map aTarget)).target? 0 i).isSome) = true := by decide +kernel

theorem witness_RBIND_traps :
    ((at_ user).h.get 5).toNat % 16 ≠ 0 ∧ gives (recordWords 0x3000 2) (binding 2 16 256) (fun ws _ =>
      decide (2 ^ 40 ≤ ((ws[1]?).getD 0).toNat)) = true ∧
    (∀ base ∈ [0x1000, localBase + 64, localBase + 0x300000],
      gives (recordWords 0x3000 2) { binding 2 16 0 with mem := (binding 2 16 0).mem.writeNat 0x3000 8 base } (fun ws _ =>
        ws[0]? == some (BitVec.ofNat 64 base) && decide (((ws[1]?).getD 0).toNat < 2 ^ 40)) = true) ∧
    gives (recordWords 0x3000 2) { binding 2 128 0 with mem := (binding 2 128 0).mem.writeNat 0x3000 8 (localBase + 0x2FFF80) } (fun _ t =>
      !t.h.holdsInbox 0x2FFF80 256) = true ∧
    user.holdsInbox 0 8 = false ∧ bare.preempting = false ∧
    ({ user with vpart := BitVec.ofNat 64 (3 * 2 ^ 48 + 2 * 2 ^ 56) } : Hart).holdsInbox 24 16 = true ∧
    ({ user with vpart := BitVec.ofNat 64 (3 * 2 ^ 48 + 2 * 2 ^ 56) } : Hart).holdsInbox 24 17 = false := by decide +kernel

/-- The hart of the router's core owns a target with some rows; a tile stands in entry 31. -/
def inbox (rows : List InboxRow) (t : RouteTile := tile [.reserved 3 0, .none, .none, .none]) : State :=
  { at_ { bare with s := (bare.s.set 9 0x2000).set 10 ((aRow true true).handle) } with targets := [aTarget 3 ⟨7, 1⟩ rows], routeTiles := [t] }

theorem witness_RouteTargets :
    (at_ user).targetOf user.key = none ∧ (inbox []).targetOf bare.key = some (aTarget 3 ⟨7, 1⟩ []) ∧
    (inbox [aRow false false]).tile? 0 31 = some (tile [.reserved 3 0, .none, .none, .none]) ∧
    (∀ r ∈ [aRow false false, aRow true false], (aTarget 3 ⟨7, 1⟩ [aRow true true 1, r]).rows.find? (fun r => !r.received) = some r) ∧
    (aTarget 3 ⟨7, 1⟩ [aRow true true]).rows.find? (fun r => !r.received) = none ∧
    ((at_ user).h.get 5).toNat % 4 ≠ 0 ∧ ((inbox []).h.get 9).toNat % 4 = 0 ∧
    (∀ r ∈ [aRow true true 1], r.handle ≠ (inbox []).h.get 10) ∧
    (aTarget 3 ⟨7, 1⟩ [aRow true true]).rows.find? (fun r => r.handle == (inbox []).h.get 10) = some (aRow true true) ∧
    gives (locateRow 0x2000 2) ((inbox [aRow true true]).onHart Hart.settle) (fun ls _ => ls == [0x2000, 0x2004]) = true ∧
    (inbox [aRow true true]).pushing bare.key = false ∧ ({ inbox [aRow true true] with pushes := (hasty user).pushes } : State).pushing bare.key = true ∧
    (let x := tile [.reserved 3 0, .none, .none, .none]
     x.gen = (aRow true true).tileGen ∧ x.status = .running ∧ x.slots[0]? = some (.reserved 3 0) ∧
     (inbox [aRow false false] x).routeTiles[0]? = some x ∧ (∃ r ∈ [aRow false false], r.tileGen = x.gen ∧ 4 * r.row + r.slot = 0) ∧
     (inbox [] x).routeTiles.findIdx? (fun z => z.stop == 0 && z.entry == 31) = some 0 ∧
     x.place (x.record.retRow 0 0) = 0x1200 ∧ x.place (x.record.retRow 0 0 + 4) = 0x1204 ∧ regionOf 0x1200 ≠ .link ∧ regionOf 0x2000 ≠ .link ∧
     (inbox [aRow true true] x).canonical = true ∧ (inbox [aRow true true] x).stripOf x.owner = [] ∧
     (inbox [aRow true true] x).routeHeld x true (x.record.retRow 0 0) = false ∧
     ({ inbox [aRow true true] x with pillars := [⟨2, 0, ⟨7, 1⟩, false, .virt, 0x1200, 0x1204, [], false⟩] } : State).routeHeld x true
       (x.record.retRow 0 0) = true) ∧
    (tile [.late, .none, .none, .none]).slots[0]? = some .late ∧ bare.get 0 = 0 ∧ (bare.get 5).getLsbD 0 = true := by decide +kernel

/-- A route record at 0x8000: one row of one element, ids at 0x8100, weights at 0x8104; 31 entries of the table are used. -/
def routing (ids : Nat) : State :=
  let ws := [0x1000, 4 + 4 * 2 ^ 32, 0x8100, 0x8104, 0x1100, 0x1200, 1 + 2 ^ 16, 255 * 256]
  { at_ bare with
    mem := (((List.range 8).zip ws).foldl (fun m p => m.writeNat (0x8000 + 8 * p.1) 8 p.2) (Memory.mk [])).writeNat 0x8100 4 ids
    routeTiles := (List.range 31).map fun i => { tile [] with entry := i, id := 100 + i } }
/-- A hart whose ROUTE makes its reservations. -/
def reserving (t : RouteTile) (gs : List Target) : State :=
  { at_ (user.begin (.route 8 0xBF)) with routeTiles := [t], targets := gs }

theorem witness_ROUTE :
    gives (beginRoute 0x8000) (routing 0xFFFFFFFF) (fun r t => t.routeTiles.all (fun y => y.id != r.1 || y.accepted)) = true ∧
    gives (beginRoute 0x8000) (routing 0xFFFFFF03) (fun r t => (t.routeTiles.find? (fun y => y.id == r.1)).any fun x => !x.accepted) = true ∧
    (∀ x ∈ [tile [.pending, .none, .none, .none], tile [.dropped, .none, .none, .none]],
      (reserving x []).h.doing = some (.route 8 0xBF) ∧ x ∈ (reserving x []).routeTiles ∧ x.id = 8) ∧
    ({ reserving (tile []) [] with routeTiles := [] } : State).h.doing = some (.route 8 0xBF) ∧
    (0x8000 : Word).toNat < localBase ∧ (tile [.pending]).accepted = false ∧ (tile [.dropped]).accepted = true ∧ bare.doing = none ∧
    gives (recordWords 0x8000 8) (routing 0xFFFFFF03) = true ∧ (routing 0).h.strip = [] ∧ regionOf 0x8100 ≠ .link := by decide +kernel
/-- At firmware level an address lies at one place whatever the TLB holds. -/
theorem witness_ROUTE_lies : ∀ (u : State) (l : Nat), u = { routing 0 with tlb := u.tlb, tick := u.tick } →
    (u.locate (routing 0).h.space (BitVec.ofNat 64 0x8100) .load).1 = .ok l → l = 0x8100 := by
  intro u l hu h
  rw [hu, show (routing 0).h.space = ⟨.firmware, 0, 0, 0, 0, false⟩ from rfl] at h
  have e : (Except.ok 0x8100 : Except Fail Nat) = .ok l := by rw [← h]; rfl
  injection e with e
  exact e.symm
theorem witness_reservation :
    (tile [.pending, .none, .none, .none]).slots[0]? = some .pending ∧ (tile []).ids[0]? = some 3 ∧
    (let x := tile [.pending, .none, .none, .none]
     (reserving x []).routeTiles.find? (fun y => y.owner == ⟨7, 1⟩ && (reserving x []).canReserve y) = some x ∧
       (∀ y ∈ (reserving (tile [.dropped]) []).routeTiles, (reserving (tile [.dropped]) []).canReserve y = false)) ∧
    (reserving (tile [.pending]) []).targetFor (tile []) 3 = none ∧
    (let g := { aTarget 3 with refused := [7] }
     (reserving (tile [.pending]) [g]).target? 0 3 = some g ∧ (reserving (tile [.pending]) [g]).targetFor (tile []) 3 = none) ∧
    (∀ g ∈ [aTarget 3 ⟨9, 0⟩ [] 2 4, aTarget 3 ⟨9, 0⟩ [aRow true true 0] 2 8, aTarget 3 ⟨9, 0⟩ [aRow true true 0] 1 8],
      (reserving (tile [.pending]) [g]).targetFor (tile []) 3 = some g) ∧
    ((aTarget 3 ⟨9, 0⟩ [] 2 4).rowBytes < 4 * 2 ∧ 4 * 2 ≤ (aTarget 3 ⟨9, 0⟩ [] 2 8).rowBytes) ∧
    (let g := aTarget 3 ⟨9, 0⟩ [aRow true true 0] 2 8
     1 < g.cap ∧ (∀ r ∈ g.rows, r.q ≠ 1) ∧ ∀ p, p < 1 → ∃ r ∈ g.rows, r.q = p) ∧
    (let g := aTarget 3 ⟨9, 0⟩ [aRow true true 0] 1 8
     ∀ q, q < g.cap → ∃ r ∈ g.rows, r.q = q) ∧
    (∀ p ∈ [0, 1, 2], (tile [] p).record.policy = p) ∧ (tile [] 1).record.fallback = 255 ∧ (tile [] 1 4).record.fallback ≠ 255 ∧
    (reserving (tile [.pending] 1 4) []).targetFor (tile []) 4 = none ∧
    (reserving (tile [.pending] 1 4) [aTarget 4]).targetFor (tile []) 4 = some (aTarget 4) := by
  decide +kernel
theorem witness_reserving_hart : (reserving (tile [.pending]) []).hartOf? ⟨7, 1⟩ = some (user.begin (.route 8 0xBF)) := rfl

theorem witness_delivery :
    let x := tile [.reserved 3 0, .none, .none, .none]
    let s := inbox [aRow false false] x
    let mine (r : InboxRow) : Bool := r.owedBy x && r.row == 0 && r.slot == 0
    s.canonical = true ∧ s.tile? 0 31 = some x ∧ s.targets.find? (fun g => g.rows.any mine) = some (aTarget 3 ⟨7, 1⟩ [aRow false false]) ∧
    (aTarget 3 ⟨7, 1⟩ [aRow false false]).rows.find? mine = some (aRow false false) ∧
    x.place (x.record.srcRow 0) = 0x1000 ∧ 0x1008 ≤ scratchLoc 0 ∧ regionOf 0x1000 ≠ .link ∧ regionOf (scratchLoc 0) ≠ .link := by decide +kernel

/-- A tile whose timer expires, with the flag of cause 20 or without it; no such tile; two entries of one hart, lowest first. -/
theorem witness_routeTimeout :
    let flagged (n : Nat) (slots : List SlotState) : RouteTile := { tile slots with record := { (tile slots).record with flags := n } }
    (inbox [] (flagged 2 [.reserved 3 0])).tile? 0 31 = some (flagged 2 [.reserved 3 0]) ∧ (flagged 2 []).record.flags / 2 % 2 = 1 ∧
    SlotState.reserved 3 0 ∈ (flagged 2 [.reserved 3 0]).slots ∧ (inbox [] (tile [.late])).tile? 0 31 = some (tile [.late]) ∧
    (tile []).record.flags / 2 % 2 ≠ 1 ∧ (at_ user).tile? 0 31 = none := by decide +kernel
/-- A return of the first element of row 0 carries a mark: FAULT; the same mark where nothing returned: none. -/
theorem witness_reassembly_fault :
    let s : State := { inbox [] (tile [.returned, .none, .none, .none]) with poison := [0x240] }
    s.canonical = true ∧ s.tile? 0 31 = some (tile [.returned, .none, .none, .none]) ∧ marked s.poison 0x1200 4 = true ∧
    (tile []).place ((tile []).record.retRow 0 0 + 0) = 0x1200 ∧
    (tile [.late, .dropped, .none, .none]).slots.all (fun y => y != .returned) = true ∧
    (let x := { tile [.late] with record := { (tile [.late]).record with flags := 3 } }
     x.slots.contains .late = true ∧ x.record.flags / 2 % 2 = 1 ∧ x.record.flags % 2 = 1) := by decide +kernel
theorem witness_weightedSum : weightedSum [(0x3F800000, 0x40000000)] = some 0x40000000 := by decide +kernel
theorem witness_RoutesReassemble :
    (∀ x ∈ [tile [.returned, .none, .none, .none], tile [.late, .dropped, .none, .none]],
      (inbox [] x).canonical = true ∧ (inbox [] x).tile? 0 31 = some x ∧ (inbox [] x).stripOf x.owner = [] ∧ (inbox [] x).poison = [] ∧ 0 < x.record.rows ∧
      (inbox [] x).tileOf 0 x.handle = some x ∧ x.status = .running) ∧
    (let x := tile [.returned, .none, .none, .none]
     x.place (x.record.outRow 0) = 0x1100 ∧ x.place (x.record.outRow 0 + 4) = 0x1104 ∧
     ([0, 1, 2, 3].all fun i => [0, 4].all fun j => decide (0x1108 ≤ x.place (x.record.retRow 0 i + j)) && regionOf (x.place (x.record.retRow 0 i + j)) != .link) = true) ∧
    (tile [.returned]).slots.contains .late = false ∧ (tile [.late]).slots.contains .late = true ∧
    (at_ user).tileOf 0 5 = none ∧ ({ tile [] with status := .done } : RouteTile).status ≠ .running ∧
    ((tile []).left ≠ 0 ∧ (tile []).expired = false) ∧ ((at_ user).h.get 5).toNat > 3 := by decide +kernel
theorem witness_reassembly_hart : ∃ h, (inbox [] (tile [.returned])).hartOf? (tile [.returned]).owner = some h ∧ h.lamps.length < 16 :=
  ⟨_, rfl, by decide +kernel⟩

/-! ### The device -/

theorem witness_DeviceErrorsAndDebug :
    (let s : State := { at_ { user with stop := 1, gang := true } with
       others := [{ user with key := ⟨7, 2⟩ }, { user with key := ⟨9, 0⟩ }], targets := [aTarget 3 ⟨9, 0⟩ [{ aRow false false with tileStop := 1 }]]
       routeTiles := [{ tile [.reserved 3 0, .reserved 3 1, .none, .none] with stop := 1 }, tile []] }
     (s.harts.map (·.key)).Nodup ∧ (s.routeTiles.map fun y => (y.stop, y.entry)).Nodup ∧ (s.targets.map (·.owner)).Nodup ∧
     (∃ g ∈ s.targets, g.owner = ⟨9, 0⟩ ∧ ∃ r ∈ g.rows, r.tileStop = 1 ∧ r.tileEntry = 31 ∧ r.tileGen = 5 ∧ 4 * r.row + r.slot = 0) ∧ ∃ h ∈ s.others, h.stop = 0 ∧ h.key = ⟨9, 0⟩) ∧
    (∀ v ∈ [32, 0x10001000, 0x30000000], let sel := v
      2 < sel / 0x10000000 ∨ (sel / 0x10000000 = 0 ∧ 32 ≤ sel % 0x20000) ∨ (sel / 0x10000000 = 1 ∧ 4096 ≤ sel % 0x20000)) ∧
    (let s := at_ user
     (s.focus user.key).h = user ∧ 7 < 8 ∧ 11 < 12) ∧
    ((pushing true 0).harts.map (·.key)).Nodup ∧ member.launchOf 7 = some (anEntry 7 .running) ∧
    (∃ h ∈ ({ at_ { user with stop := 1, gang := true } with others := [{ user with key := ⟨7, 2⟩ }] } : State).others, h.stop = 0 ∧ h.key.lid = 7) ∧
    (at_ user).debugHart 0 = some user ∧ ((at_ user).core 0).dbgsel.toNat = 0 ∧
    (∀ v ∈ [31, 0x10000000, 0x20000000 + 0x1FFFF], (({ at_ user with cores := [⟨0, 0, BitVec.ofNat 64 v, 0, 0⟩] } : State).core 0).dbgsel.toNat = v ∧
      ({ at_ user with cores := [⟨0, 0, BitVec.ofNat 64 v, 0, 0⟩] } : State).debugHart 0 = some user) ∧
    ({ at_ user with devstat := 5, hdm := some 4096 } : State).devstat.getLsbD 0 = true ∧ (at_ user).devstat.getLsbD 0 = false ∧ (at_ user).outside = none ∧
    ({ at_ user with hdm := some 4096 } : State).hdm = some 4096 ∧ 4096 ≤ 0x8000000FF8 ∧ 0x8000000FF8 + 8 ≤ 4096 + 0x8000000000 ∧ 0x7FFFFFFFFF < 0x8000000000 ∧
    159 < 160 := by decide +kernel

-- 24 R355, 08 R167: DBGSEL keeps [31:28] and [16:0]; a host write of its upper half leaves the lower half (log 50).
theorem test_bar_half : (((at_ user).barAccess 0xF000028100008 8 (some 0x55667788)).barAccess 0xF00002810000A 2 (some 0xA000)).core 0 =
    ⟨0, 0, 0xA0007788, 0, 0⟩ := by decide +kernel

theorem witness_DeviceManagement :
    State.reset.assay.en = true ∧ State.reset.assay.busy = none ∧ State.reset.canonical = true ∧ State.reset.assay.final.wf = true ∧
    State.reset.assay.final.cells.all (fun c => c.1 < 0x8000000000) = true ∧ (State.reset.assay.allDirty = true ∨ 0 ∈ State.reset.assay.dirty) ∧
    ({ State.reset with assay := { busy := some ⟨[]⟩ } } : State).assay.busy = some ⟨[]⟩ ∧ 3 < 4 ∧ 11 < 12 ∧ (1 : Nat) ≤ 3 := by decide +kernel
/-- Each step of bring-up is due in some state; no step is due at reset. -/
theorem witness_bring_up : (∀ b ∈ [BringUp.links, .memory, .stewards],
      ({ State.reset with bringUp := some b } : State).bringUp = some b ∧ ({ State.reset with bringUp := some b } : State).outside ≠ some .power) ∧
    State.reset.bringUp = none ∧ ({ State.reset with outside := some .power } : State).outside = some .power := by decide +kernel

/-! ### Encoding, steps, invariants -/

theorem witness_EncodeThenDecode : Instr.wellFormed (.add 12 13 14) = true := by decide
theorem witness_DecodeThenEncode : decode 0x635C8000 = .ok (.add 12 13 14) := by rfl
theorem test_tan_word : decode 0x1120C0200000FE01 = .ok (.tan 0 (.vadd ⟨2, 4, 0x10, false, false, 0, true, 0⟩)) := by rfl
theorem test_zero_parcel : decode 0 = .ok (.cIll 0) := by rfl
theorem test_major_43 : ∃ r, decode 0xD600 = .error r := ⟨_, rfl⟩
theorem test_prefix_kind : decode 0xFE02 = .error .prefixKind := by rfl
theorem test_tan_before_add : ∃ r, decode 0x635C80000000FE01 = .error r := ⟨_, rfl⟩
theorem test_table_word : decodeTableWord 32 0x635C8000 = some (.add 12 13 14) := by decide +kernel

/-- A hart about to fetch a word. -/
def fetching (w : Nat) : State := { at_ bare with turn := .hart, mem := (Memory.mk []).writeNat 0x10000 8 w }
theorem witness_StepRunsDecoded :
    (fetching 0x635C8000).turn = .hart ∧ bare.due = none ∧ bare.pc.toNat % 2 = 0 ∧ (∀ k, k < 2 → (fetching 0x635C8000).cachedAt (0x10000 + 2 * k) = []) ∧
    gives (fetchCode 0x10000) (fetching 0x635C8000) (fun c _ => c.bits == 0x635C8000 && c.len == 2) = true ∧
    gives (fetchCode 0x10000) (fetching 0) (fun c _ => c.bits == 0) = true ∧
    (match (fetchCode 0x10001).run.run (fetching 0) with | (.error (.trap c _), _) => c == 2 | _ => false) = true ∧
    (∀ k, k < 2 → finds (fetching 0x635C8000) (0x10000 + BitVec.ofNat 64 (2 * k)) .fetch (0x10000 + 2 * k) = true) ∧
    State.reset.turn = .event .powerGood ∧ ({ user with haltReq := true } : Hart).due = some (.event (.debugHalt user.key)) ∧
    marked (fetching 0).poison 0x10000 2 = false := by decide +kernel
theorem test_step_add : next (step (State.reset.withFetchWord 32 0x635C8000)) (fun t => t.h.pc == 0x10004) = true := by decide +kernel
theorem test_step_illegal : next (step (State.reset.withFetchWord 16 0)) (fun t => t.h.trapcause == 0 && t.h.level == .supervisor) = true := by
  decide +kernel

theorem witness_invariants : State.reset.canonical = true ∧ State.reset.extentsOk = true ∧ State.reset.turnFits = true ∧
    (fetching 0x635C8000).canonical = true ∧ (fetching 0x635C8000).turnFits = true := by decide +kernel
theorem witness_invariants_step : ∃ t, step State.reset = .next t := ⟨_, rfl⟩

/-! ### Words that the spec works out (06 R105, R109; 09 R188, R190; 21 R323; 25 R375) -/

theorem test_spec_words_scalar : decode 0x635C9169 = .ok (.acas ⟨true, 1, 2, 12, 13, 14⟩) ∧
    decode 0x6343920E = .ok (.fcvt ⟨2, 0, 12, 13, 1⟩) := by refine ⟨?_, ?_⟩ <;> rfl
theorem test_spec_words_route : decode 0x7300AC06 = .ok (.route 14 12) ∧ decode 0x7800AC07 = .ok (.rrecv 15 0) ∧
    decode 0x6B80AC09 = .ok (.rwait 13 14) ∧ decode 0x6B9EAC0A = .ok (.rstat 13 14 15) := by
  refine ⟨?_, ?_, ?_, ?_⟩ <;> rfl
theorem test_spec_words_memory : decode 0x03C0B060 = .ok (.vld ⟨0, 15, 0, false, 0, true, 4⟩) ∧
    decode 0x1B00B243 = .ok (.vspill ⟨3, 12, 0, false, 0, true, 0⟩) ∧ decode 0x1440B250 = .ok (.vst ⟨2, 17, 0, false, 0, true, 2⟩) := by
  refine ⟨?_, ?_, ?_⟩ <;> rfl

end Sys2Proof.Tests
end

section
/-! SUPPORT. The division codes of 06 R100 and FCLASS of 06 R108: what the register-register shape does, the values of the
division functions as integers, and the classes of a floating format by its fields. -/
namespace Sys2Proof.Machine

/-! ### The register-register shape -/

/-- An instruction of the register-register shape writes s[a] and retires; it never traps. -/
theorem run_binary (f : Word → Word → Word) (a b c : SReg) (s : State) :
    run (binary f a b c) s = .next (s.writes a (f (s.h.get b) (s.h.get c))) :=
  run_gives (gives_bind (eval_rd b s) (gives_bind (eval_rd c s)
    (gives_bind (eval_wr a (f (s.h.get b) (s.h.get c)) s) (eval_retire 4 _))))

/-! ### Division on the integers that the operands stand for -/

section Division
variable {n : Nat}

theorem eq_intMin_iff_toInt (hn : 0 < n) (x : BitVec n) : x = BitVec.intMin n ↔ x.toInt = -2 ^ (n - 1) := by
  have hmin : (BitVec.intMin n).toInt = -2 ^ (n - 1) := by
    rw [BitVec.toInt_intMin, Nat.mod_eq_of_lt (Nat.pow_lt_pow_right (by omega) (by omega))]
    push_cast
    rfl
  rw [← BitVec.toInt_inj, hmin]

theorem eq_allOnes_iff_toInt (hn : 0 < n) (y : BitVec n) : y = BitVec.allOnes n ↔ y.toInt = -1 := by
  rw [← BitVec.toInt_inj, BitVec.toInt_allOnes, if_pos hn]

theorem intMax_eq_ofInt : BitVec.intMax n = BitVec.ofInt n (2 ^ (n - 1) - 1) := by
  rw [← BitVec.toInt_intMax, BitVec.ofInt_toInt]

/-- Apart from the one quotient that overflows, the truncated quotient is representable. -/
theorem sdiv_eq_ofInt_tdiv {x y : BitVec n} (h : ¬ (x = BitVec.intMin n ∧ y = BitVec.allOnes n)) :
    x.sdiv y = BitVec.ofInt n (x.toInt.tdiv y.toInt) := by
  have hne : x ≠ BitVec.intMin n ∨ y ≠ -1#n := by
    rw [BitVec.neg_one_eq_allOnes]
    exact not_and_or.mp h
  rw [← BitVec.toInt_sdiv_of_ne_or_ne x y hne, BitVec.ofInt_toInt]

theorem msb_eq_false_iff_toInt_pos {x : BitVec n} (hx : x ≠ 0) : x.msb = false ↔ 0 < x.toInt := by
  have hne : x.toInt ≠ 0 := fun h => hx (BitVec.toInt_inj.mp (h.trans BitVec.toInt_zero.symm))
  rw [BitVec.msb_eq_toInt, decide_eq_false_iff_not]
  omega

/-- DIVS at `n` bits, row by row of the table of R100. -/
theorem divSigned_eq_table (hn : 0 < n) (x y : BitVec n) :
    divSigned x y =
      if y = 0 then
        if x = 0 then 0 else if 0 < x.toInt then BitVec.ofInt n (2 ^ (n - 1) - 1) else BitVec.ofInt n (-2 ^ (n - 1))
      else if x.toInt = -2 ^ (n - 1) ∧ y.toInt = -1 then BitVec.ofInt n (2 ^ (n - 1) - 1)
      else BitVec.ofInt n (x.toInt.tdiv y.toInt) := by
  unfold divSigned
  by_cases hy : y = 0
  · rw [if_pos hy, if_pos hy]
    by_cases hx : x = 0
    · rw [if_pos hx, if_pos hx]
    · rw [if_neg hx, if_neg hx, ← intMax_eq_ofInt, ← BitVec.intMin_eq_neg_two_pow]
      by_cases hpos : 0 < x.toInt
      · simp [hpos, (msb_eq_false_iff_toInt_pos hx).mpr hpos]
      · have hmsb : x.msb = true := by
          rw [← Bool.not_eq_false, msb_eq_false_iff_toInt_pos hx]
          exact hpos
        simp [hpos, hmsb]
  · simp only [if_neg hy, ← eq_intMin_iff_toInt hn, ← eq_allOnes_iff_toInt hn]
    by_cases hover : x = BitVec.intMin n ∧ y = BitVec.allOnes n
    · rw [if_pos hover, if_pos hover, intMax_eq_ofInt]
    · rw [if_neg hover, if_neg hover, sdiv_eq_ofInt_tdiv hover]

/-- DIVN at `n` bits. -/
theorem divNatural_eq_table (x y : BitVec n) :
    divNatural x y =
      if y = 0 then if x = 0 then 0 else BitVec.ofNat n (2 ^ n - 1) else BitVec.ofNat n (x.toNat / y.toNat) := by
  rw [← BitVec.toNat_udiv, BitVec.ofNat_toNat, BitVec.setWidth_eq, ← BitVec.toNat_allOnes, BitVec.ofNat_toNat,
    BitVec.setWidth_eq]
  rfl

/-- REMS at `n` bits. -/
theorem remSigned_eq_table (x y : BitVec n) :
    remSigned x y = if y = 0 then x else BitVec.ofInt n (x.toInt.tmod y.toInt) := by
  rw [← BitVec.toInt_srem, BitVec.ofInt_toInt]
  rfl

/-- REMN at `n` bits. -/
theorem remNatural_eq_table (x y : BitVec n) :
    remNatural x y = if y = 0 then x else BitVec.ofNat n (x.toNat % y.toNat) := by
  rw [← BitVec.toNat_umod, BitVec.ofNat_toNat, BitVec.setWidth_eq]
  rfl

end Division

/-- Settles O2: each division code has the register-register shape, so it always answers a next state, and its value is
the table's at 64 bits, or at 32 bits on the low halves; the two worked words are evaluated. -/
theorem divisionTable : Obligations.DivisionTable := by
  unfold Obligations.DivisionTable
  intro quotS quotN remS remN a b c s x y
  have hquotS (n : Nat) (hn : 0 < n) (x y : BitVec n) : divSigned x y = quotS n x y := divSigned_eq_table hn x y
  have hquotN (n : Nat) (x y : BitVec n) : divNatural x y = quotN n x y := divNatural_eq_table x y
  have hremS (n : Nat) (x y : BitVec n) : remSigned x y = remS n x y := remSigned_eq_table x y
  have hremN (n : Nat) (x y : BitVec n) : remNatural x y = remN n x y := remNatural_eq_table x y
  rw [← hquotS 64 (by decide), ← hquotN, ← hremS, ← hremN, ← hquotS 32 (by decide), ← hquotN, ← hremS, ← hremN]
  exact ⟨run_binary _ a b c s, run_binary _ a b c s, run_binary _ a b c s, run_binary _ a b c s,
    run_binary (onWords _) a b c s, run_binary (onWords _) a b c s, run_binary (onWords _) a b c s,
    run_binary (onWords _) a b c s, rfl, rfl⟩

/-! ### Scalar registers -/

theorem Hart.get_eq_of_s_eq {h h' : Hart} (hs : h.s = h'.s) (r : SReg) : h.get r = h'.get r := by
  unfold Hart.get
  rw [hs]

theorem Hart.get_set_same (h : Hart) (r : SReg) (v : Word) : (h.set r v).get r = if r = 0 then 0 else v := by
  unfold Hart.get
  by_cases hr : r = 0
  · rw [if_pos hr, if_pos hr]
  · rw [if_neg hr, if_neg hr]
    simp only [Hart.set, if_neg hr, Vector.getElem_set_self]

/-! ### Floating instructions that raise no flag -/

theorem gives_checkFlags_zero (s : State) : Gives (checkFlags 0) s () s := by
  have hoff : enabled s.h.fcsr 0 = 0 := BitVec.zero_and
  unfold checkFlags
  refine gives_bind (eval_hart s) ?_
  rw [if_neg (not_not.mpr hoff)]
  exact gives_pure () s

/-- A result without flags completes and leaves its bits in s[a]. -/
theorem gives_floatWrite_of_flags_zero (o : FOps) {r : FResult} (hr : r.flags = 0) (s : State) :
    ∃ t, Gives (floatWrite o r) s () t ∧ t.h.get o.a = if o.a = 0 then 0 else BitVec.ofNat 64 r.bits := by
  unfold floatWrite
  rw [hr]
  refine ⟨_, gives_bind (gives_checkFlags_zero s) (gives_bind (eval_modHart _ s) (gives_bind (eval_get _)
    (gives_bind (eval_modHart _ _) (eval_retire 4 _)))), ?_⟩
  rw [State.retire_h, Hart.get_eq_of_s_eq (Hart.goTo_s _ _), State.onHart_h, Hart.get_eq_of_s_eq (Hart.setTans_s _ _ _),
    Hart.get_set_same]

/-- FCLASS completes and leaves the one bit of the class in s[a]. -/
theorem exec_fclass (o : FOps) (s : State) :
    ∃ t, exec (.fclass o) s = .next t ∧ t.h.get o.a = if o.a = 0 then 0 else
      BitVec.ofNat 64 (2 ^ (scalarFmt o.fmt).classBit ((s.h.get o.b).toNat % 2 ^ (scalarFmt o.fmt).bits)) := by
  obtain ⟨t, ht, hget⟩ := gives_floatWrite_of_flags_zero o (r := {
    bits := (BitVec.ofNat 64 (2 ^ (scalarFmt o.fmt).classBit ((s.h.get o.b).toNat % 2 ^ (scalarFmt o.fmt).bits))).toNat
    flags := 0, tan := fun _ => .num .zero, nan := false }) rfl s
  refine ⟨t, run_gives (gives_bind (eval_hart s) ht), ?_⟩
  rw [hget, BitVec.ofNat_toNat, BitVec.setWidth_eq]

/-! ### The classes of a format by its fields -/

/-- A format whose largest exponent field holds the infinities and the NaNs (04 R47). -/
structure FloatFmt.Ieee (f : FloatFmt) : Prop where
  nan : f.nan = .ieee
  exp_pos : 0 < f.exp
  frac_pos : 0 < f.frac

theorem scalarFmt_ieee (c : BitVec 2) : (scalarFmt c).Ieee := by
  unfold scalarFmt
  split <;> exact ⟨rfl, by decide, by decide⟩

/-- The exponent field of a pattern. -/
def FloatFmt.expField (f : FloatFmt) (v : Nat) : Nat := v / 2 ^ f.frac % 2 ^ f.exp
/-- The fraction field of a pattern. -/
def FloatFmt.fracField (f : FloatFmt) (v : Nat) : Nat := v % 2 ^ f.frac
/-- The sign of a pattern. -/
def FloatFmt.negField (f : FloatFmt) (v : Nat) : Bool := v / 2 ^ (f.exp + f.frac) % 2 = 1

/-- The class bit of the table of R108 by the sign, the exponent field `e` and the fraction field `m`; `top` is the exponent
field of all ones and `half` the weight of the quiet bit. -/
def fieldClass (neg : Bool) (e m top half : Nat) : Nat :=
  if e < top then
    if e = 0 then
      if m = 0 then if neg then 9 else 8
      else if neg then 7 else 6
    else if neg then 5 else 4
  else if m = 0 then if neg then 3 else 2
  else if m < half then 0 else 1

/-- Each class is the one bit that its row of the table of R108 names. -/
theorem fieldClass_table (neg : Bool) {e m top half : Nat} (htop : 0 < top) (hhalf : 0 < half) (he : e ≤ top) :
    let k := fieldClass neg e m top half
    k < 10 ∧
      (k = 0 ↔ e = top ∧ m ≠ 0 ∧ m < half) ∧ (k = 1 ↔ e = top ∧ half ≤ m) ∧
      (k = 2 ↔ e = top ∧ m = 0 ∧ ¬ neg) ∧ (k = 3 ↔ e = top ∧ m = 0 ∧ neg) ∧
      (k = 4 ↔ 0 < e ∧ e < top ∧ ¬ neg) ∧ (k = 5 ↔ 0 < e ∧ e < top ∧ neg) ∧
      (k = 6 ↔ e = 0 ∧ m ≠ 0 ∧ ¬ neg) ∧ (k = 7 ↔ e = 0 ∧ m ≠ 0 ∧ neg) ∧
      (k = 8 ↔ e = 0 ∧ m = 0 ∧ ¬ neg) ∧ (k = 9 ↔ e = 0 ∧ m = 0 ∧ neg) := by
  intro k
  by_cases hfin : e < top
  · by_cases hzero : e = 0
    · by_cases hm : m = 0 <;> cases neg <;> simp [k, fieldClass, hzero, hm, htop] <;> omega
    · cases neg <;> simp [k, fieldClass, hfin, hzero] <;> omega
  · have hinf : e = top := by omega
    by_cases hm : m = 0
    · cases neg <;> simp [k, fieldClass, hinf, hm] <;> omega
    · by_cases hquiet : m < half <;> simp [k, fieldClass, hinf, hm, hquiet] <;> omega

section Fields
variable {f : FloatFmt} (v : Nat)

theorem FloatFmt.code_eq_fields : v % 2 ^ (f.exp + f.frac) = f.fracField v + 2 ^ f.frac * f.expField v := by
  rw [Nat.add_comm f.exp, pow_add, Nat.mod_mul]
  rfl

theorem FloatFmt.fracField_lt : f.fracField v < 2 ^ f.frac := Nat.mod_lt _ (by positivity)

theorem FloatFmt.expField_le : f.expField v ≤ 2 ^ f.exp - 1 := by
  have h : f.expField v < 2 ^ f.exp := Nat.mod_lt _ (by positivity)
  omega

/-- The infinities follow the largest finite code. -/
theorem FloatFmt.Ieee.maxCode_add_one (hf : f.Ieee) : f.maxCode + 1 = 2 ^ f.frac * (2 ^ f.exp - 1) := by
  have hexp : 2 ≤ 2 ^ f.exp := Nat.le_self_pow hf.exp_pos.ne' 2
  have hpos : 0 < (2 ^ f.exp - 1) * 2 ^ f.frac := Nat.mul_pos (by omega) (by positivity)
  simp only [FloatFmt.maxCode, hf.nan]
  rw [Nat.sub_add_cancel hpos, Nat.mul_comm]

/-- A code is finite exactly when its exponent field is not all ones. -/
theorem FloatFmt.Ieee.code_le_maxCode_iff (hf : f.Ieee) :
    v % 2 ^ (f.exp + f.frac) ≤ f.maxCode ↔ f.expField v < 2 ^ f.exp - 1 := by
  rw [← Nat.lt_add_one_iff, hf.maxCode_add_one, FloatFmt.code_eq_fields]
  have hfrac := f.fracField_lt v
  constructor
  · intro h
    exact Nat.lt_of_mul_lt_mul_left (a := 2 ^ f.frac) (by omega)
  · intro h
    calc f.fracField v + 2 ^ f.frac * f.expField v
      _ < 2 ^ f.frac * (f.expField v + 1) := by rw [Nat.mul_add_one]; omega
      _ ≤ 2 ^ f.frac * (2 ^ f.exp - 1) := Nat.mul_le_mul_left _ h

/-- The quiet bit is the top bit of the fraction field. -/
theorem FloatFmt.Ieee.quiet_clear_iff (hf : f.Ieee) :
    v % 2 ^ (f.exp + f.frac) / 2 ^ (f.frac - 1) % 2 = 0 ↔ f.fracField v < 2 ^ (f.frac - 1) := by
  have hhalf : 2 ^ f.frac = 2 ^ (f.frac - 1) * 2 := by rw [← pow_succ, Nat.sub_add_cancel hf.frac_pos]
  have hdiv : f.fracField v / 2 ^ (f.frac - 1) < 2 := Nat.div_lt_of_lt_mul (hhalf ▸ f.fracField_lt v)
  have hpos : 0 < 2 ^ (f.frac - 1) := by positivity
  rw [FloatFmt.code_eq_fields, hhalf, Nat.mul_assoc, Nat.add_mul_div_left _ _ hpos, Nat.add_mul_mod_self_left,
    Nat.mod_eq_of_lt hdiv, Nat.div_eq_zero_iff_lt hpos]

theorem FloatFmt.code_lt_iff_expField_eq_zero :
    v % 2 ^ (f.exp + f.frac) < 2 ^ f.frac ↔ f.expField v = 0 := by
  rw [FloatFmt.code_eq_fields, ← Nat.div_eq_zero_iff_lt (by positivity), Nat.add_mul_div_left _ _ (by positivity),
    Nat.div_eq_of_lt (f.fracField_lt v), Nat.zero_add]

theorem FloatFmt.magnitude_eq_zero_iff :
    (f.magnitude (v % 2 ^ (f.exp + f.frac))).1 = 0 ↔ f.expField v = 0 ∧ f.fracField v = 0 := by
  have hexp : v % 2 ^ (f.exp + f.frac) / 2 ^ f.frac = f.expField v := by
    rw [FloatFmt.code_eq_fields, Nat.add_mul_div_left _ _ (by positivity), Nat.div_eq_of_lt (f.fracField_lt v),
      Nat.zero_add]
  have hfrac : v % 2 ^ (f.exp + f.frac) % 2 ^ f.frac = f.fracField v := by
    rw [FloatFmt.code_eq_fields, Nat.add_mul_mod_self_left, Nat.mod_eq_of_lt (f.fracField_lt v)]
  simp only [FloatFmt.magnitude, hexp, hfrac]
  by_cases he : f.expField v = 0 <;> simp [he]

/-- The class bit of a pattern, read off its fields. -/
theorem FloatFmt.Ieee.classBit_eq_fields (hf : f.Ieee) :
    f.classBit v = fieldClass (f.negField v) (f.expField v) (f.fracField v) (2 ^ f.exp - 1) (2 ^ (f.frac - 1)) := by
  unfold FloatFmt.classBit FloatFmt.value fieldClass
  by_cases htop : f.expField v < 2 ^ f.exp - 1
  · have hcode := (hf.code_le_maxCode_iff v).mpr htop
    simp only [hcode, htop, if_true, FloatFmt.magnitude_eq_zero_iff, FloatFmt.code_lt_iff_expField_eq_zero]
    by_cases he : f.expField v = 0 <;> by_cases hm : f.fracField v = 0 <;> simp [he, hm, FloatFmt.negField]
  · have hcode := mt (hf.code_le_maxCode_iff v).mp htop
    have hinf : v % 2 ^ (f.exp + f.frac) = f.maxCode + 1 ↔ f.fracField v = 0 := by
      have he := f.expField_le v
      rw [hf.maxCode_add_one, FloatFmt.code_eq_fields, show f.expField v = 2 ^ f.exp - 1 by omega]
      omega
    simp only [hcode, htop, if_false, hf.nan, hinf, hf.quiet_clear_iff]
    by_cases hm : f.fracField v = 0
    · simp [hm, FloatFmt.negField]
    · by_cases hquiet : f.fracField v < 2 ^ (f.frac - 1) <;> simp [hm, hquiet]

/-- Within a format's bits the sign is the quotient by the weight of its bit. -/
theorem FloatFmt.negField_iff {v : Nat} (hv : v < 2 ^ f.bits) : f.negField v = true ↔ v / 2 ^ (f.exp + f.frac) = 1 := by
  have hquot : v / 2 ^ (f.exp + f.frac) < 2 := by
    refine Nat.div_lt_of_lt_mul ?_
    rwa [← pow_succ, Nat.add_comm, ← Nat.add_assoc]
  rw [FloatFmt.negField, decide_eq_true_iff, Nat.mod_eq_of_lt hquot]

end Fields

/-- Settles O21: FCLASS leaves the bit of the operand's class, and a scalar format's class is the table's row of the
operand's fields. -/
theorem floatClasses : Obligations.FloatClasses := by
  unfold Obligations.FloatClasses
  intro o s f v neg e m top
  have hf : f.Ieee := scalarFmt_ieee o.fmt
  have htop : 0 < top := Nat.sub_pos_of_lt (Nat.one_lt_two_pow hf.exp_pos.ne')
  have hneg : f.negField v = true ↔ neg := FloatFmt.negField_iff (Nat.mod_lt _ (by positivity))
  have htable := fieldClass_table (f.negField v) (m := m) htop (by positivity : 0 < 2 ^ (f.frac - 1)) (f.expField_le v)
  rw [hneg] at htable
  obtain ⟨t, hexec, hget⟩ := exec_fclass o s
  exact ⟨_, t, hexec, hf.classBit_eq_fields v ▸ hget, htable⟩

end Sys2Proof.Machine
end

section
/-! SUPPORT. The lamp handler of 08 R156 to R158: the exchange of the banks, what UIRET does to a hart, TRAPCAUSE.LAMP, and
the device without a hart that has retired. -/
namespace Sys2Proof.Machine

/-! ### The two banks of s12 to s19 -/

theorem Hart.swapBank_s (h : Hart) : h.swapBank.s =
    ((((((((h.s.set 12 h.alt[0]).set 13 h.alt[1]).set 14 h.alt[2]).set 15 h.alt[3]).set 16 h.alt[4]).set 17 h.alt[5]).set 18
      h.alt[6]).set 19 h.alt[7]) := rfl

theorem Hart.swapBank_alt (h : Hart) :
    h.swapBank.alt = #v[h.s[12], h.s[13], h.s[14], h.s[15], h.s[16], h.s[17], h.s[18], h.s[19]] := rfl

theorem Hart.swapBank_s_banked (h : Hart) {i : Nat} (hi : i < 8) : h.swapBank.s[12 + i]! = h.alt[i]! := by
  rw [Hart.swapBank_s]
  interval_cases i <;> simp

theorem Hart.swapBank_alt_banked (h : Hart) {i : Nat} (hi : i < 8) : h.swapBank.alt[i]! = h.s[12 + i]! := by
  rw [Hart.swapBank_alt]
  interval_cases i <;> simp

/-- Registers outside s12 to s19 have one bank. -/
theorem Hart.swapBank_s_of_not_banked (h : Hart) {r : Fin 32} (hr : r.val < 12 ∨ 19 < r.val) :
    h.swapBank.s[r] = h.s[r] := by
  have hne (k : Nat) (hlow : 12 ≤ k) (hhigh : k ≤ 19) : k ≠ r.val := by omega
  simp [Hart.swapBank_s, hne]

@[simp] theorem Hart.swapBank_level (h : Hart) : h.swapBank.level = h.level := by simp only [Hart.swapBank]
@[simp] theorem Hart.swapBank_lamps (h : Hart) : h.swapBank.lamps = h.lamps := by simp only [Hart.swapBank]

/-! ### The return from a lamp handler -/

theorem Hart.lampReturn_s (h : Hart) : h.lampReturn.s = h.swapBank.s := rfl
theorem Hart.lampReturn_alt (h : Hart) : h.lampReturn.alt = h.swapBank.alt := rfl
@[simp] theorem Hart.lampReturn_pc (h : Hart) : h.lampReturn.pc = h.get 12 := rfl
@[simp] theorem Hart.lampReturn_lampcause (h : Hart) :
    h.lampReturn.lampcause = h.lampcause &&& ~~~0x8000000000000000 := rfl
@[simp] theorem Hart.lampReturn_strip (h : Hart) : h.lampReturn.strip = [] := rfl
@[simp] theorem Hart.lampReturn_rbuf (h : Hart) : h.lampReturn.rbuf = [] := rfl
@[simp] theorem Hart.lampReturn_level (h : Hart) : h.lampReturn.level = h.level := by
  simp [Hart.lampReturn, Hart.endDoing]
@[simp] theorem Hart.lampReturn_lamps (h : Hart) : h.lampReturn.lamps = h.lamps := by
  simp [Hart.lampReturn, Hart.endDoing]

@[simp] theorem Hart.lampReturn_inLamp (h : Hart) : h.lampReturn.inLamp = false := by
  simp [Hart.inLamp]

theorem exec_uiret_outside (s : State) (h : s.h.inLamp = false) :
    exec .uiret s = .next (s.takeTrap 0 (s.trapBits (encode .uiret))) := by
  refine run_trap ?_
  simp only [eval_bind, eval_hart, h]
  rfl

theorem exec_uiret_inside (s : State) (h : s.h.inLamp = true) : exec .uiret s = .next (s.onHart Hart.lampReturn) := by
  refine run_gives (gives_bind (eval_hart s) ?_)
  rw [h]
  exact eval_modHart Hart.lampReturn s

/-! ### Lamps and traps inside a handler -/

theorem Hart.lampDue_of_inLamp {h : Hart} (hin : h.inLamp = true) : h.lampDue = false := by
  simp [Hart.lampDue, hin]

theorem State.onKey_focused {s : State} (hlive : s.h.live = true) (f : Hart → Hart) :
    s.onKey s.h.key f = s.onHart f := by
  simp [State.onKey, hlive]

theorem exec_lampDelivery_focused {s : State} (hlive : s.h.live = true) :
    exec (.lampDelivery s.h.key) s = .next (s.onHart fun h => if h.lampDue then h.deliverLamp else h) :=
  congrArg Host.Outcome.next (State.onKey_focused hlive _)

/-- LAMP_DELIVERY passes over a hart that no lamp is due at. -/
theorem exec_lampDelivery_of_not_due {s : State} (hlive : s.h.live = true) (hdue : s.h.lampDue = false) :
    exec (.lampDelivery s.h.key) s = .next s := by
  rw [exec_lampDelivery_focused hlive, State.onHart, hdue]
  rfl

@[simp] theorem Hart.trapEntry_trapcause (h : Hart) (w : Word) (c : Nat) (v : Word) :
    (h.trapEntry w c v).trapcause = h.trapCause c := by
  unfold Hart.trapEntry
  split <;> rfl

theorem Level.code_le_two (l : Level) : l.code ≤ 2 := by
  cases l <;> decide

/-- TRAPCAUSE.LAMP is LAMPCAUSE.IN: the fields below bit 15 do not carry into it. -/
theorem Hart.trapCause_lamp (h : Hart) {c : Nat} (hc : c < 32) : (h.trapCause c).getLsbD 15 = h.inLamp := by
  have hlevel := h.level.code_le_two
  have hlow : (if h.tan then 0x4000 else 0) + (if h.step then 0x2000 else 0) + h.level.code * 512 + c < 0x8000 := by
    split <;> split <;> omega
  rw [Hart.trapCause, BitVec.getLsbD_ofNat, Nat.testBit_eq_decide_div_mod_eq]
  cases h.inLamp <;> simp <;> omega

/-! ### A hart that has retired -/

/-- Every hart of that name goes, the one in focus too. -/
theorem State.harts_remove (s : State) (k : HKey) : (s.remove k).harts = s.harts.filter (·.key != k) := by
  simp only [State.harts, State.remove, List.filter_append, List.append_cancel_right_eq]
  by_cases hlive : s.h.live = true
  · by_cases hkey : s.h.key = k <;> simp [hlive, hkey]
  · simp [hlive]

theorem State.hartOf?_remove (s : State) (k : HKey) : (s.remove k).hartOf? k = none := by
  simp [State.hartOf?, State.harts_remove]

/-- A launch that counts a member as gone places no hart. -/
theorem State.hartOf?_memberGone (s : State) (k j : HKey) (lost : Bool) :
    (s.memberGone k lost).hartOf? j = s.hartOf? j := rfl

theorem State.hartOf?_retireHart {s : State} {k : HKey} {h : Hart} (hfound : s.hartOf? k = some h)
    (hretiring : h.retiring = true) (hdrained : s.drained k = true) : (s.retireHart k).hartOf? k = none := by
  simp only [State.retireHart, hfound, hretiring, hdrained, Bool.and_self, if_true]
  rw [State.hartOf?_memberGone, State.hartOf?_remove]

/-- Settles O10: a lamp is never due inside a handler and TRAPCAUSE.LAMP copies LAMPCAUSE.IN; UIRET traps outside a handler and
exchanges the banks inside one; a retirement removes every hart of its name, and what follows it places none. -/
theorem uiretReturns : Obligations.UiretReturns := by
  unfold Obligations.UiretReturns
  refine ⟨rfl, fun k s h hfound hretiring hdrained => ⟨_, rfl, State.hartOf?_retireHart hfound hretiring hdrained⟩,
    fun s => ?_⟩
  refine ⟨Hart.lampDue_of_inLamp, fun hin hlive => exec_lampDelivery_of_not_due hlive (Hart.lampDue_of_inLamp hin),
    fun c v hin hc => ?_, exec_uiret_outside s, fun hin => ⟨_, exec_uiret_inside s hin, ?_⟩⟩
  · rw [State.takeTrap_h, Hart.trapEntry_trapcause, Hart.trapCause_lamp _ hc, hin]
  · rw [State.onHart_h, State.onHart_mem, State.onHart_regs, Hart.lampReturn_s, Hart.lampReturn_alt]
    exact ⟨Hart.lampReturn_pc _, Hart.lampReturn_inLamp _, Hart.lampReturn_lampcause _,
      fun i hi => Hart.swapBank_s_banked _ hi, fun i hi => Hart.swapBank_alt_banked _ hi,
      fun r hr => Hart.swapBank_s_of_not_banked _ hr, Hart.lampReturn_strip _, Hart.lampReturn_rbuf _,
      Hart.lampReturn_level _, Hart.lampReturn_lamps _, rfl, rfl⟩

end Sys2Proof.Machine
end
